-- ==== Sys2Proof/Word.lean ====
section
/-!
DEFINITION. The word types of the PK318: bytes of exchange memory, 16-byte tags, and the numbers that name its
cards, job records, handles, authorities, banks and rows (00_scope.md, "Capacities").
-/

namespace Sys2Proof

/-- One byte of exchange memory or of a package. -/
abbrev Byte := BitVec 8

/-- A 16-byte tag, read little-endian like every multi-byte field. -/
abbrev Tag := BitVec 128

/-- Cards 0 to 31. -/
abbrev CardNo := Fin 32

/-- Job records 0 to 5. -/
abbrev JobId := Fin 6

/-- Handles 0 to 47. -/
abbrev HandleNo := Fin 48

/-- Authorities A0 to A5. -/
abbrev AuthNo := Fin 6

/-- Banks B0 to B7. -/
abbrev BankNo := Fin 8

/-- Rows 0 to 63 of a bank. -/
abbrev RowNo := Fin 64

/-- The two tamper inputs. -/
inductive TamperInput where
  | cover | field
  deriving DecidableEq, Repr, Inhabited

/-- The five working slots: S0 to S3, and the package slot P. -/
inductive SlotId where
  | host (i : Fin 4)
  | package
  deriving DecidableEq, Repr, Inhabited

/-- Who waits for a row read: a slot in OPENING, or a reclaim's fold (R128). -/
inductive Reader where
  | slot (i : SlotId)
  | fold
  deriving DecidableEq, Repr, Inhabited

/-- What an erase that ended or was cut short leaves of one row of its bank: the row as it was, a row that no longer
reads as valid, or a blank row (introduction of chapter 8; R163). -/
inductive RowResidue where
  | blank | kept | torn
  deriving DecidableEq, Repr, Inhabited

/-- What a power loss leaves of the row being programmed (R110, R169). -/
inductive ProgramResidue where
  | blank | torn | valid
  deriving DecidableEq, Repr, Inhabited

/-- The two causes of a cold start (R161). -/
inductive ColdCause where
  | powerOn | brownOut
  deriving DecidableEq, Repr, Inhabited

end Sys2Proof
end

