-- ==== Sys2Proof/Syntax.lean ====
section
/-!
DEFINITION. The commands of the PK318: one constructor per row of spec/opcode_table.json, in the table's order.
The operands of a host row are the bytes of its bus transaction; those of an event are what its physical outcome
leaves open (a level sampled at a pin, a CRC verdict, what an erase left). Log entries 4 to 7.
-/

namespace Sys2Proof

/-- One command. A host bus transaction writes `rest` (or `bytes`) at consecutive offsets; in `post`, `withdraw`,
`returnCard` and `cardFault` it begins at the state byte of `card`, with 5Ah, A5h, 00h or `value` (R2, R6). -/
inductive Instr where
  /-- POST: a transaction that begins with 5Ah in the state byte of `card` (R7). -/
  | post (card : CardNo) (rest : List Byte)
  /-- WITHDRAW: a transaction that begins with A5h in the state byte of `card` (R9). -/
  | withdraw (card : CardNo) (rest : List Byte)
  /-- RETURN: a transaction that begins with 00h in the state byte of `card` (R11). -/
  | returnCard (card : CardNo) (rest : List Byte)
  /-- CARD_FAULT: a transaction that begins with 7Eh, C3h or an undefined value in the state byte of `card` (R8). -/
  | cardFault (card : CardNo) (value : Byte) (rest : List Byte)
  /-- HOST_MEMORY_WRITE: a transaction that begins in the card table, the buffer area or the status page (R1). -/
  | hostMemoryWrite (offset : Nat) (bytes : List Byte)
  /-- CONTROL_WRITE: a transaction that begins at byte `start` of CONTROL (R19). -/
  | controlWrite (start : Fin 4) (bytes : List Byte)
  /-- SOFT_RESET: a transaction that begins at 4004h with a byte `low` whose bit 7 is 1 (R20). -/
  | softReset (low : Byte) (rest : List Byte)
  /-- ALERT_CLEAR: a transaction that begins at byte `start` of ALERT (R21). -/
  | alertClear (start : Fin 4) (bytes : List Byte)
  /-- REGISTER_WRITE_DISCARDED: a transaction on IDENT, STATE or beyond 400Fh (R1, R19, R22). -/
  | registerWriteDiscarded (offset : Nat) (bytes : List Byte)
  /-- OPEN: intake takes an OPEN card (R42). -/
  | takeOpen
  /-- CLOSE: intake takes a CLOSE card (R45). -/
  | takeClose
  /-- SIGN: intake takes a SIGN card (R73). -/
  | takeSign
  /-- CHECK: intake takes a CHECK card (R79). -/
  | takeCheck
  /-- QUERY: intake takes a QUERY card (R68). -/
  | takeQuery
  /-- PACKAGE: intake takes a PACKAGE card (R89). -/
  | takePackage
  /-- TIME: intake takes a TIME card (R145). -/
  | takeTime
  /-- SETTINGS: intake takes a SETTINGS card (R37). -/
  | takeSettings
  /-- WINDOWS: intake takes a WINDOWS card (R18). -/
  | takeWindows
  /-- KIND_UNKNOWN_REFUSAL: intake takes a card whose kind byte names no kind (R28). -/
  | kindUnknownRefusal
  /-- ROW_READ_START: a waiting row read starts (R128). -/
  | rowReadStart (reader : Reader)
  /-- KEY_ROW_READ_END: the row read of an opening slot ends; `crcOk` is the CRC verdict on the bytes read (R43, R44). -/
  | keyRowReadEnd (slot : SlotId) (crcOk : Bool)
  /-- SLOT_UNWRAP_END: the class-1 unwrap in the cipher core ends (R43). -/
  | slotUnwrapEnd
  /-- SIGN_OPERATION_END: the SIGN operation in the cipher core ends (R76). -/
  | signOperationEnd
  /-- TAG_COMPARISON_END: the CHECK's comparison in the cipher core ends (R80). -/
  | tagComparisonEnd
  /-- DECIPHER_END: the decipher in the cipher core ends (R83). -/
  | decipherEnd
  /-- WIPE_COMPLETION: the wipe of a CLOSING slot completes (R48). -/
  | wipeCompletion (slot : SlotId)
  /-- IDLE_CLOSE: the idle close of a host slot is taken (R49). -/
  | idleClose (slot : Fin 4)
  /-- PACKAGE_TAG_CHECK_END: the class-2 tag comparison in the cipher core ends (R94). -/
  | packageTagCheckEnd
  /-- STAGE_UNWRAP_END: the class-2 unwrap in the cipher core ends (R99). -/
  | stageUnwrapEnd
  /-- APPEND_START: the store starts a queued append (R132). -/
  | appendStart
  /-- RETRY_START: the store starts the retry of an abandoned record (R130). -/
  | retryStart
  /-- APPEND_COMPLETION: the program in flight ends and its read-back matches (R130). -/
  | appendCompletion
  /-- APPEND_ABANDONMENT: the program in flight ends and its read-back differs (R130). -/
  | appendAbandonment
  /-- RECLAIM_START: a reclaim starts (R133). -/
  | reclaimStart
  /-- COPY_ROW_START: the reclaim starts its next row (R134). -/
  | copyRowStart
  /-- FOLD_READ_END: a fold's row read ends; `crcOk` is the CRC verdict on the bytes read (R134). -/
  | foldReadEnd (crcOk : Bool)
  /-- ERASE_START: an erase starts (R137, R139). -/
  | eraseStart
  /-- ERASE_COMPLETION: the erase in flight ends, leaving `residue` (row 0 first; rows beyond the list are blank). -/
  | eraseCompletion (residue : List RowResidue)
  /-- TIME_BASE_SECOND: a second of the time base (R143). -/
  | timeBaseSecond
  /-- DRIFT_CREDIT_ACCRUAL: the sub-count has wrapped (R144). -/
  | driftCreditAccrual
  /-- TIME_MARK_DUE: a TIME mark falls due (R147). -/
  | timeMarkDue
  /-- TAMPER_LATCH: the latch of `input` sets (R152). -/
  | tamperLatch (input : TamperInput)
  /-- POWER_STATE_CHANGE: the power state changes (R157). -/
  | powerStateChange
  /-- INITIAL_POWER_STATE: the first four samples set the power state (R158). -/
  | initialPowerState
  /-- STANDBY_ENTRY: the part enters standby (R159). -/
  | standbyEntry
  /-- STANDBY_WAKE: a change of sampled level wakes the part (R160). -/
  | standbyWake
  /-- COLD_START: power-on or brown-out; `residue` is what is left of a program in flight (R162, R169). -/
  | coldStart (cause : ColdCause) (residue : ProgramResidue)
  /-- SCAN_END: the cold-start scan ends (R162). -/
  | scanEnd
  /-- RST_N_LOW: RST_N is found low (R169). -/
  | rstNLow
  /-- WARM_RESET_END: the end of the warm reset is judged with RST_N at the level given (R170). -/
  | warmResetEnd (rstHigh : Bool)
  /-- TIME_BASE_MILLI_TICK: a milli-tick, with the levels sampled at COVER, FIELD and PFAIL_N (R142, R151, R157). -/
  | timeBaseMilliTick (cover field pfail : Bool)
  deriving DecidableEq, Repr

end Sys2Proof
end

