-- ==== Sys2Proof/Decode.lean ====
section
/-!
DEFINITION. The commands that spec/opcode_table.json spells in bits: none. No row of the table carries bits, a fixed
value or a field (spec/98_reader.md: "n_rows_with_fixed": 0, "n_rows_with_fields": 0), so no word spells a command.
-/

namespace Sys2Proof

/-- The command that the word `w` of `nbits` bits spells by the table's bits: no row has any. -/
def decodeTableWord (_nbits _w : Nat) : Option Instr := none

end Sys2Proof
end

