-- ==== Sys2Proof/Config.lean ====
section
/-!
DEFINITION. What the manual leaves uninterpreted: the computations of the cipher core (00_scope.md: "It names their
inputs and outputs ... and treats each computation as a single operation that yields a result or a failed
comparison"), the key material of the factory rows, and what an abandoned erase leaves in its bank. Each is a
constant without a body: nothing in Lean can evaluate it, and a theorem about the model holds whatever it is.
-/

namespace Sys2Proof.Config

/-- The unwrap of a KEY row's material under the device root: the key material, or none where the unwrap's own check
fails (R32, R44). Log entry 1. -/
opaque unwrapDeviceRoot : List Byte → Option (List Byte)

/-- The frame tag under a key, over role code, handle, generation, counter and payload, in this order (R72). Log
entry 1. -/
opaque frameTag (key : List Byte) (role handle generation counter : Nat) (payload : List Byte) : Tag

/-- Byte `i` of the enciphered payload (R72); a payload keeps its length by construction. R72 names the payload and the
slot's key alone; that role code, handle, generation and counter may enter too is the model's choice. Log entries 1, 40. -/
opaque encipherByte (key : List Byte) (role handle generation counter : Nat) (payload : List Byte) (i : Nat) : Byte

/-- Byte `i` of the deciphered payload (R72), with the same inputs as `encipherByte`. Log entries 1, 40. -/
opaque decipherByte (key : List Byte) (role handle generation counter : Nat) (payload : List Byte) (i : Nat) : Byte

/-- The tag of a package under a command key, over the role code AUTH_CMD and bytes 0 to 111 (R94). Log entry 1. -/
opaque packageTag (key : List Byte) (role : Nat) (bytes : List Byte) : Tag

/-- The unwrap of a STAGE key: from the transport key, the 32-byte wrapped key and the 16-byte wrap check, the material
wrapped afresh under the device root, or none where the wrap check fails (R99). Log entry 1. -/
opaque rewrapStageKey (transportKey wrapped check : List Byte) : Option (List Byte)

/-- The wrapped key material of the factory KEY row of handle 0 or 1 (R112). Log entry 2. -/
opaque factoryMaterial (handle : Nat) : List Byte

/-- What the `draw`-th abandoned erase leaves of row `row` of its bank (R138, R140; introduction of chapter 8). Log
entry 3. -/
opaque abandonedEraseRow (draw row : Nat) : RowResidue

end Sys2Proof.Config
end

