-- ==== Sys2Proof/Machine/State.lean ====
section
/-!
DEFINITION. The state of the PK318: every piece of state the manual gives its twelve blocks, as plain data, the
reasons a step could stop, and the state right after reset. INVENTORY.md lists each field with its rule, its width
and its reset value. Counts, times, sequence numbers and generation numbers are natural numbers whose bounds the
rules state; registers that the host reads as words are bit vectors.
-/

namespace Sys2Proof.Machine

open Sys2Proof

/-! ## Cards and the exchange port -/

/-- The state of a card in the card state table (R5). -/
inductive CardState where
  | free | posted | taken | done
  deriving DecidableEq, Repr, Inhabited

/-- The group of a card (R4). -/
inductive Group where
  | m | c
  deriving DecidableEq, Repr, Inhabited

/-- The kind of a job (section 1.9, card header). -/
inductive Kind where
  | openKey | closeSlot | sign | check | query | package | time | settings | windows
  deriving DecidableEq, Repr, Inhabited

/-- One entry of the window table: offset, length, and the four rights (R15). -/
structure Window where
  offset : Nat
  length : Nat
  mRead : Bool
  mWrite : Bool
  cRead : Bool
  cWrite : Bool
  deriving DecidableEq, Repr, Inhabited

/-- The counters and store figures of the status page (R23). `nextSeq` and `erasedRows` are the figures as last
rewritten; the other fields of the page are read from their owners. -/
structure PageFigures where
  nextSeq : Nat
  erasedRows : Nat
  jobsOkM : Nat
  jobsRefusedM : Nat
  jobsOkC : Nat
  jobsRefusedC : Nat
  tagFailures : Nat
  replays : Nat
  tornRows : Nat
  reclaimsCompleted : Nat
  erasesAbandoned : Nat
  cardFaults : Nat
  deriving DecidableEq, Repr, Inhabited

/-- The exchange port. `memory` holds the card table without its state bytes, and the buffer area, as a list of
(offset, byte) in rising order of offset with no zero byte listed (R1, R3, R5). -/
structure Port where
  memory : List Host.Cell
  cards : Vector CardState 32
  arrival : List CardNo
  windows : Vector Window 8
  control : BitVec 32
  alert : BitVec 16
  doneMap : BitVec 32
  figures : PageFigures
  deriving DecidableEq, Repr

/-! ## Intake, settings and the job engine -/

/-- The settings of R37 that the working slots and intake hold (step_max is the time base's). -/
structure Settings where
  idleLimit : Nat
  admitC : Bool
  settingsSeen : Bool
  deriving DecidableEq, Repr, Inhabited

/-- Which key the lane job asks the package slot for (R52). -/
inductive LaneKey where
  | commandCurrent | commandRetiring | transport
  deriving DecidableEq, Repr, Inhabited

/-- What the lane job does once the release of P is complete (R52). -/
inductive AfterRelease where
  | tagMatched | tagMismatched (second : Bool) | keyUnwrapped | wrapBad
  deriving DecidableEq, Repr, Inhabited

/-- The step a job has reached in its course (R31). -/
inductive JobStep where
  | slotQueue
  | opening
  | counterWait
  | signWait | signRun
  | checkWait | checkRun
  | decipherWait | decipherRun
  | confirmWait | confirmStore
  | laneWait
  | keyWait (key : LaneKey) (gen : Nat)
  | tagWait (second : Bool) | tagRun (second : Bool)
  | unwrapWait | unwrapRun
  | releasing (next : AfterRelease)
  | writeWait
  | recordStore
  | lockStore
  deriving DecidableEq, Repr, Inhabited

/-- The wait reasons of R30; `JobStep.waitReason` gives the one a job holds. -/
inductive WaitReason where
  | slot | lane | packageSlot | cipher | handleWrite | counter | store
  deriving DecidableEq, Repr, Inhabited

/-- A job record in use (R30). `notes` has a note's bit at its ALERT position. `matched` says that a use has passed
step 2 of R46; `gen` is the generation it uses; `counter` the counter issued to a SIGN; `material` a STAGE key
wrapped afresh (R99); `output` the bytes for the payload range (R34). -/
structure Job where
  card : CardNo
  kind : Kind
  header : List Byte
  body : List Byte
  input : List Byte
  step : JobStep
  notes : BitVec 16
  matched : Bool
  gen : Nat
  counter : Nat
  material : List Byte
  output : List Byte
  deriving DecidableEq, Repr, Inhabited

/-- The six job records, the lane job, and the jobs waiting for the lane in take order (R30, R90). -/
structure Engine where
  jobs : Vector (Option Job) 6
  lane : Option JobId
  laneWaiting : List JobId
  deriving DecidableEq, Repr

/-! ## The cipher core -/

/-- An operation of the cipher core with the key it read when it began (R32, R72). -/
inductive CoreOp where
  | slotUnwrap (slot : SlotId) (material : List Byte)
  | packageTag (job : JobId) (key : List Byte)
  | stageUnwrap (job : JobId) (key : List Byte)
  | sign (job : JobId) (key : List Byte)
  | check (job : JobId) (key : List Byte)
  | decipher (job : JobId) (key : List Byte)
  deriving DecidableEq, Repr, Inhabited

/-- The operation in flight; its result is discarded where its slot was wiped or its job has completed (R48). -/
structure CoreRun where
  op : CoreOp
  discarded : Bool
  deriving DecidableEq, Repr, Inhabited

/-- A request waiting with the arbiter: class 1, class 2 or class 3 (R32). -/
inductive Request where
  | slotUnwrap (slot : SlotId)
  | lane (job : JobId)
  | use (job : JobId)
  deriving DecidableEq, Repr, Inhabited

/-- The cipher core and its arbiter; `waiting` is in order of arrival (R32, R33). -/
structure Cipher where
  running : Option CoreRun
  waiting : List Request
  lastGroup : Group
  deriving DecidableEq, Repr, Inhabited

/-! ## Policies and the key directory -/

/-- The role of a handle (R55). -/
inductive Role where
  | authCmd | authTransport | wanFrame | hanFrame | serviceFrame
  deriving DecidableEq, Repr, Inhabited

/-- The policy of a generation (R56). -/
structure Policy where
  signM : Bool
  signC : Bool
  checkM : Bool
  checkC : Bool
  payload : Bool
  tamperLock : Bool
  confirmOnUse : Bool
  deriving DecidableEq, Repr, Inhabited

/-- The place of a row in the store. -/
structure Location where
  bank : BankNo
  row : RowNo
  deriving DecidableEq, Repr, Inhabited

/-- A replay window: rx_high or none, and the seen-map, whose bit `i` stands for the counter rx_high - 1 - i (R81). -/
structure RxWindow where
  high : Option Nat
  seen : BitVec 32
  deriving DecidableEq, Repr, Inhabited

/-- A current generation record (R54). -/
structure CurrentGen where
  gen : Nat
  location : Location
  policy : Policy
  issuedAt : Nat
  expiry : Nat
  signLimit : Nat
  txNext : Nat
  txCeiling : Nat
  rx : RxWindow
  rxFloor : Option Nat
  deriving DecidableEq, Repr, Inhabited

/-- A staged generation record (R54). -/
structure StagedGen where
  gen : Nat
  location : Location
  policy : Policy
  issuedAt : Nat
  expiry : Nat
  signLimit : Nat
  rx : RxWindow
  authority : AuthNo
  deadline : Nat
  deriving DecidableEq, Repr, Inhabited

/-- A retiring generation record (R54). -/
structure RetiringGen where
  gen : Nat
  location : Location
  policy : Policy
  expiry : Nat
  rx : RxWindow
  graceEnd : Nat
  deriving DecidableEq, Repr, Inhabited

/-- The kinds of write on a handle (R64). -/
inductive WriteKind where
  | stage | confirm | cancel | revoke | release | confirmByUse
  deriving DecidableEq, Repr, Inhabited

/-- An entry of a write list; the owner is none once a warm reset has aborted its job (R64, R71). -/
structure WriteEntry where
  owner : Option JobId
  kind : WriteKind
  gen : Nat
  deriving DecidableEq, Repr, Inhabited

/-- The pending part of a counter-write request: the values wanted (R66). -/
structure CounterWant where
  ceiling : Option Nat
  floor : Option Nat
  deriving DecidableEq, Repr, Inhabited

/-- The in-flight part of a counter-write request: the values fixed into its row (R66). -/
structure CounterFlight where
  gen : Nat
  ceiling : Nat
  floor : Option Nat
  deriving DecidableEq, Repr, Inhabited

/-- One entry of the key directory (R54). Role none: the handle has never held a generation (R55). -/
structure HandleEntry where
  role : Option Role
  current : Option CurrentGen
  staged : Option StagedGen
  retiring : Option RetiringGen
  highestGen : Nat
  lastRevoked : Bool
  touched : Bool
  writeList : List WriteEntry
  counterPending : Option CounterWant
  counterFlight : Option CounterFlight
  deriving DecidableEq, Repr, Inhabited

/-! ## Working slots -/

/-- The state of a slot with what it holds there (R39). `reading` and `unwrapping` are OPENING: the row read waits
(no location) or is in flight (its location), then the unwrap is asked for or in flight. The policy is the one carried
in the KEY row that was read. `closing` keeps the milli-tick at which the wipe began (R48). -/
inductive SlotState where
  | empty
  | reading (handle : HandleNo) (gen : Nat) (inFlight : Option Location)
  | unwrapping (handle : HandleNo) (gen : Nat) (policy : Policy) (material : List Byte)
  | opened (handle : HandleNo) (gen : Nat) (policy : Policy) (key : List Byte)
  | closing (since : Nat)
  deriving DecidableEq, Repr, Inhabited

/-- A host slot: its state, its idle timer in seconds, and its pending list, front first (R39, R40, R49). -/
structure Slot where
  state : SlotState
  idle : Nat
  list : List JobId
  deriving DecidableEq, Repr, Inhabited

/-- The four host slots and the package slot (R39, R52). -/
structure Slots where
  host : Vector Slot 4
  package : SlotState
  deriving DecidableEq, Repr

/-! ## Authorities, custody and provisioning -/

/-- One entry of the authority table (R111). -/
structure Authority where
  defined : Bool
  commandHandle : HandleNo
  transportHandle : HandleNo
  timesetRight : Bool
  unlockRight : Bool
  accepted : Nat
  lastTag : Option Tag
  failCount : Nat
  lockUntil : Nat
  deriving DecidableEq, Repr, Inhabited

/-- One entry of the custody map; bit `k` of the mask stands for Ak, the rights are STAGE, CONFIRM, CANCEL, REVOKE,
RELEASE from bit 0, and role none is ANY (R118). -/
structure CustodyEntry where
  first : Nat
  last : Nat
  mask : BitVec 6
  rights : BitVec 5
  role : Option Role
  deriving DecidableEq, Repr, Inhabited

/-- The custody map and the provisioning state (R118, R120). -/
structure Custody where
  map : Vector CustodyEntry 8
  final : Bool
  deriving DecidableEq, Repr

/-! ## The record store -/

/-- The setup of one tamper input (R151). -/
structure TamperSetup where
  enabled : Bool
  activeHigh : Bool
  debounce : Nat
  deriving DecidableEq, Repr, Inhabited

/-- The header fields of a row that name its package: the authority, and the counter and tag, each possibly marked
absent (R126). -/
structure RowHeader where
  authority : Option AuthNo
  package : Option (Nat × Tag)
  deriving DecidableEq, Repr, Inhabited

/-- The state at write of a KEY record with the fields that go with it (R126). Only an IMMEDIATE row carries a grace
in minutes for the predecessor. -/
inductive KeyState where
  | staged (issuedAt signLimit deadline : Nat) (authority : AuthNo)
  | active (issuedAt signLimit txCeiling : Nat) (rxFloor : Option Nat) (grace : Option Nat)
  | retiring (graceEnd : Nat)
  deriving DecidableEq, Repr, Inhabited

/-- The content of a KEY record (R126). -/
structure KeyRecord where
  material : List Byte
  role : Role
  policy : Policy
  expiry : Nat
  state : KeyState
  highestGen : Nat
  deriving DecidableEq, Repr, Inhabited

/-- What an AUTHORITY record describes of its authority (R116). -/
structure AuthorityRecord where
  defined : Bool
  commandHandle : HandleNo
  transportHandle : HandleNo
  timesetRight : Bool
  unlockRight : Bool
  accepted : Nat
  lastTag : Option Tag
  lockUntil : Nat
  deriving DecidableEq, Repr, Inhabited

/-- The thirteen kinds of record with their contents (R126). -/
inductive Record where
  | key (handle : HandleNo) (gen : Nat) (content : KeyRecord)
  | confirm (handle : HandleNo) (gen grace txCeiling : Nat)
  | cancel (handle : HandleNo) (gen : Nat)
  | revoke (handle : HandleNo) (gen highestGen : Nat) (role : Option Role)
  | release (handle : HandleNo) (gen : Nat)
  | counter (handle : HandleNo) (gen txCeiling : Nat) (rxFloor : Option Nat)
  | authority (k : AuthNo) (content : AuthorityRecord)
  | custody (map : Vector CustodyEntry 8)
  | setup (cover field : TamperSetup) (final : Bool)
  | tamper (input : TamperInput) (time : Nat)
  | unlock (cover field : Bool)
  | time (offered : Option Nat)
  | reclaim (bank : BankNo) (floor : Nat)
  deriving DecidableEq, Repr

/-- A row whose CRC matches (R126, R163). -/
structure RowData where
  seq : Nat
  stamp : Nat
  header : RowHeader
  record : Record
  deriving DecidableEq, Repr

/-- A row of the array as the scan classifies it (R163). -/
inductive Row where
  | blank
  | torn
  | valid (data : RowData)
  deriving DecidableEq, Repr

/-- The array of 8 banks of 64 rows (R125). -/
abbrev RowArray := Vector (Vector Row 64) 8

/-- The five bank states (R125). -/
inductive BankState where
  | erased | head | full | erasing | needsErase
  deriving DecidableEq, Repr, Inhabited

/-- What a program writes, before its seq and stamp are known (R126, R130): a record as it stands; the KEY record of a
STAGE package, whose times derive from the stamp (R101, R102); or a copy that keeps its original's stamp (R135). -/
inductive Payload where
  | plain (header : RowHeader) (record : Record)
  | stage (header : RowHeader) (handle : HandleNo) (gen : Nat) (material : List Byte) (role : Role) (policy : Policy)
      (lifeDays signLimit confirmWindow grace : Nat) (immediate : Bool) (authority : AuthNo) (highestGen : Nat)
  | copy (data : RowData)
  deriving DecidableEq, Repr

/-- The requester of a program, to whom its completion or refusal goes (R130, R131). A job is none once a warm reset
has aborted it. -/
inductive Requester where
  | package (job : Option JobId)
  | confirmByUse (job : Option JobId)
  | lock (job : Option JobId)
  | counter (handle : HandleNo)
  | tamper (input : TamperInput)
  | timeMark
  | foldKey (handle : HandleNo) (gen : Nat)
  | foldRevoke (handle : HandleNo)
  | copyAsIs
  | rewrite (k : AuthNo)
  | reclaimMark (bank : BankNo)
  deriving DecidableEq, Repr, Inhabited

/-- An append waiting in the queue (R132). The content of a COUNTER, TAMPER or TIME mark is fixed at its start. -/
inductive QueuedAppend where
  | tamper (input : TamperInput)
  | counter (handle : HandleNo)
  | timeMark
  | owned (requester : Requester) (payload : Payload)
  deriving DecidableEq, Repr

/-- The program in flight: its row, and how often its record has been abandoned (R130). -/
structure Program where
  requester : Requester
  payload : Payload
  location : Location
  data : RowData
  failures : Nat
  deriving DecidableEq, Repr

/-- An abandoned record waiting for its retry (R130). -/
structure Retry where
  requester : Requester
  payload : Payload
  failures : Nat
  deriving DecidableEq, Repr

/-- A row that the COPY has readied (R134 to R137). -/
inductive CopyRow where
  | foldKey (handle : HandleNo) (gen : Nat) (material : List Byte)
  | foldRevoke (handle : HandleNo)
  | asIs (data : RowData)
  | rewrite (k : AuthNo)
  | reclaimMark
  deriving DecidableEq, Repr

/-- Where the COPY stands with its next row: its turn not yet judged, its fold's read waiting (no location) or in
flight, ready, or in program. -/
inductive CopyStage where
  | idle
  | reading (handle : HandleNo) (gen : Nat) (inFlight : Option Location)
  | ready (row : CopyRow)
  | running
  deriving DecidableEq, Repr

/-- The COPY's walk: the next tail row to be judged, the handles already folded, the fold in hand with the
generations still to be written, and the next authority to be judged for a rewrite (R134, R136). -/
structure CopyWalk where
  nextRow : Nat
  folded : List HandleNo
  foldHandle : HandleNo
  foldGens : List Nat
  nextAuthority : Nat
  stage : CopyStage
  deriving DecidableEq, Repr

/-- The two phases of a reclaim (section 8.5). -/
inductive ReclaimPhase where
  | copy (walk : CopyWalk)
  | erase
  deriving DecidableEq, Repr

/-- A reclaim in progress. `abandoned`: a warm reset gives its COPY up after the program in flight (R140). -/
structure Reclaim where
  tail : BankNo
  phase : ReclaimPhase
  abandoned : Bool
  deriving DecidableEq, Repr

/-- The record store (R125 to R141). `array` alone survives a power loss. -/
structure Store where
  array : RowArray
  banks : Vector BankState 8
  headBank : BankNo
  appendPos : Nat
  nextSeq : Nat
  queue : List QueuedAppend
  program : Option Program
  retry : Option Retry
  erase : Option BankNo
  history : List Nat
  fault : Bool
  reclaim : Option Reclaim
  deriving DecidableEq, Repr

/-! ## Time, tamper, supply, reset -/

/-- The state of a TAMPER mark or of the time base's TIME mark (R147, R153). -/
inductive MarkState where
  | none | waiting | inProgram
  deriving DecidableEq, Repr, Inhabited

/-- The time base (R142 to R147). `milli` counts milli-ticks since power-on; `prescaler` those of the second under
way; `secondsDue` and `creditsDue` are the seconds and sub-count wraps that have come and are not yet acted on. -/
structure TimeBase where
  milli : Nat
  prescaler : Nat
  secondsDue : Nat
  tt : Nat
  drift : Nat
  subCount : Nat
  creditsDue : Nat
  stepMax : Nat
  lastStamp : Nat
  timeMark : MarkState
  deriving DecidableEq, Repr, Inhabited

/-- One tamper input: setup, latch with its time, mark state, debounce count, and the level last sampled
(R151 to R156). -/
structure TamperState where
  setup : TamperSetup
  latched : Bool
  latchTime : Nat
  mark : MarkState
  debounceCount : Nat
  level : Option Bool
  deriving DecidableEq, Repr, Inhabited

/-- The tamper monitor. -/
structure Tamper where
  cover : TamperState
  field : TamperState
  deriving DecidableEq, Repr, Inhabited

/-- The power state (R157). -/
inductive Power where
  | mains | reserve
  deriving DecidableEq, Repr, Inhabited

/-- The activity (R159). -/
inductive Activity where
  | active | standby
  deriving DecidableEq, Repr, Inhabited

/-- The supply monitor. `firstSamples` are the samples of PFAIL_N collected for the first setting of the power state,
and `powerSet` says that it has been made (R158); `levelChanged` says that a sampled level has changed in standby
(R160). -/
structure Supply where
  power : Power
  disagree : Nat
  firstSamples : List Bool
  powerSet : Bool
  pfailLevel : Option Bool
  activity : Activity
  standbyCount : Nat
  levelChanged : Bool
  deriving DecidableEq, Repr, Inhabited

/-- The part state (R162). -/
inductive PartState where
  | starting | ready
  deriving DecidableEq, Repr, Inhabited

/-- The reset causes (R161). -/
inductive ResetCause where
  | powerOn | brownOut | pin | soft
  deriving DecidableEq, Repr, Inhabited

/-- The part state, the reset cause, RESERVE_AT_RESET, whether a warm reset is being carried out, and the level of
RST_N (R158, R161, R169). -/
structure ResetState where
  part : PartState
  cause : ResetCause
  reserveAtReset : Bool
  warmReset : Bool
  rstHigh : Bool
  deriving DecidableEq, Repr, Inhabited

/-- The whole state. `pending` is the queue of commands that wait, first in, first out; `freeDraws` counts the free
values drawn (the model's own fields; log entries 3 and 4). -/
structure State where
  resetCtl : ResetState
  port : Port
  settings : Settings
  engine : Engine
  cipher : Cipher
  slots : Slots
  directory : Vector HandleEntry 48
  authorities : Vector Authority 6
  custody : Custody
  store : Store
  time : TimeBase
  tamper : Tamper
  supply : Supply
  pending : List Instr
  freeDraws : Nat
  deriving DecidableEq, Repr

/-! ## Outcomes -/

/-- Why the machine could stop with a fault. The manual gives every command an effect in every state, so no meaning
raises this. -/
inductive Fault where
  /-- Raised by no meaning; it stands so that the type is inhabited. Safe: a fault only stops a run. -/
  | unreachable
  deriving DecidableEq, Repr

/-- Why a command could have no meaning. -/
inductive Refusal where
  /-- Raised by the dispatcher alone, for a command not modelled yet; at present by none. Safe: it stops a run. -/
  | notModelled (mnemonic : String)
  deriving DecidableEq, Repr

/-! ## Reset values -/

/-- A policy with no use rights and no flags (R112). -/
def Policy.empty : Policy := ⟨false, false, false, false, false, false, false⟩

/-- A replay window with rx_high none and an empty map (R82). -/
def RxWindow.fresh : RxWindow := ⟨Option.none, 0⟩

/-- A directory entry of a handle without any row (R167). -/
def HandleEntry.vacant : HandleEntry :=
  ⟨none, none, none, none, 0, false, false, [], none, none⟩

/-- An authority without any row (R112). -/
def Authority.undefined : Authority := ⟨false, 0, 0, false, false, 0, none, 0, 0⟩

/-- A custody entry with an empty mask (R118). -/
def CustodyEntry.empty : CustodyEntry := ⟨0, 0, 0, 0, none⟩

/-- The factory map of R118. -/
def CustodyEntry.factoryMap : Vector CustodyEntry 8 :=
  (Vector.replicate 8 CustodyEntry.empty).set 0 ⟨0, 1, 1, 31, none⟩

/-- The factory tamper setup of one input (R123). -/
def TamperSetup.factory : TamperSetup := ⟨false, false, 1⟩

/-- A tamper input after the arrival of a cold start (R156; log entry 8). -/
def TamperState.cold : TamperState := ⟨TamperSetup.factory, false, 0, .none, 0, none⟩

/-- The factory KEY row of handle 0 or 1 (R112). -/
def RowData.factoryKey (h : HandleNo) (role : Role) : RowData :=
  { seq := h.val, stamp := 0, header := ⟨none, none⟩
    record := .key h 1
      { material := Config.factoryMaterial h.val, role := role, policy := Policy.empty, expiry := 0xFFFFFFFF
        state := .active 0 1 0 none none, highestGen := 1 } }

/-- The record store as the part leaves the factory (R112). -/
def RowArray.factory : RowArray :=
  let bank0 : Vector Row 64 :=
    ((((((Vector.replicate 64 Row.blank).set 0 (.valid (RowData.factoryKey 0 .authCmd))).set 1
      (.valid (RowData.factoryKey 1 .authTransport))).set 2
      (.valid ⟨2, 0, ⟨none, none⟩, .authority 0 ⟨true, 0, 1, true, true, 0, none, 0⟩⟩)).set 3
      (.valid ⟨3, 0, ⟨none, none⟩, .custody CustodyEntry.factoryMap⟩)).set 4
      (.valid ⟨4, 0, ⟨none, none⟩, .setup TamperSetup.factory TamperSetup.factory false⟩))
  (Vector.replicate 8 (Vector.replicate 64 Row.blank)).set 0 bank0

/-- The exchange port after the arrival of a cold start (R3, R5, R9, R13, R15, R19, R21, R23). -/
def Port.cold : Port :=
  { memory := [], cards := Vector.replicate 32 .free, arrival := []
    windows := (Vector.replicate 8 ⟨0, 0, false, false, false, false⟩).set 0 ⟨0x2000, 0x1E00, true, true, false, false⟩
    control := 0, alert := 0, doneMap := 0, figures := ⟨0, 0, 0, 0, 0, 0, 0, 0, 0, 0, 0, 0⟩ }

/-- The record store after the arrival of a cold start: the array stands, and what the scan establishes holds a
placeholder until the scan ends (R140; log entry 8). -/
def Store.cold (array : RowArray) : Store :=
  { array := array, banks := Vector.replicate 8 .erased, headBank := 0, appendPos := 0, nextSeq := 0, queue := []
    program := none, retry := none, erase := none, history := [], fault := false, reclaim := none }

/-- The state at the arrival of a cold start of a part whose store holds `array`: STARTING, nothing of SRAM kept
(R162, R38, R39, R33, R144, R156, R158, R160). -/
def State.cold (cause : ResetCause) (array : RowArray) (pending : List Instr) (freeDraws : Nat) : State :=
  { resetCtl := ⟨.starting, cause, false, false, true⟩
    port := Port.cold
    settings := ⟨60, false, false⟩
    engine := ⟨Vector.replicate 6 none, none, []⟩
    cipher := ⟨none, [], .c⟩
    slots := ⟨Vector.replicate 4 ⟨.empty, 0, []⟩, .empty⟩
    directory := Vector.replicate 48 HandleEntry.vacant
    authorities := Vector.replicate 6 Authority.undefined
    custody := ⟨Vector.replicate 8 CustodyEntry.empty, false⟩
    store := Store.cold array
    time := ⟨0, 0, 0, 0, 0, 0, 0, 900, 0, .none⟩
    tamper := ⟨TamperState.cold, TamperState.cold⟩
    supply := ⟨.mains, 0, [], false, none, .active, 0, false⟩
    pending := pending
    freeDraws := freeDraws }

/-- The machine right after reset: a part fresh from the factory at the arrival of its first power-on (R112, R162). -/
def State.reset : State := State.cold .powerOn RowArray.factory [] 0

end Sys2Proof.Machine
end

