-- ==== Sys2Proof/Machine/Bytes.lean ====
section
/-!
DEFINITION. Byte order and bit fields: little-endian fields of cards, packages and registers (00_scope.md,
"Byte order"), and the exchange memory as a canonical list of cells.
-/

namespace Sys2Proof.Machine

open Sys2Proof

/-! ## Little-endian fields -/

/-- Byte `i` of a snapshot; bytes beyond its end read 0. -/
def byteAt (l : List Byte) (i : Nat) : Byte := l.getD i 0

/-- The 16-bit field at byte `i`. -/
def u16At (l : List Byte) (i : Nat) : Nat := (byteAt l i).toNat + 256 * (byteAt l (i + 1)).toNat

/-- The 32-bit field at byte `i`. -/
def u32At (l : List Byte) (i : Nat) : Nat := u16At l i + 65536 * u16At l (i + 2)

/-- The `n` bytes from byte `i`. -/
def bytesAt (l : List Byte) (i n : Nat) : List Byte := (List.range n).map fun k => byteAt l (i + k)

/-- The number that a little-endian byte string spells. -/
def leNat : List Byte → Nat
  | [] => 0
  | b :: bs => b.toNat + 256 * leNat bs

/-- The low `k` bytes of `n`, little-endian. -/
def leBytes : Nat → Nat → List Byte
  | 0, _ => []
  | k + 1, n => BitVec.ofNat 8 n :: leBytes k (n / 256)

/-- The 16-byte tag at byte `i`. -/
def tagAt (l : List Byte) (i : Nat) : Tag := BitVec.ofNat 128 (leNat (bytesAt l i 16))

/-- The 16 bytes of a tag. -/
def tagBytes (t : Tag) : List Byte := leBytes 16 t.toNat

/-- Bit `k` of byte `i`. -/
def bitAt (l : List Byte) (i k : Nat) : Bool := (byteAt l i).getLsbD k

/-- A byte holding `b` in bit 0. -/
def boolByte (b : Bool) : Byte := if b then 1 else 0

/-- `v` with byte `i` replaced. -/
def setByte32 (v : BitVec 32) (i : Nat) (b : Byte) : BitVec 32 :=
  (v &&& ~~~((255 : BitVec 32) <<< (8 * i))) ||| (b.setWidth 32 <<< (8 * i))

/-- Byte `i` of a 32-bit word. -/
def byteOf32 (v : BitVec 32) (i : Nat) : Byte := (v >>> (8 * i)).setWidth 8

/-- The sum of two numbers, saturating at 0FFFFFFFFh (R149). -/
def satAdd32 (a b : Nat) : Nat := min (a + b) 0xFFFFFFFF

/-- A counter of the status page one higher, holding at 0FFFFFFFFh (R23). -/
def bump32 (n : Nat) : Nat := min (n + 1) 0xFFFFFFFF

/-! ## The exchange memory -/

/-- The byte at an offset: 0 where nothing is listed (R3). -/
def Memory.read : List Host.Cell → Nat → Byte
  | [], _ => 0
  | (a, b) :: m, x => if a = x then b else Memory.read m x

/-- The memory after a byte is stored. A zero byte is not listed. -/
def Memory.write : List Host.Cell → Nat → Byte → List Host.Cell
  | [], x, v => if v = 0 then [] else [(x, v)]
  | (a, b) :: m, x, v =>
    if x < a then (if v = 0 then (a, b) :: m else (x, v) :: (a, b) :: m)
    else if x = a then (if v = 0 then m else (x, v) :: m)
    else (a, b) :: Memory.write m x v

/-- The memory after bytes are stored from an offset upward. -/
def Memory.writeBytes : List Host.Cell → Nat → List Byte → List Host.Cell
  | m, _, [] => m
  | m, x, b :: bs => Memory.writeBytes (Memory.write m x b) (x + 1) bs

/-- The `n` bytes from an offset upward. -/
def Memory.readBytes (m : List Host.Cell) (x n : Nat) : List Byte :=
  (List.range n).map fun k => Memory.read m (x + k)

/-- The canonical form: offsets strictly rising, and no zero byte listed. -/
def Memory.wf : List Host.Cell → Bool
  | [] => true
  | [(_, b)] => b != 0
  | (a, b) :: (a', b') :: m => b != 0 && decide (a < a') && Memory.wf ((a', b') :: m)

/-! ## Vectors -/

/-- Every element of a vector replaced by its image. -/
def mapVector {α : Type} {n : Nat} (f : α → α) (v : Vector α n) : Vector α n :=
  ⟨⟨v.toList.map f⟩, by simp⟩

end Sys2Proof.Machine
end

