-- ==== Sys2Proof/Machine/Access.lean ====
section
/-!
DEFINITION. Named updates of the state, one per block, and the accessors of its tables. Every operation of the
model reads and writes the state through these; Sys2Proof/Laws/State.lean holds their small lemmas.
-/

namespace Sys2Proof.Machine

open Sys2Proof

/-! ## One update per block -/

/-- The state with its reset control changed. -/
def State.onReset (s : State) (f : ResetState → ResetState) : State := { s with resetCtl := f s.resetCtl }

/-- The state with its exchange port changed. -/
def State.onPort (s : State) (f : Port → Port) : State := { s with port := f s.port }

/-- The state with its settings changed. -/
def State.onSettings (s : State) (f : Settings → Settings) : State := { s with settings := f s.settings }

/-- The state with its job engine changed. -/
def State.onEngine (s : State) (f : Engine → Engine) : State := { s with engine := f s.engine }

/-- The state with its cipher core changed. -/
def State.onCipher (s : State) (f : Cipher → Cipher) : State := { s with cipher := f s.cipher }

/-- The state with its slots changed. -/
def State.onSlots (s : State) (f : Slots → Slots) : State := { s with slots := f s.slots }

/-- The state with one directory entry changed. -/
def State.onEntry (s : State) (h : HandleNo) (f : HandleEntry → HandleEntry) : State :=
  { s with directory := s.directory.set h (f s.directory[h]) }

/-- The state with one authority changed. -/
def State.onAuthority (s : State) (k : AuthNo) (f : Authority → Authority) : State :=
  { s with authorities := s.authorities.set k (f s.authorities[k]) }

/-- The state with its custody map or provisioning state changed. -/
def State.onCustody (s : State) (f : Custody → Custody) : State := { s with custody := f s.custody }

/-- The state with its record store changed. -/
def State.onStore (s : State) (f : Store → Store) : State := { s with store := f s.store }

/-- The state with its time base changed. -/
def State.onTime (s : State) (f : TimeBase → TimeBase) : State := { s with time := f s.time }

/-- The state with its tamper monitor changed. -/
def State.onTamper (s : State) (f : Tamper → Tamper) : State := { s with tamper := f s.tamper }

/-- The state with its supply monitor changed. -/
def State.onSupply (s : State) (f : Supply → Supply) : State := { s with supply := f s.supply }

/-! ## The tables -/

/-- The six job records, in order. -/
def allJobs : List JobId := [0, 1, 2, 3, 4, 5]

/-- The four host slots, in order. -/
def allSlots : List (Fin 4) := [0, 1, 2, 3]

/-- The six authorities, in order. -/
def allAuthorities : List AuthNo := [0, 1, 2, 3, 4, 5]

/-- The eight banks, in order. -/
def allBanks : List BankNo := [0, 1, 2, 3, 4, 5, 6, 7]

/-- The 64 rows of a bank, in order. -/
def allRows : List RowNo := List.finRange 64

/-- The 48 handles, in order. -/
def allHandles : List HandleNo := List.finRange 48

/-- The directory entry of a handle. -/
def State.entry (s : State) (h : HandleNo) : HandleEntry := s.directory[h]

/-- The entry of an authority. -/
def State.authority (s : State) (k : AuthNo) : Authority := s.authorities[k]

/-- The job in a record, if the record is in use. -/
def State.job (s : State) (j : JobId) : Option Job := s.engine.jobs[j]

/-- The job engine with one record replaced. -/
def Engine.setJob (e : Engine) (j : JobId) (x : Option Job) : Engine := { e with jobs := e.jobs.set j x }

/-- The state with a job record replaced. -/
def State.setJob (s : State) (j : JobId) (x : Option Job) : State := s.onEngine fun e => e.setJob j x

/-- The state with the job in a record changed; a free record stays free. -/
def State.onJob (s : State) (j : JobId) (f : Job → Job) : State := s.setJob j ((s.job j).map f)

/-- The state with a job at another step of its course. -/
def State.setStep (s : State) (j : JobId) (step : JobStep) : State := s.onJob j fun x => { x with step := step }

/-- The state with notes added to those a job has gathered. -/
def State.addNotes (s : State) (j : JobId) (notes : BitVec 16) : State :=
  s.onJob j fun x => { x with notes := x.notes ||| notes }

/-- A host slot. -/
def State.slot (s : State) (i : Fin 4) : Slot := s.slots.host[i]

/-- The state with a host slot changed. -/
def State.onSlot (s : State) (i : Fin 4) (f : Slot → Slot) : State :=
  s.onSlots fun t => { t with host := t.host.set i (f t.host[i]) }

/-- The state of a slot, host or package. -/
def State.slotState (s : State) : SlotId → SlotState
  | .host i => (s.slot i).state
  | .package => s.slots.package

/-- The state with a slot put into another slot state. A host slot that is not OPEN holds its idle timer at 0 (R48). -/
def State.setSlotState (s : State) (i : SlotId) (x : SlotState) : State :=
  match i with
  | .host i => s.onSlot i fun t => { t with state := x, idle := 0 }
  | .package => s.onSlots fun t => { t with package := x }

/-- The state with the idle timer of a host slot returned to 0 (R49). -/
def State.resetIdle (s : State) (i : Fin 4) : State := s.onSlot i fun t => { t with idle := 0 }

/-- The tamper input's state. -/
def Tamper.input (t : Tamper) : TamperInput → TamperState
  | .cover => t.cover
  | .field => t.field

/-- The tamper monitor with one input changed. -/
def Tamper.onInput (t : Tamper) (i : TamperInput) (f : TamperState → TamperState) : Tamper :=
  match i with
  | .cover => { t with cover := f t.cover }
  | .field => { t with field := f t.field }

/-- Some tamper latch is set (R42 step 4). -/
def State.anyLatch (s : State) : Bool := s.tamper.cover.latched || s.tamper.field.latched

end Sys2Proof.Machine
end

