-- ==== Sys2Proof/Machine/Flags.lean ====
section
/-!
DEFINITION. Status codes, notes, the ALERT and CONTROL registers, and what is computed from the state when the host
looks: NOTE_N, the STATE register, the status page and a host read of any byte (sections 1.5 to 1.9).
-/

namespace Sys2Proof.Machine

open Sys2Proof

/-! ## Status codes and notes -/

/-- The statuses of a completion (section 1.9, "Status codes"). -/
inductive Status where
  | ok | alreadyApplied
  | kindUnknown | fieldBad | groupDenied | windowDenied | abortedByReset
  | slotBusy | slotEmpty | slotMismatch
  | noKey | keyExpired | keySpent | notCurrent | roleDenied | useDenied | tamperLock
  | storeFault
  | tagBad | replay | tooOld
  | authUnknown | authLocked | authSpent | counterOld | counterJump | noCustody | custodyConflict | custodyDenied
  | rightDenied | genBad | genSpent | stageOpen | graceOpen | notStaged | wrapBad | provisioningClosed
  deriving DecidableEq, Repr, Inhabited

/-- The code of a status. -/
def Status.code : Status → Nat
  | .ok => 0x0000
  | .alreadyApplied => 0x0001
  | .kindUnknown => 0x0101
  | .fieldBad => 0x0102
  | .groupDenied => 0x0103
  | .windowDenied => 0x0104
  | .abortedByReset => 0x0105
  | .slotBusy => 0x0201
  | .slotEmpty => 0x0202
  | .slotMismatch => 0x0203
  | .noKey => 0x0301
  | .keyExpired => 0x0302
  | .keySpent => 0x0303
  | .notCurrent => 0x0304
  | .roleDenied => 0x0305
  | .useDenied => 0x0306
  | .tamperLock => 0x0307
  | .storeFault => 0x0601
  | .tagBad => 0x0401
  | .replay => 0x0402
  | .tooOld => 0x0403
  | .authUnknown => 0x0501
  | .authLocked => 0x0502
  | .authSpent => 0x0503
  | .counterOld => 0x0504
  | .counterJump => 0x0505
  | .noCustody => 0x0506
  | .custodyConflict => 0x0507
  | .custodyDenied => 0x0508
  | .rightDenied => 0x0509
  | .genBad => 0x050A
  | .genSpent => 0x050B
  | .stageOpen => 0x050C
  | .graceOpen => 0x050D
  | .notStaged => 0x050E
  | .wrapBad => 0x050F
  | .provisioningClosed => 0x0510

/-- OK and ALREADY_APPLIED count as jobs OK and carry results (R10, R34). -/
def Status.good : Status → Bool
  | .ok | .alreadyApplied => true
  | _ => false

/-- The notes and event bits, each at its place in ALERT (section 1.9, "Registers"). -/
def noteAlreadyOpen : BitVec 16 := 1 <<< 0
/-- GRACE_USED. -/
def noteGraceUsed : BitVec 16 := 1 <<< 1
/-- STAGED_USED. -/
def noteStagedUsed : BitVec 16 := 1 <<< 2
/-- CONFIRMED_BY_USE. -/
def noteConfirmedByUse : BitVec 16 := 1 <<< 3
/-- EXPIRY_NEAR. -/
def noteExpiryNear : BitVec 16 := 1 <<< 4
/-- COUNTER_LOW. -/
def noteCounterLow : BitVec 16 := 1 <<< 5
/-- CLOCK_CLAMPED. -/
def noteClockClamped : BitVec 16 := 1 <<< 6
/-- CLOCK_BEHIND. -/
def noteClockBehind : BitVec 16 := 1 <<< 7
/-- AUTH_NOW_LOCKED. -/
def noteAuthNowLocked : BitVec 16 := 1 <<< 8
/-- ALERT.TAMPER. -/
def alertTamper : BitVec 16 := 1 <<< 9
/-- ALERT.SUPPLY. -/
def alertSupply : BitVec 16 := 1 <<< 10
/-- ALERT.STORE_FAULT. -/
def alertStoreFault : BitVec 16 := 1 <<< 11
/-- ALERT.CARD_FAULT. -/
def alertCardFault : BitVec 16 := 1 <<< 12
/-- ALERT.FRAME_REJECT. -/
def alertFrameReject : BitVec 16 := 1 <<< 13
/-- ALERT.AUTH_LOCK. -/
def alertAuthLock : BitVec 16 := 1 <<< 14
/-- ALERT.RESET_DONE. -/
def alertResetDone : BitVec 16 := 1 <<< 15

/-- The event bit a completion raises beside its notes: FRAME_REJECT for a CHECK that ends TAG_BAD, REPLAY or TOO_OLD,
and AUTH_LOCK for a package whose failure locked its authority (R21, R35). -/
def completionEvent (kind : Kind) (status : Status) (notes : BitVec 16) : BitVec 16 :=
  (if kind = .check ∧ (status = .tagBad ∨ status = .replay ∨ status = .tooOld) then alertFrameReject else 0) |||
    (if kind = .package ∧ notes &&& noteAuthNowLocked ≠ 0 then alertAuthLock else 0)

/-- The state with ALERT bits set (R21). -/
def State.raise (s : State) (bits : BitVec 16) : State := s.onPort fun p => { p with alert := p.alert ||| bits }

/-! ## CONTROL -/

/-- The CONTROL bits that carry a setting (R19). -/
def controlMask : BitVec 32 := 0xFFFF0003

/-- CONTROL.CARD_IRQ_EN. -/
def Port.cardIrqEnabled (p : Port) : Bool := p.control.getLsbD 0

/-- CONTROL.STANDBY_OK. -/
def Port.standbyOk (p : Port) : Bool := p.control.getLsbD 1

/-- CONTROL.ALERT_MASK. -/
def Port.alertMask (p : Port) : BitVec 16 := (p.control >>> 16).setWidth 16

/-! ## Cards -/

/-- The group of a card (R4). -/
def cardGroup (n : CardNo) : Group := if n.val < 16 then .m else .c

/-- The mirror of a card state (R5). -/
def CardState.mirror : CardState → Byte
  | .free => 0x00
  | .posted => 0x5A
  | .taken => 0x7E
  | .done => 0xC3

/-- The offset of a card (section 1.1). -/
def cardBase (n : CardNo) : Nat := 256 * n.val

/-- The offset is that of a card's state byte (section 1.1). -/
def isStateByte (a : Nat) : Bool := decide (a < 0x2000) && decide (a % 256 = 0)

/-- The card whose 256 bytes hold the offset, for offsets below 2000h. -/
def cardAt (a : Nat) : CardNo := Fin.ofNat 32 (a / 256)

/-! ## What the host sees -/

/-- NOTE_N is driven low (R14). -/
def State.noteLow (s : State) : Bool :=
  (s.port.cardIrqEnabled && s.port.doneMap != 0) || (s.port.alert &&& s.port.alertMask != 0)

/-- An authority is locked while TT is below its lock_until (R111). -/
def State.locked (s : State) (k : AuthNo) : Bool := decide (s.time.tt < (s.authority k).lockUntil)

/-- The locked flags of the status page, bit `k` for Ak (R23). -/
def State.lockedFlags (s : State) : Nat :=
  allAuthorities.foldl (fun acc k => if s.locked k then acc + 2 ^ k.val else acc) 0

/-- The time of a latch as the status page shows it: 0 while the latch is clear (R23). -/
def TamperState.shownTime (t : TamperState) : Nat := if t.latched then t.latchTime else 0

/-- The bytes of the status page from 3E00h, in READY (section 1.9, "Status page"). -/
def State.pageBytes (s : State) : List Byte :=
  leBytes 4 s.time.tt ++ leBytes 4 s.time.drift ++ leBytes 4 s.port.figures.nextSeq ++
  leBytes 2 s.port.figures.erasedRows ++ leBytes 1 s.lockedFlags ++ [0] ++ leBytes 4 s.port.doneMap.toNat ++
  (allAuthorities.map fun k => leBytes 4 (s.authority k).accepted).flatten ++
  leBytes 4 s.port.figures.jobsOkM ++ leBytes 4 s.port.figures.jobsRefusedM ++
  leBytes 4 s.port.figures.jobsOkC ++ leBytes 4 s.port.figures.jobsRefusedC ++
  leBytes 4 s.port.figures.tagFailures ++ leBytes 4 s.port.figures.replays ++
  leBytes 4 s.port.figures.tornRows ++ leBytes 4 s.port.figures.reclaimsCompleted ++
  leBytes 4 s.port.figures.erasesAbandoned ++ leBytes 4 s.port.figures.cardFaults ++
  leBytes 4 s.tamper.cover.shownTime ++ leBytes 4 s.tamper.field.shownTime

/-- A byte of the status page: zero until the part enters READY (R3, R23). -/
def State.pageByte (s : State) (i : Nat) : Byte :=
  match s.resetCtl.part with
  | .starting => 0
  | .ready => byteAt s.pageBytes i

/-- The store state shown in STATE: 0 NORMAL, 1 RECLAIM, 2 FAULT (R131). -/
def Store.stateCode (t : Store) : Nat := if t.fault then 2 else if t.reclaim.isSome then 1 else 0

/-- The code of a reset cause (section 1.9, "Registers"). -/
def ResetCause.code : ResetCause → Nat
  | .powerOn => 0
  | .brownOut => 1
  | .pin => 2
  | .soft => 3

/-- A bit at a place of a register. -/
def bitNat (b : Bool) (place : Nat) : Nat := if b then 2 ^ place else 0

/-- The STATE register (R22; section 1.9, "Registers"). -/
def State.stateRegister (s : State) : BitVec 32 :=
  BitVec.ofNat 32 (bitNat (s.resetCtl.part = .ready) 0 + bitNat (s.supply.power = .reserve) 1 +
    bitNat (s.supply.activity = .standby) 2 + 16 * s.resetCtl.cause.code + bitNat s.resetCtl.reserveAtReset 7 +
    bitNat s.custody.final 8 + bitNat s.settings.admitC 9 + bitNat s.settings.settingsSeen 10 +
    bitNat s.tamper.cover.latched 11 + bitNat s.tamper.field.latched 12 + 8192 * s.store.stateCode)

/-- IDENT: family 3Bh, revision 01h, 20h cards, 30h handles (R19). -/
def identRegister : BitVec 32 := 0x3020013B

/-- What a host read of one byte returns (R1, R5, R19 to R23). A read changes nothing. -/
def State.hostRead (s : State) (a : Nat) : Byte :=
  if a < 0x3E00 then
    if isStateByte a then (s.port.cards[cardAt a]).mirror else Memory.read s.port.memory a
  else if a < 0x4000 then s.pageByte (a - 0x3E00)
  else if a < 0x4004 then byteOf32 identRegister (a - 0x4000)
  else if a < 0x4008 then byteOf32 s.port.control (a - 0x4004)
  else if a < 0x400C then byteOf32 (s.port.alert.setWidth 32) (a - 0x4008)
  else if a < 0x4010 then byteOf32 s.stateRegister (a - 0x400C)
  else 0

end Sys2Proof.Machine
end

