-- ==== Sys2Proof/Machine/Operands.lean ====
section
/-!
DEFINITION. The fields of cards and renewal packages, read from snapshots, and the checks on their ranges: kinds,
roles, policies, the window check, the checks at take and the format check (section 1.9; R16, R18, R28, R29, R89).
-/

namespace Sys2Proof.Machine

open Sys2Proof

/-! ## Kinds and roles -/

/-- The kind a kind byte names (section 1.9, "Card header"). -/
def kindOfByte (b : Byte) : Option Kind :=
  match b.toNat with
  | 1 => some .openKey
  | 2 => some .closeSlot
  | 3 => some .sign
  | 4 => some .check
  | 5 => some .query
  | 6 => some .package
  | 7 => some .time
  | 8 => some .settings
  | 9 => some .windows
  | _ => none

/-- The kinds intake takes in RESERVE (R25). -/
def Kind.reserveAllowed : Kind → Bool
  | .openKey | .closeSlot | .sign | .check | .query => true
  | _ => false

/-- The kinds that join a slot's pending list (R40). -/
def Kind.usesSlot : Kind → Bool
  | .openKey | .closeSlot | .sign | .check => true
  | _ => false

/-- A role's code (section 1.9). -/
def Role.code : Role → Nat
  | .authCmd => 1
  | .authTransport => 2
  | .wanFrame => 3
  | .hanFrame => 4
  | .serviceFrame => 5

/-- The role a code names. -/
def roleOfCode : Nat → Option Role
  | 1 => some .authCmd
  | 2 => some .authTransport
  | 3 => some .wanFrame
  | 4 => some .hanFrame
  | 5 => some .serviceFrame
  | _ => none

/-- The role that QUERY and OPEN report: 0 if none was ever set (R55). -/
def roleCode : Option Role → Nat
  | none => 0
  | some r => r.code

/-- The roles that hosts may not open (R42 step 2). -/
def Role.internal : Role → Bool
  | .authCmd | .authTransport => true
  | _ => false

/-! ## Fields of a job's snapshot (section 1.9, "Card header" and "Card bodies")

Body fields are read at their offset from the start of the card, less 16. -/

/-- NOTIFY. -/
def Job.notify (x : Job) : Bool := bitAt x.header 2 0

/-- AUTO_CLOSE. -/
def Job.autoClose (x : Job) : Bool := bitAt x.header 2 1

/-- The kind's option: ENCIPHER, DECIPHER or CLEAR_TOUCHED. -/
def Job.option (x : Job) : Bool := bitAt x.header 2 2

/-- The slot byte. -/
def Job.slotByte (x : Job) : Nat := (byteAt x.header 3).toNat

/-- The host slot named; meant for jobs that passed the checks at take. -/
def Job.slotNo (x : Job) : Fin 4 := Fin.ofNat 4 x.slotByte

/-- The handle byte. -/
def Job.handleByte (x : Job) : Nat := (byteAt x.header 4).toNat

/-- The handle named; meant for jobs that passed the checks at take. -/
def Job.handle (x : Job) : HandleNo := Fin.ofNat 48 x.handleByte

/-- The generation field. -/
def Job.genField (x : Job) : Nat := u16At x.header 6

/-- The payload offset of a SIGN or CHECK, or the package offset of a PACKAGE. -/
def Job.rangeOffset (x : Job) : Nat := u16At x.body 0

/-- The length of the buffer range a job names (R16). -/
def Job.rangeLength (x : Job) : Nat := if x.kind = .package then 128 else u16At x.body 2

/-- The kinds that name a buffer range (R16). -/
def Kind.namesRange : Kind → Bool
  | .sign | .check | .package => true
  | _ => false

/-- The counter a CHECK's frame claims. -/
def Job.claimedCounter (x : Job) : Nat := u32At x.body 4

/-- The tag a CHECK's frame claims. -/
def Job.claimedTag (x : Job) : Tag := tagAt x.body 8

/-- The offered time of a TIME job. -/
def Job.offeredTime (x : Job) : Nat := u32At x.body 0

/-- The idle limit of a SETTINGS job. -/
def Job.idleLimit (x : Job) : Nat := u16At x.body 0

/-- The step_max of a SETTINGS job. -/
def Job.stepMax (x : Job) : Nat := u32At x.body 4

/-- ADMIT_C as a SETTINGS job asks for it. -/
def Job.admitBit (x : Job) : Bool := bitAt x.body 8 0

/-- Entry `i` of a WINDOWS job. -/
def Job.window (x : Job) (i : Nat) : Window :=
  { offset := u16At x.body (8 * i), length := u16At x.body (8 * i + 2)
    mRead := bitAt x.body (8 * i + 4) 0, mWrite := bitAt x.body (8 * i + 4) 1
    cRead := bitAt x.body (8 * i + 4) 2, cWrite := bitAt x.body (8 * i + 4) 3 }

/-- The rights byte of entry `i` of a WINDOWS job. -/
def Job.windowRights (x : Job) (i : Nat) : Nat := (byteAt x.body (8 * i + 4)).toNat

/-- The eight entries of a WINDOWS job. -/
def Job.windows (x : Job) : Vector Window 8 :=
  ⟨#[x.window 0, x.window 1, x.window 2, x.window 3, x.window 4, x.window 5, x.window 6, x.window 7], rfl⟩

/-- The group of a job's card (R4). -/
def Job.group (x : Job) : Group := cardGroup x.card

/-- The wait reason a job holds at its step (R30, R31; log entry 9). A CLOSE whose own wipe is under way keeps SLOT (log entry
46). -/
def JobStep.waitReason : JobStep → Option WaitReason
  | .slotQueue => some .slot
  | .counterWait => some .counter
  | .signWait | .checkWait | .decipherWait | .tagWait _ | .unwrapWait => some .cipher
  | .confirmWait | .writeWait => some .handleWrite
  | .confirmStore | .recordStore | .lockStore => some .store
  | .laneWait => some .lane
  | .keyWait _ _ => some .packageSlot
  | .opening | .signRun | .checkRun | .decipherRun | .tagRun _ | .unwrapRun | .releasing _ => none

/-! ## Ranges and the window check -/

/-- The range lies wholly inside the buffer area (R16). -/
def rangeInBuffer (offset length : Nat) : Bool := decide (0x2000 ≤ offset) && decide (offset + length ≤ 0x3E00)

/-- The entry grants the group the right: write if `write`, else read (R15). -/
def Window.grants (w : Window) (g : Group) (write : Bool) : Bool :=
  match g, write with
  | .m, false => w.mRead
  | .m, true => w.mWrite
  | .c, false => w.cRead
  | .c, true => w.cWrite

/-- The entry is enabled and covers the 16 bytes from `a`, which is a multiple of 16 (R15). -/
def Window.covers (w : Window) (a : Nat) : Bool :=
  decide (w.length ≠ 0) && decide (w.offset ≤ a) && decide (a < w.offset + w.length)

/-- The granules a range touches, by their offsets (R16). -/
def granules (offset length : Nat) : List Nat :=
  if length = 0 then []
  else (List.range ((offset + length - 1) / 16 + 1 - offset / 16)).map fun k => 16 * (offset / 16 + k)

/-- Every touched granule has the right for the group (R16). -/
def windowsGrant (ws : Vector Window 8) (g : Group) (write : Bool) (offset length : Nat) : Bool :=
  (granules offset length).all fun a => ws.toList.any fun w => w.covers a && w.grants g write

/-- The window check of R16 for a job that names a range: read always, and write too for ENCIPHER or DECIPHER. -/
def windowCheck (ws : Vector Window 8) (x : Job) : Bool :=
  windowsGrant ws x.group false x.rangeOffset x.rangeLength &&
    (!(x.option && (x.kind = .sign || x.kind = .check)) ||
      windowsGrant ws x.group true x.rangeOffset x.rangeLength)

/-- An entry of a WINDOWS body is as R18 requires. -/
def windowEntryOk (w : Window) (rights : Nat) : Bool :=
  (decide (w.length = 0) ||
    (decide (w.offset % 16 = 0) && decide (w.length % 16 = 0) && decide (0x2000 ≤ w.offset) &&
      decide (w.offset + w.length ≤ 0x3E00))) && decide (rights < 16)

/-- The field checks of the kind (R29). -/
def fieldsOk (x : Job) : Bool :=
  match x.kind with
  | .openKey => decide (x.slotByte < 4) && decide (x.handleByte < 48)
  | .closeSlot => decide (x.slotByte < 4)
  | .sign | .check =>
    decide (x.slotByte < 4) && decide (x.handleByte < 48) && decide (1 ≤ x.rangeLength) &&
      decide (x.rangeLength ≤ 1024) && rangeInBuffer x.rangeOffset x.rangeLength
  | .query => decide (x.handleByte < 48)
  | .package => rangeInBuffer x.rangeOffset x.rangeLength
  | .time => true
  | .settings => decide (x.idleLimit ≤ 3600) && decide (60 ≤ x.stepMax) && decide (x.stepMax ≤ 86400)
  | .windows => (List.range 8).all fun i => windowEntryOk (x.window i) (x.windowRights i)

/-- The checks at take of a job of a known kind, in the order of R28: the first that fails gives the refusal. -/
def checkAtTake (ws : Vector Window 8) (x : Job) : Option Status :=
  if (x.kind = .settings ∨ x.kind = .windows) ∧ x.group ≠ .m then some .groupDenied
  else if byteAt x.header 5 ≠ 0 ∨ fieldsOk x = false then some .fieldBad
  else if x.kind.namesRange ∧ windowCheck ws x = false then some .windowDenied
  else none

/-- The result fields of a kind: offset in the card and length (section 1.9, "Card bodies"). -/
def resultFields : Kind → List (Nat × Nat)
  | .openKey => [(16, 2), (18, 1)]
  | .sign => [(20, 4), (24, 16)]
  | .check => [(40, 2)]
  | .query =>
    [(16, 1), (17, 1), (18, 2), (20, 2), (22, 1), (23, 1), (24, 4), (28, 2), (30, 1), (32, 4), (36, 2), (40, 4), (44, 4),
      (48, 4), (52, 4), (56, 4), (60, 4)]
  | .package => [(20, 1), (22, 2), (24, 4)]
  | .time => [(20, 4), (24, 4)]
  | .closeSlot | .settings | .windows => []

/-- The values of a kind's result fields laid out as the bytes of each field. -/
def layFields : List (Nat × Nat) → List Nat → List (Nat × List Byte)
  | (off, len) :: fs, v :: vs => (off, leBytes len v) :: layFields fs vs
  | (off, len) :: fs, [] => (off, leBytes len 0) :: layFields fs []
  | [], _ => []

/-! ## Renewal packages (section 1.9, "Renewal package") -/

/-- The eleven package kinds. -/
inductive PackageKind where
  | stage | confirm | cancel | revoke | release | timeset | unlock | authority | custody | setup | finalize
  deriving DecidableEq, Repr, Inhabited

/-- The kind a package's kind byte names. -/
def packageKindOf (b : Byte) : Option PackageKind :=
  match b.toNat with
  | 0x01 => some .stage
  | 0x02 => some .confirm
  | 0x03 => some .cancel
  | 0x04 => some .revoke
  | 0x05 => some .release
  | 0x10 => some .timeset
  | 0x11 => some .unlock
  | 0x20 => some .authority
  | 0x21 => some .custody
  | 0x22 => some .setup
  | 0x23 => some .finalize
  | _ => none

/-- The kinds that act on a handle. -/
def PackageKind.onHandle : PackageKind → Bool
  | .stage | .confirm | .cancel | .revoke | .release => true
  | _ => false

/-- The kinds that act on provisioning (R97). -/
def PackageKind.provisioning : PackageKind → Bool
  | .authority | .custody | .setup | .finalize => true
  | _ => false

/-- The kind of a package in its 128 bytes; meant for packages that passed the format check. -/
def pkgKind (p : List Byte) : PackageKind := (packageKindOf (byteAt p 2)).getD .finalize
/-- The package's authority byte. -/
def pkgAuthByte (p : List Byte) : Nat := (byteAt p 3).toNat
/-- The package's authority. -/
def pkgAuth (p : List Byte) : AuthNo := Fin.ofNat 6 (pkgAuthByte p)
/-- The package's counter. -/
def pkgCounter (p : List Byte) : Nat := u32At p 4
/-- The package's handle byte. -/
def pkgHandleByte (p : List Byte) : Nat := (byteAt p 8).toNat
/-- The package's handle. -/
def pkgHandle (p : List Byte) : HandleNo := Fin.ofNat 48 (pkgHandleByte p)
/-- IMMEDIATE. -/
def pkgImmediate (p : List Byte) : Bool := bitAt p 9 0
/-- The package's generation. -/
def pkgGen (p : List Byte) : Nat := u16At p 10
/-- The package's tag. -/
def pkgTag (p : List Byte) : Tag := tagAt p 112
/-- STAGE: the role byte. -/
def pkgRoleByte (p : List Byte) : Nat := (byteAt p 12).toNat
/-- STAGE: the role. -/
def pkgRole (p : List Byte) : Role := (roleOfCode (pkgRoleByte p)).getD .wanFrame
/-- STAGE: use rights and policy flags. -/
def pkgPolicy (p : List Byte) : Policy :=
  { signM := bitAt p 13 0, signC := bitAt p 13 1, checkM := bitAt p 13 2, checkC := bitAt p 13 3
    payload := bitAt p 13 4, tamperLock := bitAt p 14 0, confirmOnUse := bitAt p 14 1 }
/-- STAGE: life_days. -/
def pkgLifeDays (p : List Byte) : Nat := u16At p 16
/-- STAGE: sign_limit. -/
def pkgSignLimit (p : List Byte) : Nat := u32At p 18
/-- STAGE: confirm_window in minutes. -/
def pkgConfirmWindow (p : List Byte) : Nat := u16At p 22
/-- STAGE: grace in minutes, used with IMMEDIATE. -/
def pkgStageGrace (p : List Byte) : Nat := u16At p 24
/-- STAGE: the 32-byte wrapped key. -/
def pkgWrappedKey (p : List Byte) : List Byte := bytesAt p 26 32
/-- STAGE: the 16-byte wrap check. -/
def pkgWrapCheck (p : List Byte) : List Byte := bytesAt p 58 16
/-- CONFIRM: grace in minutes. -/
def pkgConfirmGrace (p : List Byte) : Nat := u16At p 12
/-- TIMESET: the offered time. -/
def pkgTime (p : List Byte) : Nat := u32At p 12
/-- UNLOCK: the latches to clear. -/
def pkgUnlock (p : List Byte) (i : TamperInput) : Bool :=
  match i with
  | .cover => bitAt p 12 0
  | .field => bitAt p 12 1
/-- AUTHORITY: the authority defined. -/
def pkgSubject (p : List Byte) : AuthNo := Fin.ofNat 6 (byteAt p 12).toNat
/-- AUTHORITY: defined. -/
def pkgDefined (p : List Byte) : Bool := bitAt p 13 0
/-- AUTHORITY: the command key handle. -/
def pkgCommandHandle (p : List Byte) : HandleNo := Fin.ofNat 48 (byteAt p 14).toNat
/-- AUTHORITY: the transport key handle. -/
def pkgTransportHandle (p : List Byte) : HandleNo := Fin.ofNat 48 (byteAt p 15).toNat
/-- CUSTODY: entry `i`. -/
def pkgCustodyEntry (p : List Byte) (i : Nat) : CustodyEntry :=
  { first := (byteAt p (12 + 5 * i)).toNat, last := (byteAt p (13 + 5 * i)).toNat
    mask := (byteAt p (14 + 5 * i)).setWidth 6, rights := (byteAt p (15 + 5 * i)).setWidth 5
    role := roleOfCode (byteAt p (16 + 5 * i)).toNat }
/-- CUSTODY: the whole map. -/
def pkgCustodyMap (p : List Byte) : Vector CustodyEntry 8 :=
  ⟨#[pkgCustodyEntry p 0, pkgCustodyEntry p 1, pkgCustodyEntry p 2, pkgCustodyEntry p 3, pkgCustodyEntry p 4,
    pkgCustodyEntry p 5, pkgCustodyEntry p 6, pkgCustodyEntry p 7], rfl⟩
/-- SETUP: the setup of one input, from byte `i`. -/
def pkgSetup (p : List Byte) (i : Nat) : TamperSetup :=
  { enabled := bitAt p i 0, activeHigh := bitAt p (i + 1) 0, debounce := (byteAt p (i + 2)).toNat }

/-- The conditions of the format check on a STAGE body (R89). -/
def stageFormatOk (p : List Byte) : Bool :=
  decide (1 ≤ pkgRoleByte p) && decide (pkgRoleByte p ≤ 5) && decide ((byteAt p 13).toNat < 32) &&
    decide ((byteAt p 14).toNat < 4) && !(bitAt p 14 0 && (pkgRole p).internal) &&
    decide (pkgLifeDays p ≤ 16383) && decide (1 ≤ pkgSignLimit p) && decide (1 ≤ pkgConfirmWindow p)

/-- The condition of the format check on entry `i` of a CUSTODY body (R89). -/
def custodyFormatOk (p : List Byte) (i : Nat) : Bool :=
  decide ((byteAt p (12 + 5 * i)).toNat ≤ (byteAt p (13 + 5 * i)).toNat) &&
    decide ((byteAt p (13 + 5 * i)).toNat ≤ 47) && decide ((byteAt p (14 + 5 * i)).toNat < 64) &&
    decide ((byteAt p (15 + 5 * i)).toNat < 32) && decide ((byteAt p (16 + 5 * i)).toNat ≤ 5)

/-- The condition of the format check on the three SETUP bytes of one input (R89). -/
def setupFormatOk (p : List Byte) (i : Nat) : Bool :=
  decide ((byteAt p i).toNat ≤ 1) && decide ((byteAt p (i + 1)).toNat ≤ 1) && decide (1 ≤ (byteAt p (i + 2)).toNat)

/-- The format check of R89. -/
def formatOk (p : List Byte) : Bool :=
  decide (u16At p 0 = 0x5A31) && decide (pkgAuthByte p ≤ 5) && decide ((byteAt p 9).toNat < 2) &&
    match packageKindOf (byteAt p 2) with
    | none => false
    | some .stage => decide (pkgHandleByte p < 48) && stageFormatOk p
    | some k =>
      !pkgImmediate p &&
        match k with
        | .confirm | .cancel | .revoke | .release => decide (pkgHandleByte p < 48)
        | .unlock => decide (1 ≤ (byteAt p 12).toNat) && decide ((byteAt p 12).toNat < 4)
        | .authority =>
          decide ((byteAt p 12).toNat ≤ 5) && decide ((byteAt p 13).toNat < 2) &&
            decide ((byteAt p 14).toNat < 48) && decide ((byteAt p 15).toNat < 48) && decide ((byteAt p 16).toNat < 4)
        | .custody => (List.range 8).all fun i => custodyFormatOk p i
        | .setup => setupFormatOk p 12 && setupFormatOk p 15
        | _ => true

/-- The generation a completion reports: 0 for kinds that do not act on a handle (R93, R100). -/
def pkgResultGen (p : List Byte) : Nat := if (pkgKind p).onHandle then pkgGen p else 0

/-- The handle whose write list a job may have an entry in (R64): a CHECK's own, or a handle package's. -/
def Job.writeHandle (x : Job) : HandleNo := if x.kind = .package then pkgHandle x.input else x.handle

end Sys2Proof.Machine
end

