-- ==== Sys2Proof/Machine/Directory.lean ====
section
/-!
DEFINITION. The judgements of the key directory and the effects of records on one handle entry, shared by the live
part and by the replay of the scan (chapters 4 to 6 and 9).
-/

namespace Sys2Proof.Machine

open Sys2Proof

/-! ## Presence, liveness, condition -/

/-- A staged record is present while TT < stage_deadline (R57). -/
def HandleEntry.presentStaged (e : HandleEntry) (tt : Nat) : Option StagedGen :=
  e.staged.filter fun g => decide (tt < g.deadline)

/-- A retiring record is present while TT < grace_end (R57). -/
def HandleEntry.presentRetiring (e : HandleEntry) (tt : Nat) : Option RetiringGen :=
  e.retiring.filter fun g => decide (tt < g.graceEnd)

/-- Some generation is present. -/
def HandleEntry.anyPresent (e : HandleEntry) (tt : Nat) : Bool :=
  e.current.isSome || (e.presentStaged tt).isSome || (e.presentRetiring tt).isSome

/-- Where a live generation stands in its handle (R80). -/
inductive Standing where
  | current | staged | retiring
  deriving DecidableEq, Repr, Inhabited

/-- The standing of generation `g`, or none if it is not live (R59). -/
def HandleEntry.standing (e : HandleEntry) (tt g : Nat) : Option Standing :=
  if e.current.any (fun c => c.gen == g) then some .current
  else if (e.presentStaged tt).any (fun c => c.gen == g) then some .staged
  else if (e.presentRetiring tt).any (fun c => c.gen == g) then some .retiring
  else none

/-- The policy of generation `g` at its standing (R56). -/
def HandleEntry.policyAt (e : HandleEntry) (st : Standing) : Policy :=
  match st with
  | .current => (e.current.map (·.policy)).getD Policy.empty
  | .staged => (e.staged.map (·.policy)).getD Policy.empty
  | .retiring => (e.retiring.map (·.policy)).getD Policy.empty

/-- The location of generation `g`'s KEY row, from the record stored for it (R63). -/
def HandleEntry.locationOf (e : HandleEntry) (g : Nat) : Option Location :=
  if e.current.any (fun c => c.gen == g) then e.current.map (·.location)
  else if e.staged.any (fun c => c.gen == g) then e.staged.map (·.location)
  else if e.retiring.any (fun c => c.gen == g) then e.retiring.map (·.location)
  else none

/-- The phases of R58. -/
inductive Phase where
  | vacant | settled | staged | overlap
  deriving DecidableEq, Repr, Inhabited

/-- The phase at a moment (R58). -/
def HandleEntry.phase (e : HandleEntry) (tt : Nat) : Phase :=
  if (e.presentStaged tt).isSome then .staged
  else if (e.presentRetiring tt).isSome then .overlap
  else if e.current.isSome then .settled
  else .vacant

/-- The code QUERY reports for a phase. -/
def Phase.code : Phase → Nat
  | .vacant => 0
  | .settled => 1
  | .staged => 2
  | .overlap => 3

/-- The conditions of R60. -/
inductive Condition where
  | usable | expired | spent
  deriving DecidableEq, Repr, Inhabited

/-- The condition of a current generation at a moment (R60). -/
def CurrentGen.condition (c : CurrentGen) (tt : Nat) : Condition :=
  if c.expiry ≤ tt then .expired else if c.signLimit ≤ c.txNext then .spent else .usable

/-- The code QUERY reports for a condition. -/
def Condition.code : Condition → Nat
  | .usable => 0
  | .expired => 1
  | .spent => 2

/-- The policy grants the group its sign right (R73). -/
def Policy.signs (p : Policy) : Group → Bool
  | .m => p.signM
  | .c => p.signC

/-- The policy grants the group its check right (R79). -/
def Policy.checks (p : Policy) : Group → Bool
  | .m => p.checkM
  | .c => p.checkC

/-! ## The replay window -/

/-- The verdicts of R81. -/
inductive WindowVerdict where
  | accepted (after : RxWindow)
  | replay
  | tooOld
  deriving DecidableEq, Repr

/-- The counter `m` is in the seen-map (R81). -/
def RxWindow.hasSeen (w : RxWindow) (m : Nat) : Bool :=
  match w.high with
  | none => false
  | some h => decide (m < h) && decide (h - 1 - m < 32) && w.seen.getLsbD (h - 1 - m)

/-- The window's judgement of a counter `m` (R81): below rx_high by `k + 1`, bit `k` of the map stands for it. -/
def RxWindow.judge (w : RxWindow) (m : Nat) : WindowVerdict :=
  match w.high with
  | none => .accepted ⟨some m, 0⟩
  | some h =>
    if h < m then
      if m - h ≤ 32 then .accepted ⟨some m, (w.seen <<< (m - h)) ||| (1 <<< (m - h - 1))⟩
      else .accepted ⟨some m, 0⟩
    else if m = h then .replay
    else if 32 < h - m then .tooOld
    else if w.seen.getLsbD (h - 1 - m) then .replay
    else .accepted ⟨some h, w.seen ||| (1 <<< (h - 1 - m))⟩

/-- The window of a current generation after a cold start (R70). -/
def RxWindow.restored (floor : Option Nat) : RxWindow :=
  match floor with
  | none => RxWindow.fresh
  | some f => ⟨some f, BitVec.allOnes 32⟩

/-- The rx window used at a standing (R80). -/
def HandleEntry.windowAt (e : HandleEntry) (st : Standing) : RxWindow :=
  match st with
  | .current => (e.current.map (·.rx)).getD RxWindow.fresh
  | .staged => (e.staged.map (·.rx)).getD RxWindow.fresh
  | .retiring => (e.retiring.map (·.rx)).getD RxWindow.fresh

/-- The entry with the window at a standing replaced (R81). -/
def HandleEntry.setWindow (e : HandleEntry) (st : Standing) (w : RxWindow) : HandleEntry :=
  match st with
  | .current => { e with current := e.current.map fun c => { c with rx := w } }
  | .staged => { e with staged := e.staged.map fun c => { c with rx := w } }
  | .retiring => { e with retiring := e.retiring.map fun c => { c with rx := w } }

/-! ## Derived times -/

/-- The expiry of a generation issued at `issuedAt` for `lifeDays` (R148). -/
def expiryOf (issuedAt lifeDays : Nat) : Nat :=
  if lifeDays = 0 then 0xFFFFFFFF else satAdd32 issuedAt (lifeDays * 86400)

/-- What becomes of a predecessor at a stamp with a grace in minutes: retiring, or dropped (R102, R103, R149). -/
def CurrentGen.retire (c : CurrentGen) (stamp grace : Nat) : Option RetiringGen :=
  let graceEnd := min (satAdd32 stamp (grace * 60)) c.expiry
  if grace = 0 ∨ graceEnd ≤ stamp then none
  else some { gen := c.gen, location := c.location, policy := c.policy, expiry := c.expiry, rx := c.rx
              graceEnd := graceEnd }

/-! ## Effects of records on an entry

`now` is the time against which presence is judged: TT for the live part, the row's stamp in replay (R61, R166). -/

/-- The lapsed records cleared (R57, R61). -/
def HandleEntry.clearLapsed (e : HandleEntry) (now : Nat) : HandleEntry :=
  { e with staged := e.presentStaged now, retiring := e.presentRetiring now }

/-- The role, highest_gen and last_revoked after a KEY record (R55, R62). `now` judges whether any generation is
present. -/
def HandleEntry.noteKey (e : HandleEntry) (now : Nat) (role : Role) (highest : Nat) : HandleEntry :=
  { e with role := if e.anyPresent now then e.role else some role
           highestGen := max e.highestGen highest, lastRevoked := false }

/-- The effect of a KEY record with state STAGED (R101). -/
def HandleEntry.applyStaged (e : HandleEntry) (now gen : Nat) (loc : Location) (k : KeyRecord)
    (issuedAt signLimit deadline : Nat) (authority : AuthNo) : HandleEntry :=
  let e := (e.clearLapsed now).noteKey now k.role k.highestGen
  { e with staged := some { gen := gen, location := loc, policy := k.policy, issuedAt := issuedAt, expiry := k.expiry
                            signLimit := signLimit, rx := RxWindow.fresh, authority := authority, deadline := deadline } }

/-- The effect of a package's KEY record with state ACTIVE (R102). -/
def HandleEntry.applyActive (e : HandleEntry) (now stamp gen : Nat) (loc : Location) (k : KeyRecord)
    (issuedAt signLimit txCeiling : Nat) (rxFloor : Option Nat) (grace : Nat) : HandleEntry :=
  let e := (e.clearLapsed now).noteKey now k.role k.highestGen
  { e with current := some { gen := gen, location := loc, policy := k.policy, issuedAt := issuedAt, expiry := k.expiry
                             signLimit := signLimit, txNext := 0, txCeiling := txCeiling, rx := RxWindow.fresh
                             rxFloor := rxFloor }
           retiring := match e.current with
             | some c => c.retire stamp grace
             | none => e.retiring }

/-- The staged generation named by a CONFIRM mark whose stamp is before its deadline (R103). -/
def HandleEntry.confirmable (e : HandleEntry) (stamp gen : Nat) : Option StagedGen :=
  e.staged.filter fun g => decide (g.gen = gen) && decide (stamp < g.deadline)

/-- The effect of a CONFIRM mark (R103): the staged record is judged by the mark's stamp. -/
def HandleEntry.applyConfirm (e : HandleEntry) (now stamp gen grace txCeiling : Nat) : HandleEntry :=
  match e.confirmable stamp gen with
  | none => e.clearLapsed now
  | some g =>
    { e with
      staged := none
      current := some { gen := g.gen, location := g.location, policy := g.policy, issuedAt := g.issuedAt
                        expiry := g.expiry, signLimit := g.signLimit, txNext := 0, txCeiling := txCeiling, rx := g.rx
                        rxFloor := none }
      retiring := match e.current with
        | some c => c.retire stamp grace
        | none => e.presentRetiring now }

/-- The effect of a CANCEL mark (R104). -/
def HandleEntry.applyCancel (e : HandleEntry) (now gen : Nat) : HandleEntry :=
  let e := e.clearLapsed now
  { e with staged := e.staged.filter fun g => g.gen != gen }

/-- The effect of a RELEASE mark (R104). -/
def HandleEntry.applyRelease (e : HandleEntry) (now : Nat) : HandleEntry :=
  { e.clearLapsed now with retiring := none }

/-- The effect of a REVOKE mark on the entry (R105). -/
def HandleEntry.applyRevoke (e : HandleEntry) (highest : Nat) (role : Option Role) : HandleEntry :=
  { e with current := none, staged := none, retiring := none, lastRevoked := true
           highestGen := max e.highestGen highest
           role := match role with
             | some r => some r
             | none => e.role }

/-- The effect of a COUNTER mark: applied if its generation is still current (R67). It clears no lapsed record (log entry
39). -/
def HandleEntry.applyCounter (e : HandleEntry) (gen txCeiling : Nat) (rxFloor : Option Nat) : HandleEntry :=
  { e with current := e.current.map fun c =>
      if c.gen = gen then { c with txCeiling := txCeiling, rxFloor := rxFloor } else c }

/-- The records of generation `gen` taken out, wherever they stand. -/
def HandleEntry.without (e : HandleEntry) (gen : Nat) : HandleEntry :=
  { e with current := e.current.filter fun c => c.gen != gen
           staged := e.staged.filter fun c => c.gen != gen
           retiring := e.retiring.filter fun c => c.gen != gen }

/-- The effect in replay of a KEY row with no authority, a fold or a factory row (R166). -/
def HandleEntry.applyFold (e : HandleEntry) (now gen : Nat) (loc : Location) (k : KeyRecord) : HandleEntry :=
  let e := (e.noteKey now k.role k.highestGen).without gen
  match k.state with
  | .staged issuedAt signLimit deadline authority =>
    { e with staged := some { gen := gen, location := loc, policy := k.policy, issuedAt := issuedAt
                              expiry := k.expiry, signLimit := signLimit, rx := RxWindow.fresh
                              authority := authority, deadline := deadline } }
  | .active issuedAt signLimit txCeiling rxFloor _ =>
    { e with current := some { gen := gen, location := loc, policy := k.policy, issuedAt := issuedAt
                               expiry := k.expiry, signLimit := signLimit, txNext := 0, txCeiling := txCeiling
                               rx := RxWindow.fresh, rxFloor := rxFloor } }
  | .retiring graceEnd =>
    { e with retiring := some { gen := gen, location := loc, policy := k.policy, expiry := k.expiry
                                rx := RxWindow.fresh, graceEnd := graceEnd } }

/-- The location of generation `gen` moved to a new row (R63, R134). A move clears no lapsed record (log entry 39). -/
def HandleEntry.moveLocation (e : HandleEntry) (gen : Nat) (loc : Location) : HandleEntry :=
  { e with current := e.current.map fun c => if c.gen = gen then { c with location := loc } else c
           staged := e.staged.map fun c => if c.gen = gen then { c with location := loc } else c
           retiring := e.retiring.map fun c => if c.gen = gen then { c with location := loc } else c }

/-- The values a cold start gives a replayed entry (R70). -/
def HandleEntry.restarted (e : HandleEntry) : HandleEntry :=
  { e with current := e.current.map fun c => { c with txNext := c.txCeiling, rx := RxWindow.restored c.rxFloor }
           staged := e.staged.map fun c => { c with rx := RxWindow.fresh }
           retiring := e.retiring.map fun c => { c with rx := RxWindow.fresh }
           touched := false, writeList := [], counterPending := none, counterFlight := none }

/-! ## QUERY and the state checks -/

/-- A write of the handle is pending (R68). -/
def HandleEntry.writePending (e : HandleEntry) : Bool :=
  !e.writeList.isEmpty || e.counterPending.isSome || e.counterFlight.isSome

/-- The values of QUERY's result fields, in the order of `resultFields .query` (R68; section 1.9). -/
def HandleEntry.queryValues (e : HandleEntry) (tt : Nat) : List Nat :=
  let c := e.current
  let g := e.presentStaged tt
  let r := e.presentRetiring tt
  let high := c.bind (·.rx.high)
  [ (e.phase tt).code,
    bitNat e.touched 0 + bitNat e.writePending 1 + bitNat high.isSome 2,
    e.highestGen,
    (c.map (·.gen)).getD 0,
    (c.map (fun x => (x.condition tt).code)).getD 0,
    roleCode e.role,
    (c.map (·.expiry)).getD 0,
    (g.map (·.gen)).getD 0,
    (g.map (fun x => x.authority.val)).getD 0,
    (g.map (·.deadline)).getD 0,
    (r.map (·.gen)).getD 0,
    (r.map (·.graceEnd)).getD 0,
    (c.map (·.txNext)).getD 0,
    (c.map (·.txCeiling)).getD 0,
    (c.map (·.signLimit)).getD 0,
    high.getD 0,
    (c.map (·.issuedAt)).getD 0 ]

/-- The state checks of a package at the front of the write list, in order (R98). -/
def stateChecks (e : HandleEntry) (tt : Nat) (p : List Byte) : Option Status :=
  match pkgKind p with
  | .stage =>
    if 65535 ≤ e.highestGen then some .genSpent
    else if pkgGen p ≤ e.highestGen ∨ e.highestGen + 16 < pkgGen p then some .genBad
    else if (e.presentStaged tt).isSome then some .stageOpen
    else if (e.presentRetiring tt).isSome then some .graceOpen
    else if e.anyPresent tt ∧ e.role ≠ some (pkgRole p) then some .roleDenied
    else none
  | .confirm | .cancel =>
    if (e.presentStaged tt).any (fun g => g.gen == pkgGen p) then none else some .notStaged
  | .revoke =>
    if e.anyPresent tt ∧ (pkgGen p = 0 ∨ e.current.any (fun c => c.gen == pkgGen p)) then none else some .genBad
  | .release =>
    if (e.presentRetiring tt).any (fun r => pkgGen p == 0 || r.gen == pkgGen p) then none else some .genBad
  | _ => none

/-! ## Custody -/

/-- The entry matches handle `h` and authority `k` (R119). -/
def CustodyEntry.covers (c : CustodyEntry) (h : HandleNo) (k : AuthNo) : Bool :=
  decide (c.first ≤ h.val) && decide (h.val ≤ c.last) && c.mask.getLsbD k.val

/-- The right a handle kind needs, as bits of a custody entry's rights; IMMEDIATE needs STAGE and CONFIRM (R119). -/
def rightsNeeded (p : List Byte) : BitVec 5 :=
  match pkgKind p with
  | .stage => if pkgImmediate p then 3 else 1
  | .confirm => 2
  | .cancel => 4
  | .revoke => 8
  | .release => 16
  | _ => 0

/-- The custody lookup: a refusal, or the required role, none for ANY (R119). -/
def custodyLookup (map : Vector CustodyEntry 8) (h : HandleNo) (k : AuthNo) (needed : BitVec 5) :
    Except Status (Option Role) :=
  let hits := map.toList.filter fun c => c.covers h k
  let roles := hits.filterMap (·.role)
  if hits.isEmpty then .error .noCustody
  else if roles.any (fun r => roles.any fun r' => r != r') then .error .custodyConflict
  else if needed &&& hits.foldl (fun acc c => acc ||| c.rights) 0 ≠ needed then .error .custodyDenied
  else .ok roles.head?

/-- Step 4 of the lane (R96, R97, R121): none if it passes. -/
def rightsStep (custody : Custody) (a : Authority) (p : List Byte) : Option Status :=
  let k := pkgKind p
  if k.onHandle then
    match custodyLookup custody.map (pkgHandle p) (pkgAuth p) (rightsNeeded p) with
    | .error st => some st
    | .ok none => none
    | .ok (some r) => if k = .stage ∧ pkgRole p ≠ r then some .roleDenied else none
  else if k.provisioning then
    if custody.final then some .provisioningClosed
    else if pkgAuth p ≠ 0 then some .rightDenied
    else if k = .authority ∧ pkgSubject p = 0 ∧ pkgDefined p = false then some .rightDenied
    else if k = .authority ∧ pkgDefined p = true ∧ pkgCommandHandle p = pkgTransportHandle p then some .rightDenied
    else none
  else if k = .timeset then (if a.timesetRight then none else some .rightDenied)
  else (if a.unlockRight then none else some .rightDenied)

end Sys2Proof.Machine
end

