-- ==== Sys2Proof/Machine/Rows.lean ====
section
/-!
DEFINITION. The record store's queries: rows and banks, the erased-row count, counted and live rows, the pump window,
append thresholds, and what a reclaim still has to write (chapter 8; R163, R164).
-/

namespace Sys2Proof.Machine

open Sys2Proof

/-! ## Rows -/

/-- The row at a location. -/
def rowAt (a : RowArray) (l : Location) : Row := a[l.bank][l.row]

/-- The array with one row replaced. -/
def setRow (a : RowArray) (l : Location) (r : Row) : RowArray := a.set l.bank (a[l.bank].set l.row r)

/-- The data of a row that reads as valid. -/
def Row.data : Row → Option RowData
  | .valid d => some d
  | _ => none

/-- The row is not blank. -/
def Row.written : Row → Bool
  | .blank => false
  | _ => true

/-- A row whose CRC matched, with its place. -/
abbrev PlacedRow := Location × RowData

/-- The valid rows of a bank, in row order. -/
def validRowsOf (a : RowArray) (b : BankNo) : List PlacedRow :=
  (a[b].toList.zip allRows).filterMap fun (r, n) => r.data.map fun d => (⟨b, n⟩, d)

/-- The valid rows of the array. -/
def validRows (a : RowArray) : List PlacedRow := (allBanks.map (validRowsOf a)).flatten

/-- The largest of a list of numbers, if there is one. -/
def maxOf : List Nat → Option Nat
  | [] => none
  | n :: ns => some (ns.foldl max n)

/-- The smallest of a list of numbers, if there is one. -/
def minOf : List Nat → Option Nat
  | [] => none
  | n :: ns => some (ns.foldl min n)

/-- The floor seq that a row names for a bank, if it is a RECLAIM row naming that bank. -/
def RowData.floorFor (d : RowData) (b : BankNo) : Option Nat :=
  match d.record with
  | .reclaim x f => if x = b then some f else none
  | _ => none

/-- The floor of a bank: the highest floor of any valid RECLAIM row naming it (R164). -/
def bankFloor (a : RowArray) (b : BankNo) : Option Nat :=
  maxOf ((validRows a).filterMap fun r => r.2.floorFor b)

/-- The counted rows of a bank: valid, and above the bank's floor (R164). -/
def countedRowsOf (a : RowArray) (b : BankNo) : List PlacedRow :=
  let floor := bankFloor a b
  (validRowsOf a b).filter fun r => floor.all fun f => decide (f < r.2.seq)

/-- The counted rows of the array (R164). -/
def countedRows (a : RowArray) : List PlacedRow := (allBanks.map (countedRowsOf a)).flatten

/-- A row placed in order of seq. -/
def insertBySeq (r : PlacedRow) : List PlacedRow → List PlacedRow
  | [] => [r]
  | x :: xs => if r.2.seq < x.2.seq then r :: x :: xs else x :: insertBySeq r xs

/-- Rows in ascending order of seq (R165). -/
def sortBySeq : List PlacedRow → List PlacedRow
  | [] => []
  | x :: xs => insertBySeq x (sortBySeq xs)

/-- The handle a record names. -/
def Record.handle? : Record → Option HandleNo
  | .key h _ _ | .confirm h _ _ _ | .cancel h _ | .revoke h _ _ _ | .release h _ | .counter h _ _ _ => some h
  | _ => none

/-- The highest_gen a row carries for a handle (R62). -/
def Record.highestFor (r : Record) (h : HandleNo) : Option Nat :=
  match r with
  | .key x _ k => if x = h then some k.highestGen else none
  | .revoke x _ n _ => if x = h then some n else none
  | _ => none

/-! ## Banks -/

/-- The bank after `b` in circular order (R125). -/
def nextBank (b : BankNo) : BankNo := b + 1

/-- The eight banks in circular order, starting after `b`. -/
def banksAfter (b : BankNo) : List BankNo := [b + 1, b + 2, b + 3, b + 4, b + 5, b + 6, b + 7, b]

/-- The number of banks in a state. -/
def Store.countBanks (t : Store) (x : BankState) : Nat := (t.banks.toList.filter fun y => y = x).length

/-- The erased-row count: the unwritten rows of the HEAD and 64 for each ERASED bank (R125). -/
def Store.erasedRows (t : Store) : Nat :=
  (if t.banks[t.headBank] = .head then 64 - t.appendPos else 0) + 64 * t.countBanks .erased

/-- The append position moved on past the row just programmed; a HEAD that fills becomes FULL, and the first ERASED bank
after it becomes HEAD at row 0 (R125, R130). -/
def Store.advanceHead (t : Store) : Store :=
  if t.appendPos + 1 < 64 then { t with appendPos := t.appendPos + 1 }
  else
    match (banksAfter t.headBank).find? fun b => t.banks[b] = .erased with
    | some b => { t with banks := (t.banks.set t.headBank .full).set b .head, headBank := b, appendPos := 0 }
    | none => { t with banks := t.banks.set t.headBank .full, appendPos := 64 }

/-- The location of the next append. -/
def Store.appendLocation (t : Store) : Location := ⟨t.headBank, Fin.ofNat 64 t.appendPos⟩

/-- The tail: the FULL bank whose rows carry the lowest seq (R125). -/
def Store.tailBank (t : Store) : Option BankNo :=
  let lows := allBanks.filterMap fun b =>
    if t.banks[b] = .full then (minOf ((validRowsOf t.array b).map (·.2.seq))).map fun n => (b, n) else none
  match minOf (lows.map (·.2)) with
  | none => none
  | some n => (lows.find? fun x => x.2 = n).map (·.1)

/-- The bank is being programmed or erased, so that reads of it wait (R128). -/
def Store.bankBusy (t : Store) (b : BankNo) : Bool :=
  t.program.any (fun p => p.location.bank == b) || t.erase == some b

/-- A COPY is in progress (section 8.5). -/
def Store.copying (t : Store) : Bool :=
  match t.reclaim with
  | some ⟨_, .copy _, _⟩ => true
  | _ => false

/-- A reclaim fold has a read in flight in the bank. -/
def Store.foldReads (t : Store) (b : BankNo) : Bool :=
  match t.reclaim with
  | some ⟨_, .copy ⟨_, _, _, _, _, .reading _ _ (some l)⟩, _⟩ => l.bank == b
  | _ => false

/-- The slot state has a read in flight in the bank. -/
def SlotState.readsBank : SlotState → BankNo → Bool
  | .reading _ _ (some l), b => l.bank == b
  | _, _ => false

/-- A read of the bank is in flight (R128). -/
def State.readInFlight (s : State) (b : BankNo) : Bool :=
  s.slots.host.toList.any (fun t => t.state.readsBank b) || s.slots.package.readsBank b || s.store.foldReads b

/-! ## The pump window -/

/-- W in milli-ticks (R129). -/
def Power.pumpWindow : Power → Nat
  | .mains => 16
  | .reserve => 64

/-- How many starts the pump window permits now (R129). -/
def State.startsPermitted (s : State) : Nat :=
  4 - (s.store.history.filter fun t => decide (s.time.milli < t + s.supply.power.pumpWindow)).length

/-- The start history with a start appended; the oldest leaves once four are held (R129). -/
def pushStart (history : List Nat) (now : Nat) : List Nat :=
  let h := history ++ [now]
  h.drop (h.length - 4)

/-! ## Append thresholds -/

/-- The starting condition of a queued append (R132). -/
def State.appendCondition (s : State) (q : QueuedAppend) : Bool :=
  match q with
  | .tamper _ => decide (13 ≤ s.store.erasedRows)
  | .counter h =>
    (s.entry h).counterFlight.isNone && !s.store.copying &&
      decide ((if s.supply.power = .reserve then 81 else 96) ≤ s.store.erasedRows)
  | _ => !s.store.copying && decide (96 ≤ s.store.erasedRows)

/-- The append is a TAMPER mark. -/
def QueuedAppend.isTamper : QueuedAppend → Bool
  | .tamper _ => true
  | _ => false

/-- The program circuit is free for a new record: no program in flight and no retry readied (R130, R132). -/
def Store.circuitFree (t : Store) : Bool := t.program.isNone && t.retry.isNone

/-- The store may start work: the part is READY and ACTIVE, and no warm reset is in progress (R141, R162, R169). -/
def State.storeRuns (s : State) : Bool :=
  s.resetCtl.part = .ready && !s.resetCtl.warmReset && s.supply.activity = .active

/-- The first queued append whose condition is met (R132). -/
def State.nextAppend (s : State) : Option QueuedAppend := s.store.queue.find? s.appendCondition

/-- A queued append may start now, the pump window apart (R132). -/
def State.appendReady (s : State) : Bool :=
  s.storeRuns && !s.store.fault && s.store.circuitFree && s.nextAppend.isSome

/-- A TAMPER mark whose condition is met waits in the queue; it starts before the COPY's next row (R135). -/
def State.tamperWaiting (s : State) : Bool :=
  s.store.queue.any fun q => q.isTamper && s.appendCondition q

/-- The row that the COPY has readied. -/
def Store.copyRow (t : Store) : Option CopyRow :=
  match t.reclaim with
  | some ⟨_, .copy ⟨_, _, _, _, _, .ready r⟩, false⟩ => some r
  | _ => none

/-- A COPY row may start now, the pump window and the lowest bound apart (R134, R135). -/
def State.copyRowReady (s : State) : Bool :=
  s.storeRuns && !s.store.fault && s.store.circuitFree && !s.tamperWaiting && s.store.copyRow.isSome

/-- A retry may start now, the pump window and the lowest bound apart; it runs on through a warm reset (R130, R140; where
it was waiting as the reset arrived, log entry 45). -/
def State.retryReady (s : State) : Bool :=
  s.resetCtl.part = .ready && !s.store.fault && s.store.program.isNone && s.store.retry.isSome

/-- Some program is ready and waits for the pump window alone (R129). -/
def State.programReady (s : State) : Bool := s.appendReady || s.copyRowReady || s.retryReady

/-- The bank whose erase is ready: the ERASING bank of the reclaim, or in MAINS the lowest NEEDS_ERASE bank (R137,
R139). -/
def State.eraseBank (s : State) : Option BankNo :=
  match allBanks.find? fun b => s.store.banks[b] = .erasing with
  | some b => some b
  | none => if s.supply.power = .mains then allBanks.find? fun b => s.store.banks[b] = .needsErase else none

/-- The erase of a NEEDS_ERASE bank is ready (R139, R159). -/
def State.eraseReady (s : State) : Bool := !s.store.fault && s.eraseBank.isSome

/-! ## Live rows -/

/-- Some counted row other than at `l`, satisfying `p`, has a seq above `n`. -/
def laterRow (rows : List PlacedRow) (n : Nat) (p : Record → Bool) : Bool :=
  rows.any fun r => decide (n < r.2.seq) && p r.2.record

/-- The record is a KEY record of handle `h`, generation `g`. -/
def Record.isKeyOf (r : Record) (h : HandleNo) (g : Nat) : Bool :=
  match r with
  | .key x y _ => x = h && y == g
  | _ => false

/-- The record is a COUNTER mark of handle `h`, generation `g`. -/
def Record.isCounterOf (r : Record) (h : HandleNo) (g : Nat) : Bool :=
  match r with
  | .counter x y _ _ => x = h && y == g
  | _ => false

/-- The record is a REVOKE mark of handle `h`. -/
def Record.isRevokeOf (r : Record) (h : HandleNo) : Bool :=
  match r with
  | .revoke x _ _ _ => x = h
  | _ => false

/-- The record is a CUSTODY record. -/
def Record.isCustody : Record → Bool
  | .custody _ => true
  | _ => false

/-- The record is a SETUP record. -/
def Record.isSetup : Record → Bool
  | .setup _ _ _ => true
  | _ => false

/-- The record is a TAMPER mark of the input. -/
def Record.isTamperOf (r : Record) (i : TamperInput) : Bool :=
  match r with
  | .tamper x _ => x = i
  | _ => false

/-- The record is an UNLOCK naming the input. -/
def Record.unlocks (r : Record) (i : TamperInput) : Bool :=
  match r with
  | .unlock c f => (match i with
    | .cover => c
    | .field => f)
  | _ => false

/-- The record is a RECLAIM mark naming the bank. -/
def Record.isReclaimOf (r : Record) (b : BankNo) : Bool :=
  match r with
  | .reclaim x _ => x = b
  | _ => false

/-- A row is live (R127), judged against the directory, the counted rows and the bank states. -/
def State.rowLive (s : State) (rows : List PlacedRow) (r : PlacedRow) : Bool :=
  let d := r.2
  match d.record with
  | .key h g _ => ((s.entry h).standing s.time.tt g).isSome && (s.entry h).locationOf g == some r.1
  | .confirm h g _ _ =>
    (match (s.entry h).standing s.time.tt g with
      | some .current | some .retiring => true
      | _ => false) && !laterRow rows d.seq (·.isKeyOf h g)
  | .counter h g _ _ =>
    (s.entry h).current.any (fun c => c.gen == g) && !laterRow rows d.seq (·.isCounterOf h g) &&
      !laterRow rows d.seq (·.isKeyOf h g)
  | .revoke h _ _ _ => (s.entry h).lastRevoked && !laterRow rows d.seq (·.isRevokeOf h)
  | .custody _ => !laterRow rows d.seq Record.isCustody
  | .setup _ _ _ => !laterRow rows d.seq Record.isSetup
  | .tamper i _ => !laterRow rows d.seq (·.isTamperOf i) && !laterRow rows d.seq (·.unlocks i)
  | .reclaim b _ =>
    (s.store.banks[b] = .needsErase || s.store.banks[b] = .erasing) && !laterRow rows d.seq (·.isReclaimOf b)
  | .cancel _ _ | .release _ _ | .unlock _ _ | .time _ | .authority _ _ => false

/-- The row is the latest counted row carrying its handle's highest_gen (R134). -/
def State.carriesHighest (s : State) (rows : List PlacedRow) (h : HandleNo) (d : RowData) : Bool :=
  d.record.highestFor h == some (s.entry h).highestGen &&
    !laterRow rows d.seq fun x => x.highestFor h == some (s.entry h).highestGen

/-! ## The reclaim's walk -/

/-- A number placed in ascending order. -/
def insertAscending (n : Nat) : List Nat → List Nat
  | [] => [n]
  | x :: xs => if n ≤ x then n :: x :: xs else x :: insertAscending n xs

/-- The generations present in a handle, in ascending order (R134). -/
def HandleEntry.presentGens (e : HandleEntry) (tt : Nat) : List Nat :=
  let r := ((e.presentRetiring tt).map (·.gen)).toList
  let c := (e.current.map (·.gen)).toList
  let g := ((e.presentStaged tt).map (·.gen)).toList
  (r ++ c ++ g).foldr insertAscending []

/-- What a tail row calls for at its turn (R134). -/
inductive RowTurn where
  | nothing
  | fold (h : HandleNo)
  | copy (data : RowData)
  deriving DecidableEq, Repr

/-- The judgement of a tail row at its turn (R134, R135). -/
def State.rowTurn (s : State) (rows : List PlacedRow) (folded : List HandleNo) (r : PlacedRow) : RowTurn :=
  match r.2.record.handle? with
  | some h =>
    if !folded.contains h && (s.rowLive rows r || s.carriesHighest rows h r.2) then .fold h else .nothing
  | none =>
    match r.2.record with
    | .custody _ | .setup _ _ _ | .tamper _ _ => if s.rowLive rows r then .copy r.2 else .nothing
    | _ => .nothing

/-- The counter and tag a row carries for an authority, in its header or in the body of an AUTHORITY record (R113). -/
def RowData.countersFor (d : RowData) (k : AuthNo) : List (Nat × Option Tag) :=
  (match d.header.authority, d.header.package with
    | some a, some (c, t) => if a = k then [(c, some t)] else []
    | _, _ => []) ++
  (match d.record with
    | .authority a x => if a = k then [(x.accepted, x.lastTag)] else []
    | _ => [])

/-- The record is an AUTHORITY record describing the authority. -/
def Record.isAuthorityOf (r : Record) (k : AuthNo) : Bool :=
  match r with
  | .authority x _ => x = k
  | _ => false

/-- The tail holds something of Ak that no counted row outside it carries (R136). -/
def needsRewrite (rows : List PlacedRow) (tail : BankNo) (k : AuthNo) : Bool :=
  let inside := rows.filter fun r => r.1.bank = tail
  let outside := rows.filter fun r => r.1.bank ≠ tail
  let best := fun (l : List PlacedRow) => maxOf (l.flatMap fun r => (r.2.countersFor k).map (·.1))
  let latest := fun (l : List PlacedRow) => maxOf ((l.filter fun r => r.2.record.isAuthorityOf k).map (·.2.seq))
  let onlyInside := fun (a b : Option Nat) => match a, b with
    | some n, some m => decide (m < n)
    | some _, none => true
    | none, _ => false
  onlyInside (latest inside) (latest outside) || onlyInside (best inside) (best outside)

/-- The highest seq of any row of the bank (R137), read from its valid rows (log entry 42). -/
def highestSeqOf (a : RowArray) (b : BankNo) : Nat := (maxOf ((validRowsOf a b).map (·.2.seq))).getD 0

end Sys2Proof.Machine
end

