-- ==== Sys2Proof/Machine/Ops.lean ====
section
/-!
DEFINITION. Operations shared by the commands: the completion of a card and the release of its job record (R10, R34),
waking from standby (R160), wipes (R48), the cipher core's arbiter (R32, R33), and the append queue with its refusals
(R131, R132).
-/

namespace Sys2Proof.Machine

open Sys2Proof

/-! ## Completion -/

/-- The counters of the status page after a completion (R23, R34). -/
def PageFigures.count (f : PageFigures) (g : Group) (status : Status) : PageFigures :=
  let f := match g, status.good with
    | .m, true => { f with jobsOkM := bump32 f.jobsOkM }
    | .m, false => { f with jobsRefusedM := bump32 f.jobsRefusedM }
    | .c, true => { f with jobsOkC := bump32 f.jobsOkC }
    | .c, false => { f with jobsRefusedC := bump32 f.jobsRefusedC }
  match status with
  | .tagBad => { f with tagFailures := bump32 f.tagFailures }
  | .replay | .tooOld => { f with replays := bump32 f.replays }
  | _ => f

/-- The exchange memory after a completion of card `n`: status and notes, result fields (zero unless the status is OK or
ALREADY_APPLIED), and for OK the output bytes over the payload range (R10, R17). -/
def completionMemory (m : List Host.Cell) (n : CardNo) (fields : List (Nat × Nat)) (status : Status) (notes : BitVec 16)
    (values : List Nat) (outputAt : Nat) (output : List Byte) : List Host.Cell :=
  let m := Memory.writeBytes m (cardBase n + 8) (leBytes 2 status.code ++ leBytes 2 notes.toNat)
  let m := (layFields fields (if status.good then values else [])).foldl
    (fun m f => Memory.writeBytes m (cardBase n + f.1) f.2) m
  if status = .ok ∧ rangeInBuffer outputAt output.length = true then Memory.writeBytes m outputAt output else m

/-- A completion of card `n`, in one update: memory, card state, done map, ALERT and counters (R10, R13, R34, R35). -/
def State.completeCard (s : State) (n : CardNo) (fields : List (Nat × Nat)) (notify : Bool) (status : Status)
    (notes event : BitVec 16) (values : List Nat) (outputAt : Nat) (output : List Byte) : State :=
  s.onPort fun p =>
    { p with
      memory := completionMemory p.memory n fields status notes values outputAt output
      cards := p.cards.set n .done
      doneMap := if notify then p.doneMap ||| (1 <<< n.val) else p.doneMap
      alert := p.alert ||| notes ||| event
      figures := p.figures.count (cardGroup n) status }

/-- The request was made by the job. -/
def Request.byJob (r : Request) (j : JobId) : Bool :=
  match r with
  | .slotUnwrap _ => false
  | .lane x | .use x => x == j

/-- The operation was granted to the job. -/
def CoreOp.byJob (o : CoreOp) (j : JobId) : Bool :=
  match o with
  | .slotUnwrap _ _ => false
  | .packageTag x _ | .stageUnwrap x _ | .sign x _ | .check x _ | .decipher x _ => x == j

/-- The cipher core once a job has ended: its request leaves the arbiter, and the result of its operation in flight will
be discarded (R32, R48). -/
def Cipher.dropJob (c : Cipher) (j : JobId) : Cipher :=
  { c with waiting := c.waiting.filter fun r => !r.byJob j
           running := c.running.map fun r => if r.op.byJob j then { r with discarded := true } else r }

/-- The cipher core once a slot's opening has ended early: its request leaves the arbiter, and the result of its unwrap
in flight will be discarded (R50). -/
def Cipher.dropSlot (c : Cipher) (i : SlotId) : Cipher :=
  { c with waiting := c.waiting.filter fun r => r != .slotUnwrap i
           running := c.running.map fun r => match r.op with
             | .slotUnwrap x _ => if x = i then { r with discarded := true } else r
             | _ => r }

/-- The record of job `j`, holding `x`, freed: it leaves the lane, the pending lists, the arbiter and its handle's write
list (R34, R40, R64, R90). -/
def State.freeRecord (s : State) (j : JobId) (x : Job) : State :=
  let s := s.onEngine fun e =>
    { e with jobs := e.jobs.set j none
             lane := if e.lane = some j then none else e.lane
             laneWaiting := e.laneWaiting.filter (· != j) }
  let s := s.onSlots fun t => { t with host := mapVector (fun u => { u with list := u.list.filter (· != j) }) t.host }
  let s := s.onCipher fun c => c.dropJob j
  if x.kind = .check ∨ x.kind = .package then
    s.onEntry x.writeHandle fun e => { e with writeList := e.writeList.filter fun w => w.owner != some j }
  else s

/-- Job `j` completes with a status and, where the status carries results, their values (R10, R34). -/
def State.finishJob (s : State) (j : JobId) (status : Status) (values : List Nat) : State :=
  match s.job j with
  | none => s
  | some x =>
    (s.completeCard x.card (resultFields x.kind) x.notify status x.notes (completionEvent x.kind status x.notes) values
      x.rangeOffset x.output).freeRecord j x

/-! ## Waking, wipes, uses -/

/-- The part leaves standby, if it was in it (R160). -/
def State.wake (s : State) : State :=
  if s.supply.activity = .standby then
    s.onSupply fun p => { p with activity := .active, standbyCount := 0, levelChanged := false }
  else s

/-- A wipe of an OPEN slot begins: its key material is cleared and it is CLOSING (R48). -/
def State.wipe (s : State) (i : SlotId) : State :=
  match s.slotState i with
  | .opened _ _ _ _ => s.setSlotState i (.closing s.time.milli)
  | _ => s

/-- A SIGN or CHECK completes: touched is set for OK (R69); if it had passed step 2 of R46, the idle timer returns to 0,
and AUTO_CLOSE wipes the slot (R46, R47). -/
def State.finishUse (s : State) (j : JobId) (status : Status) (values : List Nat) : State :=
  match s.job j with
  | none => s
  | some x =>
    let s := s.finishJob j status values
    let s := if status = .ok then s.onEntry x.handle fun e => { e with touched := true } else s
    if x.matched then
      let s := s.resetIdle x.slotNo
      if x.autoClose then s.wipe (.host x.slotNo) else s
    else s

/-- The steps of a use at which it still needs the key of its slot (R48). -/
def JobStep.needsKey : JobStep → Bool
  | .slotQueue | .counterWait | .signWait | .signRun | .checkWait | .checkRun | .decipherWait | .decipherRun => true
  | _ => false

/-- The front use of a slot that still needs its key completes with the status of a wipe's cause (R48, R50, R51). -/
def State.failFrontUse (s : State) (i : Fin 4) (status : Status) : State :=
  match (s.slot i).list.head? with
  | none => s
  | some j =>
    match s.job j with
    | none => s
    | some x =>
      if (x.kind = .sign ∨ x.kind = .check) ∧ x.step.needsKey = true then s.finishUse j status [] else s

/-! ## The cipher core -/

/-- The key material a slot holds. -/
def State.keyIn (s : State) (i : SlotId) : List Byte :=
  match s.slotState i with
  | .opened _ _ _ k => k
  | _ => []

/-- The core begins an operation. -/
def State.runCore (s : State) (op : CoreOp) : State := s.onCipher fun c => { c with running := some ⟨op, false⟩ }

/-- A class-3 operation begins for a use: its key is read from its slot, and its group is the last group (R33, R72). -/
def State.grantUse (s : State) (j : JobId) (x : Job) : State :=
  let key := s.keyIn (.host x.slotNo)
  let s := s.onCipher fun c => { c with lastGroup := x.group }
  match x.step with
  | .signWait => (s.runCore (.sign j key)).setStep j .signRun
  | .checkWait => (s.runCore (.check j key)).setStep j .checkRun
  | .decipherWait => (s.runCore (.decipher j key)).setStep j .decipherRun
  | _ => s

/-- The arbiter grants a request: its operation begins (R32). -/
def State.grant (s : State) (r : Request) : State :=
  match r with
  | .slotUnwrap i =>
    match s.slotState i with
    | .unwrapping _ _ _ m => s.runCore (.slotUnwrap i m)
    | _ => s
  | .lane j =>
    match s.job j with
    | none => s
    | some x =>
      match x.step with
      | .tagWait second => (s.runCore (.packageTag j (s.keyIn .package))).setStep j (.tagRun second)
      | .unwrapWait => (s.runCore (.stageUnwrap j (s.keyIn .package))).setStep j .unwrapRun
      | _ => s
  | .use j =>
    match s.job j with
    | none => s
    | some x => s.grantUse j x

/-- The request is a class-3 use of the group. -/
def State.isUseOf (s : State) (g : Group) (r : Request) : Bool :=
  match r with
  | .use j => (s.job j).any fun x => x.group = g
  | _ => false

/-- The waiting request that the arbiter grants next (R33). -/
def State.pickRequest (s : State) : Option Request :=
  let w := s.cipher.waiting
  let class1 := w.find? fun r => match r with
    | .slotUnwrap _ => true
    | _ => false
  let class2 := w.find? fun r => match r with
    | .lane _ => true
    | _ => false
  let useM := w.find? (s.isUseOf .m)
  let useC := w.find? (s.isUseOf .c)
  let class3 := if s.cipher.lastGroup = .m then useC.or useM else useM.or useC
  (class1.or class2).or class3

/-- A request arrives: it is granted at once by an idle core, and otherwise waits (R32). -/
def State.requestCore (s : State) (r : Request) : State :=
  if s.cipher.running.isNone then s.grant r else s.onCipher fun c => { c with waiting := c.waiting ++ [r] }

/-- The core falls idle, and the arbiter grants one of the requests waiting then (R32, R33; log entry 10). -/
def State.coreIdle (s : State) : State :=
  let s := s.onCipher fun c => { c with running := none }
  match s.pickRequest with
  | none => s
  | some r => (s.onCipher fun c => { c with waiting := c.waiting.erase r }).grant r

/-! ## The append queue -/

/-- The jobs waiting COUNTER on a handle complete STORE_FAULT (R67, R75). -/
def State.failCounterWaiters (s : State) (h : HandleNo) : State :=
  allJobs.foldl (fun s j => match s.job j with
    | some x => if x.step = .counterWait ∧ x.handle = h then s.finishUse j .storeFault [] else s
    | none => s) s

/-- The jobs waiting COUNTER on a handle are released, to be judged again (R67, R75). -/
def State.releaseCounterWaiters (s : State) (h : HandleNo) : State :=
  allJobs.foldl (fun s j => match s.job j with
    | some x => if x.step = .counterWait ∧ x.handle = h then s.setStep j .slotQueue else s
    | none => s) s

/-- The handle that a payload concerns. -/
def Payload.handle? : Payload → Option HandleNo
  | .plain _ r => r.handle?
  | .stage _ h _ _ _ _ _ _ _ _ _ _ _ => some h
  | .copy d => d.record.handle?

/-- The write-list entry whose job a warm reset aborted leaves its list, once its program has ended (R71). -/
def State.dropOrphan (s : State) (h : Option HandleNo) : State :=
  match h with
  | none => s
  | some h => s.onEntry h fun e => { e with writeList := e.writeList.filter fun w => w.owner != none }

/-- A record's requester learns that the store refuses it (R131). -/
def State.refuse (s : State) (r : Requester) (h : Option HandleNo) : State :=
  match r with
  | .package (some j) => s.finishJob j .storeFault []
  | .confirmByUse (some j) => s.finishUse j .storeFault []
  | .lock (some j) => (s.addNotes j noteAuthNowLocked).finishJob j .tagBad []
  | .package none | .confirmByUse none => s.dropOrphan h
  | .lock none => s
  | .counter h => (s.onEntry h fun e => { e with counterFlight := none }).failCounterWaiters h
  | .tamper i => s.onTamper fun t => t.onInput i fun x => { x with mark := .none }
  | .timeMark => s.onTime fun t => { t with timeMark := .none }
  | .foldKey _ _ | .foldRevoke _ | .copyAsIs | .rewrite _ | .reclaimMark _ => s

/-- A queued append is refused (R131). -/
def State.refuseQueued (s : State) (q : QueuedAppend) : State :=
  match q with
  | .tamper i => s.refuse (.tamper i) none
  | .timeMark => s.refuse .timeMark none
  | .counter h => (s.onEntry h fun e => { e with counterPending := none }).failCounterWaiters h
  | .owned r p => s.refuse r p.handle?

/-- The queue after an append joins it: a TAMPER mark at the front, behind any there already; any other at the tail
(R132). -/
def joinQueue (queue : List QueuedAppend) (q : QueuedAppend) : List QueuedAppend :=
  if q.isTamper then queue.takeWhile (·.isTamper) ++ [q] ++ queue.dropWhile (·.isTamper) else queue ++ [q]

/-- An append is asked for: it wakes the part (R160); in FAULT it is refused at once, and otherwise it joins the queue
(R131, R132). -/
def State.askAppend (s : State) (q : QueuedAppend) : State :=
  let s := s.wake
  if s.store.fault then s.refuseQueued q else s.onStore fun t => { t with queue := joinQueue t.queue q }

/-- A reclaim stopped by FAULT: a COPY ends where it stands, an erase in flight runs on, and an ERASING tail whose erase
has not started becomes NEEDS_ERASE (R131). -/
def Store.stopReclaim (t : Store) : Store :=
  match t.reclaim with
  | some ⟨_, .copy _, _⟩ => { t with reclaim := none }
  | some ⟨b, .erase, _⟩ =>
    if t.erase = some b then t else { t with banks := t.banks.set b .needsErase, reclaim := none }
  | none => t

/-- The status page's store figures rewritten (R23). -/
def State.refreshFigures (s : State) : State :=
  s.onPort fun p =>
    { p with figures := { p.figures with nextSeq := s.store.nextSeq, erasedRows := s.store.erasedRows } }

/-- The program in flight ends in a row: the circuit is free, the row stands in the array, the append position moves on
and the status page is rewritten (R130). -/
def State.endProgram (s : State) (loc : Location) (row : Row) : State :=
  (s.onStore fun t => { t with array := setRow t.array loc row, program := none }.advanceHead).refreshFigures

/-- The program in flight, if there is one, given up: its row is abandoned, and nothing of it is applied (R130, R170). -/
def State.giveUpProgram (s : State) : State :=
  match s.store.program with
  | none => s
  | some p => s.endProgram p.location .torn

/-- The record in program and the one that waits for its retry: their requesters, with the handles they concern. -/
def Store.recordsInHand (t : Store) : List (Requester × Option HandleNo) :=
  (t.program.map fun p => (p.requester, p.payload.handle?)).toList ++
    (t.retry.map fun r => (r.requester, r.payload.handle?)).toList

/-- The store enters FAULT: ALERT and STATE show it, the record in hand is given up, it and every queued append are
refused, and a reclaim is stopped (R131, and R65, R67, R87, R100, R147, R153 for a record in program; log entry 21). -/
def State.enterFault (s : State) : State :=
  let hand := s.store.recordsInHand
  let queue := s.store.queue
  let s := (if s.store.fault then s else s.raise alertStoreFault).giveUpProgram
  let s := s.onStore fun t => { t.stopReclaim with fault := true, queue := [], retry := none }
  let s := hand.foldl (fun s r => s.refuse r.1 r.2) s
  queue.foldl State.refuseQueued s

/-! ## Counter writes -/

/-- The larger of two wanted values (R66). -/
def mergeWant : Option Nat → Option Nat → Option Nat
  | none, b => b
  | a, none => a
  | some a, some b => some (max a b)

/-- An ask for a raise: it creates the pending write and asks for its append, or merges into the write already pending
(R66). -/
def State.askCounter (s : State) (h : HandleNo) (ceiling floor : Option Nat) : State :=
  match (s.entry h).counterPending with
  | none => (s.onEntry h fun e => { e with counterPending := some ⟨ceiling, floor⟩ }).askAppend (.counter h)
  | some w =>
    s.onEntry h fun e => { e with counterPending := some ⟨mergeWant w.ceiling ceiling, mergeWant w.floor floor⟩ }

/-- The reservation check asks for a raise of the current generation's ceiling (R77). -/
def HandleEntry.wantsRaise (e : HandleEntry) : Option Nat :=
  match e.current with
  | none => none
  | some c =>
    if c.txCeiling ≤ c.txNext + 64 ∧ c.txCeiling < c.signLimit ∧ e.counterFlight.isNone = true ∧
        e.counterPending.all (fun w => w.ceiling.isNone) = true then
      some (min (c.txCeiling + 256) c.signLimit)
    else none

/-- The reservation check (R77). -/
def State.reservationCheck (s : State) (h : HandleNo) : State :=
  match (s.entry h).wantsRaise with
  | none => s
  | some n => s.askCounter h (some n) none

/-- The floor check's ask: the new rx_high where rx_floor is none or lies 256 or more behind (R84). -/
def CurrentGen.wantsFloor (c : CurrentGen) : Option Nat :=
  match c.rx.high, c.rxFloor with
  | none, _ => none
  | some high, none => some high
  | some high, some floor => if floor + 256 ≤ high then some high else none

/-- The floor check (R84). -/
def State.floorCheck (s : State) (h : HandleNo) : State :=
  match (s.entry h).current.bind CurrentGen.wantsFloor with
  | none => s
  | some n => s.askCounter h none (some n)

/-- A change of the current generation makes the counter writes stale: the pending one is discarded and leaves the queue,
and the jobs waiting COUNTER are released (R67). -/
def State.staleCounters (s : State) (h : HandleNo) : State :=
  let s := s.onEntry h fun e => { e with counterPending := none }
  let s := s.onStore fun t => { t with queue := t.queue.filter fun q => q != .counter h }
  s.releaseCounterWaiters h

end Sys2Proof.Machine
end

