-- ==== Sys2Proof/Machine/SlotOps.lean ====
section
/-!
DEFINITION. The working slots: openings (R43, R44), the service of the front of a pending list (R41, R42, R45, R46),
the judgement of SIGN and CHECK with the issue of counters (R73 to R75, R79), and the wipes imposed by a tamper latch
and by a durable REVOKE (R50, R51).
-/

namespace Sys2Proof.Machine

open Sys2Proof

/-! ## Openings -/

/-- The row read of an OPENING slot starts if its bank is free, at the location the directory gives now (R43, R128). -/
def State.startRead (s : State) (i : SlotId) : State :=
  match s.slotState i with
  | .reading h g none =>
    match (s.entry h).locationOf g with
    | none => s
    | some l => if s.store.bankBusy l.bank then s else s.setSlotState i (.reading h g (some l))
  | _ => s

/-- An EMPTY slot enters OPENING and asks for the row read of its KEY row (R42, R43). -/
def State.startOpening (s : State) (i : SlotId) (h : HandleNo) (gen : Nat) : State :=
  (s.setSlotState i (.reading h gen none)).startRead i

/-- The job served by a slot's opening or use: the front of a host slot's list, or the lane job (R40, R52). -/
def State.servedBy (s : State) (i : SlotId) : Option JobId :=
  match i with
  | .host i => (s.slot i).list.head?
  | .package => s.engine.lane

/-- An opening ends without a key: the slot is EMPTY and its job completes with the status given (R44). -/
def State.failOpening (s : State) (i : SlotId) (status : Status) : State :=
  let s := s.setSlotState i .empty
  match s.servedBy i with
  | none => s
  | some j => s.finishJob j status []

/-- The KEY row read for an opening, if it is the one the opening needs and its CRC matched (R44). -/
def keyRowFor (row : Row) (crcOk : Bool) (h : HandleNo) (gen : Nat) : Option KeyRecord :=
  match row with
  | .valid d =>
    match d.record with
    | .key x g k => if crcOk = true ∧ x = h ∧ g = gen then some k else none
    | _ => none
  | _ => none

/-! ## OPEN at the front -/

/-- The generation an OPEN resolves to (R42 step 1): none is NO_KEY. -/
def resolveOpen (e : HandleEntry) (tt gen : Nat) : Option (Nat × Standing) :=
  if gen = 0 then e.current.map fun c => (c.gen, .current)
  else (e.standing tt gen).map fun st => (gen, st)

/-- The policy grants the group a SIGN right or a CHECK right (R42 step 3). -/
def Policy.usableBy (p : Policy) (g : Group) : Bool := p.signs g || p.checks g

/-- Steps 1 to 5 of R42: a refusal, or the resolved generation. -/
def judgeOpen (e : HandleEntry) (tt gen : Nat) (g : Group) (latched : Bool) : Except Status Nat :=
  match resolveOpen e tt gen with
  | none => .error .noKey
  | some (n, st) =>
    if e.role.any Role.internal then .error .roleDenied
    else if !(e.policyAt st).usableBy g then .error .useDenied
    else if (e.policyAt st).tamperLock && latched then .error .tamperLock
    else match st, e.current.map (fun c => CurrentGen.condition c tt) with
      | .current, some .expired => .error .keyExpired
      | .current, some .spent => .error .keySpent
      | _, _ => .ok n

/-- An OPEN at the front of an EMPTY or OPEN slot (R42). -/
def State.serveOpen (s : State) (i : Fin 4) (j : JobId) (x : Job) : State :=
  let e := s.entry x.handle
  match judgeOpen e s.time.tt x.genField x.group s.anyLatch with
  | .error st => s.finishJob j st []
  | .ok n =>
    match (s.slot i).state with
    | .opened h g _ _ =>
      if h = x.handle ∧ g = n then
        ((s.addNotes j noteAlreadyOpen).finishJob j .ok [n, roleCode e.role]).resetIdle i
      else s.finishJob j .slotBusy []
    | _ => (s.setStep j .opening).startOpening (.host i) x.handle n

/-! ## SIGN and CHECK at the front -/

/-- The notes of a SIGN's issue (R74): `next` is tx_next after the issue. -/
def issueNotes (c : CurrentGen) (next tt : Nat) : BitVec 16 :=
  (if c.signLimit < next + 65536 then noteCounterLow else 0) |||
    (if c.expiry ≠ 0xFFFFFFFF ∧ c.expiry < tt + 604800 then noteExpiryNear else 0)

/-- The issue of a counter to a SIGN, the reservation check, and the request to the core (R74). -/
def State.issueCounter (s : State) (j : JobId) (h : HandleNo) (c : CurrentGen) : State :=
  let s := s.onEntry h fun e => { e with current := some { c with txNext := c.txNext + 1 } }
  let s := s.onJob j fun x =>
    { x with counter := c.txNext, notes := x.notes ||| issueNotes c (c.txNext + 1) s.time.tt, step := .signWait }
  (s.reservationCheck h).requestCore (.use j)

/-- Steps 1 to 3 of R73: a refusal, or the current generation that signs. -/
def judgeSign (e : HandleEntry) (tt gen : Nat) (g : Group) (encipher : Bool) : Except Status CurrentGen :=
  match e.current with
  | none => .error .notCurrent
  | some c =>
    if c.gen ≠ gen then .error .notCurrent
    else if !(c.policy.signs g) || (encipher && !c.policy.payload) then .error .useDenied
    else match c.condition tt with
      | .expired => .error .keyExpired
      | .spent => .error .keySpent
      | .usable => .ok c

/-- A SIGN whose generation is live (R73 to R75). -/
def State.serveSign (s : State) (j : JobId) (x : Job) (gen : Nat) : State :=
  match judgeSign (s.entry x.handle) s.time.tt gen x.group x.option with
  | .error st => s.finishUse j st []
  | .ok c =>
    if c.txNext < c.txCeiling then s.issueCounter j x.handle c
    else (s.setStep j .counterWait).reservationCheck x.handle

/-- A CHECK whose generation is live at the standing given (R79). -/
def State.serveCheck (s : State) (j : JobId) (x : Job) (st : Standing) : State :=
  let p := (s.entry x.handle).policyAt st
  if !(p.checks x.group) || (x.option && !p.payload) then s.finishUse j .useDenied []
  else (s.setStep j .checkWait).requestCore (.use j)

/-- A SIGN or CHECK at the front of an OPEN slot: match, liveness, use (R46). -/
def State.serveUse (s : State) (i : Fin 4) (j : JobId) (x : Job) (h : HandleNo) (gen : Nat) : State :=
  if x.handle ≠ h ∨ (x.genField ≠ 0 ∧ x.genField ≠ gen) then s.finishUse j .slotMismatch []
  else
    let s := s.onJob j fun x => { x with matched := true, gen := gen }
    match (s.entry h).standing s.time.tt gen with
    | none => (s.wipe (.host i)).finishUse j .noKey []
    | some st => if x.kind = .sign then s.serveSign j x gen else s.serveCheck j x st

/-- The service of the front of a slot's list, if its slot's state lets it be served; none if it waits (R41). -/
def State.serveFront (s : State) (i : Fin 4) : Option State :=
  match (s.slot i).list.head? with
  | none => none
  | some j =>
    match s.job j with
    | none => none
    | some x =>
      if x.step ≠ .slotQueue then none
      else
        match x.kind, (s.slot i).state with
        | _, .reading _ _ _ | _, .unwrapping _ _ _ _ | _, .closing _ => none
        | .openKey, _ => some (s.serveOpen i j x)
        | .closeSlot, .empty => some (s.finishJob j .ok [])
        | .closeSlot, .opened _ _ _ _ => some (s.wipe (.host i))
        | .sign, .empty | .check, .empty => some (s.finishUse j .slotEmpty [])
        | .sign, .opened h g _ _ | .check, .opened h g _ _ => some (s.serveUse i j x h g)
        | _, _ => none

/-! ## Wipes from outside -/

/-- The jobs of a pending list that a tamper latch completes: the SIGN and CHECK jobs before the first OPEN or CLOSE, but
for a front use that no longer needs the key (R51). -/
def State.latchedJobs (s : State) (list : List JobId) : List JobId :=
  match list.takeWhile fun j => (s.job j).any fun x => x.kind = .sign || x.kind = .check with
  | [] => []
  | j :: behind => if (s.job j).any fun x => x.step.needsKey then j :: behind else behind

/-- The wipe of one slot at a tamper latch (R51). -/
def State.latchWipe (s : State) (i : Fin 4) : State :=
  match (s.slot i).state with
  | .opened _ _ p _ =>
    if p.tamperLock then
      let hit := s.latchedJobs (s.slot i).list
      hit.foldl (fun s j => s.finishUse j .tamperLock []) (s.wipe (.host i))
    else s
  | _ => s

/-- The wipes of a tamper latch (R51); P holds no TAMPER_LOCK key (R52). -/
def State.latchWipes (s : State) : State :=
  let s := allSlots.foldl State.latchWipe s
  match s.slots.package with
  | .opened _ _ p _ => if p.tamperLock then s.wipe .package else s
  | _ => s

/-- The wipe of one host slot at a durable REVOKE of handle `h` (R50). -/
def State.revokeWipe (h : HandleNo) (s : State) (i : Fin 4) : State :=
  match (s.slot i).state with
  | .opened x _ _ _ => if x = h then (s.wipe (.host i)).failFrontUse i .noKey else s
  | .reading x _ _ | .unwrapping x _ _ _ =>
    if x = h then (s.onCipher fun c => c.dropSlot (.host i)).failOpening (.host i) .noKey else s
  | _ => s

/-- The wipes of a durable REVOKE of handle `h` (R50, R105). -/
def State.revokeWipes (s : State) (h : HandleNo) : State :=
  let s := allSlots.foldl (State.revokeWipe h) s
  match s.slots.package with
  | .opened x _ _ _ => if x = h then s.wipe .package else s
  | _ => s

end Sys2Proof.Machine
end

