-- ==== Sys2Proof/Machine/LaneOps.lean ====
section
/-!
DEFINITION. The package lane: admission, authority, counter and tag steps, the release of P, rights, the front of a
write list, and the records a package asks for (chapters 6 and 7; R85, R86, R90 to R100, R114 to R116).
-/

namespace Sys2Proof.Machine

open Sys2Proof

/-! ## Records -/

/-- The header of a package's record: its authority, counter and tag (R100, R126). -/
def pkgHeader (p : List Byte) : RowHeader := ⟨some (pkgAuth p), some (pkgCounter p, pkgTag p)⟩

/-- What an AUTHORITY record describes of an entry as it stands (R116). -/
def Authority.record (a : Authority) : AuthorityRecord :=
  { defined := a.defined, commandHandle := a.commandHandle, transportHandle := a.transportHandle
    timesetRight := a.timesetRight, unlockRight := a.unlockRight, accepted := a.accepted, lastTag := a.lastTag
    lockUntil := a.lockUntil }

/-- The AUTHORITY record of an AUTHORITY package: the body's definition, no lock, and the accepted counter and tag as
they will stand once it is durable (R116, R121). -/
def definitionRecord (a : Authority) (p : List Byte) : AuthorityRecord :=
  { defined := pkgDefined p, commandHandle := pkgCommandHandle p, transportHandle := pkgTransportHandle p
    timesetRight := bitAt p 16 0, unlockRight := bitAt p 16 1
    accepted := if pkgSubject p = 0 then pkgCounter p else a.accepted
    lastTag := if pkgSubject p = 0 then some (pkgTag p) else a.lastTag
    lockUntil := 0 }

/-- The tx_ceiling a generation starts with as current (R102, R103). -/
def firstCeiling (signLimit : Nat) : Nat := min 256 signLimit

/-- The record that a lane job asks the store for at step 7 (R100, R106 to R108); `material` is a STAGE key wrapped
afresh. -/
def State.packagePayload (s : State) (p : List Byte) (material : List Byte) : Payload :=
  let h := pkgHandle p
  let e := s.entry h
  match pkgKind p with
  | .stage =>
    .stage (pkgHeader p) h (pkgGen p) material (pkgRole p) (pkgPolicy p) (pkgLifeDays p) (pkgSignLimit p)
      (pkgConfirmWindow p) (pkgStageGrace p) (pkgImmediate p) (pkgAuth p) (max e.highestGen (pkgGen p))
  | .confirm =>
    .plain (pkgHeader p)
      (.confirm h (pkgGen p) (pkgConfirmGrace p) (firstCeiling ((e.staged.map (·.signLimit)).getD 0)))
  | .cancel => .plain (pkgHeader p) (.cancel h (pkgGen p))
  | .revoke => .plain (pkgHeader p) (.revoke h (pkgGen p) e.highestGen e.role)
  | .release => .plain (pkgHeader p) (.release h (pkgGen p))
  | .timeset => .plain (pkgHeader p) (.time (some (pkgTime p)))
  | .unlock => .plain (pkgHeader p) (.unlock (pkgUnlock p .cover) (pkgUnlock p .field))
  | .authority =>
    .plain (pkgHeader p) (.authority (pkgSubject p) (definitionRecord (s.authority (pkgSubject p)) p))
  | .custody => .plain (pkgHeader p) (.custody (pkgCustodyMap p))
  | .setup => .plain (pkgHeader p) (.setup (pkgSetup p 12) (pkgSetup p 15) false)
  | .finalize => .plain (pkgHeader p) (.setup s.tamper.cover.setup s.tamper.field.setup true)

/-- The lane job asks for the append of its record and waits STORE (R100). -/
def State.askPackage (s : State) (j : JobId) (x : Job) : State :=
  (s.setStep j .recordStore).askAppend (.owned (.package (some j)) (s.packagePayload x.input x.material))

/-! ## Steps 1 to 3 -/

/-- The largest step of a package counter (R93). -/
def counterReach : Nat := 16777216

/-- Steps 1 and 2: the status that ends the job there, or none (R92, R93). -/
def laneJudge (a : Authority) (tt : Nat) (p : List Byte) : Option Status :=
  if !a.defined then some .authUnknown
  else if tt < a.lockUntil then some .authLocked
  else if a.accepted = 0xFFFFFFFF then some .authSpent
  else if pkgCounter p = a.accepted ∧ a.lastTag = some (pkgTag p) then some .alreadyApplied
  else if pkgCounter p ≤ a.accepted then some .counterOld
  else if counterReach < pkgCounter p - a.accepted then some .counterJump
  else none

/-- A package's results: its authority, the generation it names, its counter (R93, R100). -/
def pkgResults (p : List Byte) : List Nat := [pkgAuthByte p, pkgResultGen p, pkgCounter p]

/-- A job enters the lane and passes steps 1 and 2, and at step 3 asks for the current command key (R90 to R94). -/
def State.laneEnter (s : State) (j : JobId) (x : Job) : State :=
  let s := s.onEngine fun e => { e with lane := some j, laneWaiting := e.laneWaiting.filter (· != j) }
  let a := s.authority (pkgAuth x.input)
  match laneJudge a s.time.tt x.input with
  | some st => s.finishJob j st (pkgResults x.input)
  | none =>
    match (s.entry a.commandHandle).role, (s.entry a.commandHandle).current with
    | some .authCmd, some c => s.setStep j (.keyWait .commandCurrent c.gen)
    | _, _ => s.finishJob j .authUnknown []

/-- The requester is a lane job that a warm reset has aborted (R90). -/
def Requester.abortedLane : Requester → Bool
  | .package none | .lock none => true
  | _ => false

/-- The lane admits a job: it is empty, and no record of an aborted lane job is in program or awaits its retry (R90; the
retry is log entry 45). -/
def State.laneOpen (s : State) : Bool :=
  s.engine.lane.isNone && !s.store.program.any (fun p => p.requester.abortedLane) &&
    !s.store.retry.any (fun r => r.requester.abortedLane)

/-- The handle of the key that the lane asks P for (R52). -/
def State.laneKeyHandle (s : State) (p : List Byte) : LaneKey → HandleNo
  | .transport => (s.authority (pkgAuth p)).transportHandle
  | .commandCurrent | .commandRetiring => (s.authority (pkgAuth p)).commandHandle

/-- A tag failure: the fail count rises, and at 8 or above the authority locks and its AUTHORITY record is asked for
(R95, R114, R115). -/
def State.tagFailure (s : State) (j : JobId) (x : Job) : State :=
  let k := pkgAuth x.input
  let n := min ((s.authority k).failCount + 1) 255
  let s := s.onAuthority k fun a => { a with failCount := n }
  if 8 ≤ n then
    let s := s.onAuthority k fun a => { a with lockUntil := satAdd32 s.time.tt 3600 }
    (s.setStep j .lockStore).askAppend
      (.owned (.lock (some j)) (.plain ⟨some k, none⟩ (.authority k (s.authority k).record)))
  else s.finishJob j .tagBad []

/-! ## Steps 4 to 7 -/

/-- The kind of write a package kind joins the write list with (R64). -/
def PackageKind.writeKind : PackageKind → WriteKind
  | .stage => .stage
  | .confirm => .confirm
  | .cancel => .cancel
  | .revoke => .revoke
  | _ => .release

/-- A write joins the tail of a handle's write list (R64). -/
def State.joinWriteList (s : State) (h : HandleNo) (w : WriteEntry) : State :=
  s.onEntry h fun e => { e with writeList := e.writeList ++ [w] }

/-- Step 4, and what follows it: a handle kind joins its write list, the other kinds ask for their record (R96 to R98). -/
def State.laneRights (s : State) (j : JobId) (x : Job) : State :=
  let p := x.input
  match rightsStep s.custody (s.authority (pkgAuth p)) p with
  | some st => s.finishJob j st []
  | none =>
    if (pkgKind p).onHandle then
      (s.setStep j .writeWait).joinWriteList (pkgHandle p) ⟨some j, (pkgKind p).writeKind, pkgGen p⟩
    else s.askPackage j x

/-- What the lane job does once the release of P is complete (R52, R94, R99; log entry 11). -/
def State.afterRelease (s : State) (j : JobId) (x : Job) (next : AfterRelease) : State :=
  match next with
  | .tagMatched => s.laneRights j x
  | .tagMismatched second =>
    match second, (s.entry (s.laneKeyHandle x.input .commandRetiring)).presentRetiring s.time.tt with
    | false, some r => s.setStep j (.keyWait .commandRetiring r.gen)
    | _, _ => s.tagFailure j x
  | .keyUnwrapped => s.askPackage j x
  | .wrapBad => s.finishJob j .wrapBad []

/-- A package at the front of its write list: state checks, then the transport key of a STAGE or the append (R65, R98,
R99). -/
def State.packageFront (s : State) (j : JobId) (x : Job) : State :=
  let p := x.input
  match stateChecks (s.entry (pkgHandle p)) s.time.tt p with
  | some st => s.finishJob j st []
  | none =>
    if pkgKind p = .stage then
      let e := s.entry (s.laneKeyHandle p .transport)
      match e.role, e.current with
      | some .authTransport, some c => s.setStep j (.keyWait .transport c.gen)
      | _, _ => s.finishJob j .wrapBad []
    else s.askPackage j x

/-- A confirm by use at the front of its write list: the mark is asked for if the generation is the present staged one,
and otherwise the CHECK completes without writing (R85, R86; for a generation that is retiring by then, log entry 47). -/
def State.confirmFront (s : State) (j : JobId) (x : Job) : State :=
  match ((s.entry x.handle).presentStaged s.time.tt).filter fun g => g.gen = x.gen with
  | some g =>
    (s.setStep j .confirmStore).askAppend
      (.owned (.confirmByUse (some j))
        (.plain ⟨some g.authority, none⟩ (.confirm x.handle x.gen 0 (firstCeiling g.signLimit))))
  | none => s.finishUse j .ok [x.gen]

/-! ## What the part does by itself within an event -/

/-- The job's entry stands at the front of its handle's write list (R65). -/
def State.atWriteFront (s : State) (j : JobId) (x : Job) : Bool :=
  ((s.entry x.writeHandle).writeList.head?).any fun w => w.owner == some j

/-- The judgement of job `j` at the front of its write list, if it waits for that (R65). -/
def State.writeFront (s : State) (j : JobId) : Option State :=
  match s.job j with
  | none => none
  | some x =>
    if s.atWriteFront j x then
      match x.step with
      | .writeWait => some (s.packageFront j x)
      | .confirmWait => some (s.confirmFront j x)
      | _ => none
    else none

/-- What the lane does next by itself: it goes on after a release, asks P for a key, or admits a job (R90, R94). -/
def State.laneStep (s : State) : Option State :=
  match s.engine.lane with
  | some j =>
    match s.job j, s.slots.package with
    | some x, .empty =>
      match x.step with
      | .releasing next => some (s.afterRelease j x next)
      | .keyWait key gen => some (s.startOpening .package (s.laneKeyHandle x.input key) gen)
      | _ => none
    | _, _ => none
  | none =>
    match s.engine.laneWaiting.head? with
    | none => none
    | some j =>
      match s.job j with
      | some x => if s.laneOpen then some (s.laneEnter j x) else none
      | none => none

/-- One move that the part makes by itself within an event, if any is open: the front of a write list, the lane, the
front of a pending list (R41, R65, R90; log entry 12). -/
def State.internalStep (s : State) : Option State :=
  ((allJobs.findSome? s.writeFront).or s.laneStep).or (allSlots.findSome? s.serveFront)

/-- The moves that the part makes by itself within an event, until none is open or `fuel` are made (log entry 12). -/
def State.settleFor : Nat → State → State
  | 0, s => s
  | fuel + 1, s =>
    match s.internalStep with
    | none => s
    | some t => State.settleFor fuel t

/-- The event closes: every move open is made. Six jobs cannot make 64 moves in one event (log entry 12). -/
def State.settle (s : State) : State := State.settleFor 64 s

end Sys2Proof.Machine
end

