-- ==== Sys2Proof/Machine/EraseOps.lean ====
section
/-!
DEFINITION. What an erase leaves in its bank, and the abandonment of erases at a change to RESERVE and at warm reset
(R137, R138, R140; introduction of chapter 8).
-/

namespace Sys2Proof.Machine

open Sys2Proof

/-- A row as an erase that ended or was cut short leaves it (introduction of chapter 8). -/
def Row.after (r : Row) : RowResidue → Row
  | .blank => .blank
  | .kept => r
  | .torn => .torn

/-- The array with each row of a bank as an erase left it. -/
def eraseRows (a : RowArray) (b : BankNo) (residue : Nat → RowResidue) : RowArray :=
  a.set b ⟨⟨(a[b].toList.zipIdx).map fun (r, n) => r.after (residue n)⟩, by simp⟩

/-- The store once its reclaim, if it is in its ERASE phase, has ended (R138, R140). -/
def Store.endErasePhase (t : Store) : Store :=
  match t.reclaim with
  | some ⟨_, .erase, _⟩ => { t with reclaim := none }
  | _ => t

/-- The erase in flight, if there is one, abandoned: its bank becomes NEEDS_ERASE and holds what the draw says, and the
erases abandoned counter advances (R138, R140; log entry 3). -/
def State.abandonErase (s : State) : State :=
  match s.store.erase with
  | none => s
  | some b =>
    let draw := s.freeDraws
    let s := s.onStore fun t =>
      { t with array := eraseRows t.array b (Config.abandonedEraseRow draw)
               banks := t.banks.set b .needsErase, erase := none }
    let s := s.onPort fun p =>
      { p with figures := { p.figures with erasesAbandoned := bump32 p.figures.erasesAbandoned } }
    { s with freeDraws := draw + 1 }

/-- Every ERASING bank NEEDS_ERASE (R138, R140). -/
def Store.cancelErasing (t : Store) : Store :=
  { t with banks := mapVector (fun x => if x = .erasing then .needsErase else x) t.banks }

/-- The erase in flight abandoned, an ERASING bank whose erase has not started turned NEEDS_ERASE, and a reclaim in its
ERASE phase ended (R138, R140). -/
def State.abandonErases (s : State) : State :=
  s.abandonErase.onStore fun t => t.cancelErasing.endErasePhase

end Sys2Proof.Machine
end

