-- ==== Sys2Proof/Machine/Resets.lean ====
section
/-!
DEFINITION. The arrival of a warm reset at every block, its end, and the arrival of a cold start (chapter 11; R9, R12,
R36, R53, R71, R140, R161, R162, R169, R170).
-/

namespace Sys2Proof.Machine

open Sys2Proof

/-! ## The arrival of a warm reset -/

/-- The POSTED cards, in ascending card number (R9). -/
def Port.postedCards (p : Port) : List CardNo := (List.finRange 32).filter fun n => p.cards[n] = .posted

/-- Job `j`'s card completes ABORTED_BY_RESET, with no notes and zero result fields (R12, R36). -/
def State.abortJob (s : State) (j : JobId) : State :=
  match s.job j with
  | none => s
  | some x => s.completeCard x.card (resultFields x.kind) x.notify .abortedByReset 0 0 [] 0 []

/-- The requester of a program once its job has been aborted (R140). -/
def Requester.aborted : Requester → Requester
  | .package _ => .package none
  | .confirmByUse _ => .confirmByUse none
  | .lock _ => .lock none
  | r => r

/-- The job that the requester of a program in flight names (R71). -/
def Requester.job? : Requester → Option JobId
  | .package j | .confirmByUse j | .lock j => j
  | _ => none

/-- The job whose record is in program, or is abandoned and awaits its retry (R71, R140; the retry is log entry 45). -/
def Store.jobInProgram (t : Store) : Option JobId :=
  (t.program.bind fun p => p.requester.job?).or (t.retry.bind fun r => r.requester.job?)

/-- An entry after the arrival of a warm reset: only the write whose program is in flight stays, without its job; the
counter-write request is kept (R71). -/
def HandleEntry.afterReset (e : HandleEntry) (running : Option JobId) : HandleEntry :=
  let kept := e.writeList.filter fun w => w.owner.isSome && w.owner == running
  { e with writeList := kept.map fun w => { w with owner := none } }

/-- The appends that a warm reset leaves in the queue: TAMPER marks and the time base's TIME mark (R140). -/
def QueuedAppend.staysAtReset : QueuedAppend → Bool
  | .tamper _ | .timeMark => true
  | _ => false

/-- The store after the arrival of a warm reset, its erases apart: the queue holds only the marks that stay, a program in
flight runs on without its job, and a COPY is abandoned, at once or after the program in flight (R140). -/
def Store.afterReset (t : Store) : Store :=
  { t with
    queue := t.queue.filter QueuedAppend.staysAtReset
    program := t.program.map fun p => { p with requester := p.requester.aborted }
    retry := t.retry.map fun r => { r with requester := r.requester.aborted }
    reclaim := if t.circuitFree then none else t.reclaim.map fun r => { r with abandoned := true } }

/-- A warm reset arrives (R169): jobs aborted, then engine, arbiter and slots emptied, the arrival list rebuilt, the
write lists cut, erases and COPY abandoned, and the part ACTIVE (R9, R12, R32, R36, R53, R71, R140, R158, R160). -/
def State.beginWarmReset (s : State) (cause : ResetCause) : State :=
  let s := allJobs.foldl State.abortJob s
  let running := s.store.jobInProgram
  let s := s.abandonErases.onStore Store.afterReset
  let s := { s with directory := mapVector (fun e => e.afterReset running) s.directory }
  let s := s.onEngine fun _ => ⟨Vector.replicate 6 none, none, []⟩
  let s := s.onCipher fun _ => ⟨none, [], .c⟩
  let s := s.onSlots fun _ => ⟨Vector.replicate 4 ⟨.empty, 0, []⟩, .empty⟩
  let s := s.onPort fun p => { p with arrival := p.postedCards }
  let s := s.onSupply fun p => { p with activity := .active, standbyCount := 0, levelChanged := false }
  s.onReset fun r => { r with cause := cause, reserveAtReset := s.supply.power = .reserve, warmReset := true }

/-- The part is READY and carries out no warm reset, so that one may arrive (R20, R161). -/
def State.mayWarmReset (s : State) : Bool := s.resetCtl.part = .ready && !s.resetCtl.warmReset

/-- RST_N_LOW: a warm reset with cause PIN, or no effect while STARTING or in a warm reset (R161, R169). -/
def execRstNLow (s : State) : Host.Outcome State Fault Refusal :=
  let s := s.onReset fun r => { r with rstHigh := false }
  .next (if s.mayWarmReset then s.beginWarmReset .pin else s)

/-! ## The end of a warm reset -/

/-- The directory asks again for the append of a handle's kept pending counter write, unless it already waits in the
queue (R71). -/
def State.askAgain (s : State) (h : HandleNo) : State :=
  if (s.entry h).counterPending.isSome ∧ s.store.queue.contains (.counter h) = false then s.askAppend (.counter h)
  else s

/-- WARM_RESET_END: with no program from before the reset in flight or awaiting its retry, and RST_N high, the reset ends:
RESET_DONE is set and kept counter writes are asked for again, in ascending handle number (R71, R170; the retry is log entry
45, the order log entry 38). -/
def execWarmResetEnd (rstHigh : Bool) (s : State) : Host.Outcome State Fault Refusal :=
  let s := s.onReset fun r => { r with rstHigh := rstHigh }
  .next (if s.resetCtl.warmReset && rstHigh && s.store.circuitFree then
    let s := s.onReset fun r => { r with warmReset := false }
    let s := s.onStore fun t => { t with reclaim := if t.reclaim.any (·.abandoned) then none else t.reclaim }
    allHandles.foldl State.askAgain (s.raise alertResetDone)
  else s)

/-! ## The arrival of a cold start -/

/-- The array after a power loss cut a program and an erase short (R110, R169; introduction of chapter 8). -/
def State.arrayAfterPowerLoss (s : State) (residue : ProgramResidue) : RowArray :=
  let a := match s.store.program, residue with
    | some p, .torn => setRow s.store.array p.location .torn
    | some p, .valid => setRow s.store.array p.location (.valid p.data)
    | _, _ => s.store.array
  match s.store.erase with
  | some b => eraseRows a b (Config.abandonedEraseRow s.freeDraws)
  | none => a

/-- COLD_START: SRAM is lost, and the part begins STARTING (R161, R162). -/
def execColdStart (cause : ColdCause) (residue : ProgramResidue) (s : State) : Host.Outcome State Fault Refusal :=
  let cause := match cause with
    | .powerOn => ResetCause.powerOn
    | .brownOut => ResetCause.brownOut
  .next (State.cold cause (s.arrayAfterPowerLoss residue) s.pending
    (if s.store.erase.isSome then s.freeDraws + 1 else s.freeDraws))

end Sys2Proof.Machine
end

