-- ==== Sys2Proof/Machine/HostPort.lean ====
section
/-!
DEFINITION. The exchange port's handling of host write transactions, and the host rows of the command table: POST,
WITHDRAW, RETURN, CARD_FAULT, HOST_MEMORY_WRITE, CONTROL_WRITE, SOFT_RESET, ALERT_CLEAR and REGISTER_WRITE_DISCARDED
(R1, R2, R6 to R9, R11, R19 to R22).
-/

namespace Sys2Proof.Machine

open Sys2Proof

/-! ## State bytes -/

/-- The outcomes of a state-byte write (R6). -/
inductive StateByteOutcome where
  | posted | withdrawn | returned | noChange | fault
  deriving DecidableEq, Repr, Inhabited

/-- The table of R6: the outcome of writing `v` into the state byte of a card in a state. -/
def stateByteOutcome (v : Byte) (c : CardState) : StateByteOutcome :=
  if v = 0x5A then
    match c with
    | .free => .posted
    | .posted => .noChange
    | .taken | .done => .fault
  else if v = 0xA5 then
    match c with
    | .free => .fault
    | .posted => .withdrawn
    | .taken | .done => .noChange
  else if v = 0x00 then
    match c with
    | .free => .noChange
    | .posted | .taken => .fault
    | .done => .returned
  else if v = 0x7E then
    match c with
    | .taken => .noChange
    | _ => .fault
  else if v = 0xC3 then
    match c with
    | .done => .noChange
    | _ => .fault
  else .fault

/-- A post: the card is POSTED and joins the tail of the arrival list (R7). -/
def Port.post (p : Port) (n : CardNo) : Port := { p with cards := p.cards.set n .posted, arrival := p.arrival ++ [n] }

/-- A withdraw: the card is FREE and leaves the arrival list (R9). -/
def Port.withdraw (p : Port) (n : CardNo) : Port :=
  { p with cards := p.cards.set n .free, arrival := p.arrival.filter (· != n) }

/-- A return: the card is FREE and its done-map bit is clear (R11). -/
def Port.giveBack (p : Port) (n : CardNo) : Port :=
  { p with cards := p.cards.set n .free, doneMap := p.doneMap &&& ~~~((1 : BitVec 32) <<< n.val) }

/-- A card fault: the counter advances, and ALERT.CARD_FAULT is set, but held during STARTING (R8). -/
def Port.countFault (p : Port) (ready : Bool) : Port :=
  { p with figures := { p.figures with cardFaults := bump32 p.figures.cardFaults }
           alert := if ready then p.alert ||| alertCardFault else p.alert }

/-- A state-byte write is judged against the card's state, and wakes the part (R6, R160). -/
def State.judgeStateByte (s : State) (n : CardNo) (v : Byte) : State :=
  s.wake.onPort fun p =>
    match stateByteOutcome v p.cards[n] with
    | .posted => p.post n
    | .withdrawn => p.withdraw n
    | .returned => p.giveBack n
    | .noChange => p
    | .fault => p.countFault (s.resetCtl.part = .ready)

/-! ## Transactions -/

/-- One byte of a transaction that is no state byte is stored, discarded, or acts as its register states (R1, R19,
R21). -/
def Port.storeByte (p : Port) (a : Nat) (v : Byte) : Port :=
  if a < 0x3E00 then (if isStateByte a then p else { p with memory := Memory.write p.memory a v })
  else if a < 0x4004 then p
  else if a < 0x4008 then { p with control := setByte32 p.control (a - 0x4004) v &&& controlMask }
  else if a = 0x4008 then { p with alert := p.alert &&& ~~~(v.setWidth 16) }
  else if a = 0x4009 then { p with alert := p.alert &&& ~~~(v.setWidth 16 <<< 8) }
  else p

/-- The bytes of a transaction that are no state bytes, in ascending order of address (R2). -/
def Port.storeBytes : Port → Nat → List Byte → Port
  | p, _, [] => p
  | p, a, v :: vs => Port.storeBytes (p.storeByte a v) (a + 1) vs

/-- The state bytes of a transaction are judged in ascending order of address (R2). -/
def State.judgeBytes : State → Nat → List Byte → State
  | s, _, [] => s
  | s, a, v :: vs => State.judgeBytes (if isStateByte a then s.judgeStateByte (cardAt a) v else s) (a + 1) vs

/-- The transaction writes 1 to CONTROL.SOFT_RESET (R20). -/
def requestsSoftReset (a : Nat) (bytes : List Byte) : Bool :=
  decide (a ≤ 0x4004) && (byteAt bytes (0x4004 - a)).getLsbD 7

/-- A host write transaction of `bytes` from offset `a`: bytes stored, then state bytes judged, then SOFT_RESET acted on
(R1, R2, R6, R20; log entry 5). -/
def State.hostWrite (s : State) (a : Nat) (bytes : List Byte) : State :=
  let s := (s.onPort fun p => p.storeBytes a bytes).judgeBytes a bytes
  if requestsSoftReset a bytes && s.mayWarmReset then s.beginWarmReset .soft else s

/-! ## The host rows -/

/-- POST (R7). -/
def execPost (card : CardNo) (rest : List Byte) (s : State) : Host.Outcome State Fault Refusal :=
  .next (s.hostWrite (cardBase card) (0x5A :: rest))

/-- WITHDRAW (R9). -/
def execWithdraw (card : CardNo) (rest : List Byte) (s : State) : Host.Outcome State Fault Refusal :=
  .next (s.hostWrite (cardBase card) (0xA5 :: rest))

/-- RETURN (R11). -/
def execReturnCard (card : CardNo) (rest : List Byte) (s : State) : Host.Outcome State Fault Refusal :=
  .next (s.hostWrite (cardBase card) (0x00 :: rest))

/-- CARD_FAULT (R8). -/
def execCardFault (card : CardNo) (value : Byte) (rest : List Byte) (s : State) : Host.Outcome State Fault Refusal :=
  .next (s.hostWrite (cardBase card) (value :: rest))

/-- HOST_MEMORY_WRITE (R1). -/
def execHostMemoryWrite (offset : Nat) (bytes : List Byte) (s : State) : Host.Outcome State Fault Refusal :=
  .next (s.hostWrite offset bytes)

/-- CONTROL_WRITE (R19). -/
def execControlWrite (start : Fin 4) (bytes : List Byte) (s : State) : Host.Outcome State Fault Refusal :=
  .next (s.hostWrite (0x4004 + start.val) bytes)

/-- SOFT_RESET (R20). -/
def execSoftReset (low : Byte) (rest : List Byte) (s : State) : Host.Outcome State Fault Refusal :=
  .next (s.hostWrite 0x4004 (low :: rest))

/-- ALERT_CLEAR (R21). -/
def execAlertClear (start : Fin 4) (bytes : List Byte) (s : State) : Host.Outcome State Fault Refusal :=
  .next (s.hostWrite (0x4008 + start.val) bytes)

/-- REGISTER_WRITE_DISCARDED (R22). -/
def execRegisterWriteDiscarded (offset : Nat) (bytes : List Byte) (s : State) : Host.Outcome State Fault Refusal :=
  .next (s.hostWrite offset bytes)

end Sys2Proof.Machine
end

