-- ==== Sys2Proof/Machine/Intake.lean ====
section
/-!
DEFINITION. Intake: which card is taken and how (R24 to R29), and the ten rows of the command table by which intake
takes a card: OPEN, CLOSE, SIGN, CHECK, QUERY, PACKAGE, TIME, SETTINGS, WINDOWS and KIND_UNKNOWN_REFUSAL.
-/

namespace Sys2Proof.Machine

open Sys2Proof

/-! ## Which card is taken -/

/-- The kind byte of a card as it stands in exchange memory (R25). -/
def State.kindByte (s : State) (n : CardNo) : Byte := Memory.read s.port.memory (cardBase n + 1)

/-- How many job records hold cards of a group (R30). -/
def State.groupRecords (s : State) (g : Group) : Nat :=
  (allJobs.filter fun j => (s.job j).any fun x => x.group = g).length

/-- A POSTED card is takable (R25). -/
def State.takable (s : State) (n : CardNo) : Bool :=
  decide (s.groupRecords (cardGroup n) < 4) && (cardGroup n = .m || s.settings.admitC) &&
    (s.supply.power = .mains || (kindOfByte (s.kindByte n)).any Kind.reserveAllowed)

/-- A free job record: the lowest of those free (R27; log entry 13). -/
def State.freeRecordNo (s : State) : Option JobId := allJobs.find? fun j => (s.job j).isNone

/-- The part lets intake take cards: READY, ACTIVE and no warm reset (R24). -/
def State.intakeRuns (s : State) : Bool :=
  s.resetCtl.part = .ready && s.supply.activity = .active && !s.resetCtl.warmReset

/-- The takable card nearest the head of the arrival list, and the record that is to hold it (R24). -/
def State.nextTake (s : State) : Option (CardNo × JobId) :=
  if s.intakeRuns then
    match s.port.arrival.find? s.takable, s.freeRecordNo with
    | some n, some j => some (n, j)
    | _, _ => none
  else none

/-! ## The take -/

/-- The bytes of a card behind its state byte, as they stand in exchange memory (R27). -/
def State.cardBytes (s : State) (n : CardNo) (from_ len : Nat) : List Byte :=
  Memory.readBytes s.port.memory (cardBase n + from_) len

/-- The 16 header bytes of a card as they stand: the mirror of its state, and the bytes behind it (R5, R27). -/
def State.cardHeader (s : State) (n : CardNo) : List Byte := (s.port.cards[n]).mirror :: s.cardBytes n 1 15

/-- The snapshot of card `n`, of kind `k`: header, body, and the input bytes if its range lies inside the buffer area
(R27). -/
def State.snapshot (s : State) (n : CardNo) (k : Kind) : Job :=
  let x : Job :=
    { card := n, kind := k, header := s.cardHeader n, body := s.cardBytes n 16 240, input := [], step := .slotQueue
      notes := 0, matched := false, gen := 0, counter := 0, material := [], output := [] }
  if k.namesRange ∧ rangeInBuffer x.rangeOffset x.rangeLength = true then
    { x with input := Memory.readBytes s.port.memory x.rangeOffset (min x.rangeLength 1024) }
  else x

/-- Card `n` leaves the arrival list and becomes TAKEN (R27). -/
def Port.take (p : Port) (n : CardNo) : Port :=
  { p with cards := p.cards.set n .taken, arrival := p.arrival.filter (· != n) }

/-- Card `n` is taken into record `j` as job `x`; the job is refused by the checks at take, or goes on as `course` says
(R27, R28). -/
def State.takeCard (s : State) (n : CardNo) (j : JobId) (x : Job) (course : State → State) : State :=
  let s := (s.onPort fun p => p.take n).setJob j (some x)
  match checkAtTake s.port.windows x with
  | some st => s.finishJob j st []
  | none => course s

/-- Intake takes the next card if it is of kind `k`, and does nothing otherwise (R24; log entry 6). -/
def State.takeKind (s : State) (k : Kind) (course : JobId → Job → State → State) : State :=
  match s.nextTake with
  | none => s
  | some (n, j) =>
    if kindOfByte (s.kindByte n) = some k then s.takeCard n j (s.snapshot n k) (course j (s.snapshot n k)) else s

/-- The job joins the tail of its slot's pending list (R40). -/
def State.joinSlot (s : State) (j : JobId) (x : Job) : State :=
  s.onSlot x.slotNo fun t => { t with list := t.list ++ [j] }

/-- OPEN (R42). -/
def execTakeOpen (s : State) : Host.Outcome State Fault Refusal :=
  .next (s.takeKind .openKey fun j x s => (s.joinSlot j x).settle)

/-- CLOSE (R45). -/
def execTakeClose (s : State) : Host.Outcome State Fault Refusal :=
  .next (s.takeKind .closeSlot fun j x s => (s.joinSlot j x).settle)

/-- SIGN (R73). -/
def execTakeSign (s : State) : Host.Outcome State Fault Refusal :=
  .next (s.takeKind .sign fun j x s => (s.joinSlot j x).settle)

/-- CHECK (R79). -/
def execTakeCheck (s : State) : Host.Outcome State Fault Refusal :=
  .next (s.takeKind .check fun j x s => (s.joinSlot j x).settle)

/-- A QUERY is served: it reports the entry, and clears touched under CLEAR_TOUCHED (R68, R69). -/
def State.serveQuery (s : State) (j : JobId) (x : Job) : State :=
  let t := s.finishJob j .ok ((s.entry x.handle).queryValues s.time.tt)
  if x.option then t.onEntry x.handle fun e => { e with touched := false } else t

/-- QUERY (R68). -/
def execTakeQuery (s : State) : Host.Outcome State Fault Refusal :=
  .next (s.takeKind .query fun j x s => s.serveQuery j x)

/-- A PACKAGE job: the format check, then it waits for the lane (R89, R90). -/
def State.servePackage (s : State) (j : JobId) (x : Job) : State :=
  if formatOk x.input then
    ((s.setStep j .laneWait).onEngine fun e => { e with laneWaiting := e.laneWaiting ++ [j] }).settle
  else s.finishJob j .fieldBad []

/-- PACKAGE (R89). -/
def execTakePackage (s : State) : Host.Outcome State Fault Refusal :=
  .next (s.takeKind .package fun j x s => s.servePackage j x)

/-! ## TIME, SETTINGS, WINDOWS -/

/-- The bound that TT never exceeds (R143). -/
def ttMax : Nat := 0xFFFFFFFE

/-- The table of R145: TT and D after an offer. -/
def TimeBase.offer (t : TimeBase) (offered : Nat) : TimeBase :=
  if offered ≤ t.tt then t
  else if offered - t.tt ≤ t.drift then { t with tt := min offered ttMax, drift := t.drift - (offered - t.tt) }
  else { t with tt := min (t.tt + t.drift) ttMax, drift := 0 }

/-- The note of an offer (R145). -/
def TimeBase.offerNotes (t : TimeBase) (offered : Nat) : BitVec 16 :=
  if offered < t.tt then noteClockBehind
  else if t.drift < offered - t.tt then noteClockClamped
  else 0

/-- A TIME job is judged and completes (R145). -/
def State.serveTime (s : State) (j : JobId) (x : Job) : State :=
  let after := s.time.offer x.offeredTime
  let notes := s.time.offerNotes x.offeredTime
  ((s.onTime fun _ => after).addNotes j notes).finishJob j .ok [after.tt, after.drift]

/-- TIME (R145). -/
def execTakeTime (s : State) : Host.Outcome State Fault Refusal :=
  .next (s.takeKind .time fun j x s => s.serveTime j x)

/-- A SETTINGS job is applied and completes (R37). -/
def State.serveSettings (s : State) (j : JobId) (x : Job) : State :=
  let s := s.onSettings fun _ => { idleLimit := x.idleLimit, admitC := x.admitBit, settingsSeen := true }
  let s := s.onTime fun t => { t with stepMax := x.stepMax, drift := min t.drift x.stepMax }
  s.finishJob j .ok []

/-- SETTINGS (R37). -/
def execTakeSettings (s : State) : Host.Outcome State Fault Refusal :=
  .next (s.takeKind .settings fun j x s => s.serveSettings j x)

/-- A WINDOWS job is applied and completes (R18). -/
def State.serveWindows (s : State) (j : JobId) (x : Job) : State :=
  (s.onPort fun p => { p with windows := x.windows }).finishJob j .ok []

/-- WINDOWS (R18). -/
def execTakeWindows (s : State) : Host.Outcome State Fault Refusal :=
  .next (s.takeKind .windows fun j x s => s.serveWindows j x)

/-! ## KIND_UNKNOWN -/

/-- Card `n` is taken and refused KIND_UNKNOWN in one update (R28). -/
def State.refuseUnknown (s : State) (n : CardNo) : State :=
  (s.onPort fun p => p.take n).completeCard n [] (bitAt (s.cardHeader n) 2 0) .kindUnknown 0 0 [] 0 []

/-- KIND_UNKNOWN_REFUSAL (R28). -/
def execKindUnknownRefusal (s : State) : Host.Outcome State Fault Refusal :=
  .next (match s.nextTake with
    | none => s
    | some (n, _) => if kindOfByte (s.kindByte n) = none then s.refuseUnknown n else s)

end Sys2Proof.Machine
end

