-- ==== Sys2Proof/Machine/UseEvents.lean ====
section
/-!
DEFINITION. The events of the cipher core and of the working slots: ROW_READ_START, KEY_ROW_READ_END, SLOT_UNWRAP_END,
SIGN_OPERATION_END, TAG_COMPARISON_END, DECIPHER_END, WIPE_COMPLETION, IDLE_CLOSE, PACKAGE_TAG_CHECK_END and
STAGE_UNWRAP_END (chapters 3, 5 and 6).
-/

namespace Sys2Proof.Machine

open Sys2Proof

/-! ## Openings -/

/-- A slot's waiting row read starts; where the directory holds no location for the generation any more, the opening fails
at the store (R43, R44, R128; log entry 14). -/
def State.slotReadStart (s : State) (i : SlotId) : State :=
  match s.slotState i with
  | .reading h g none =>
    match (s.entry h).locationOf g with
    | none => (s.failOpening i .storeFault).settle
    | some _ => s.startRead i
  | _ => s

/-- The COPY with its next row's stage replaced. -/
def Store.setCopyStage (t : Store) (stage : CopyStage) : Store :=
  match t.reclaim with
  | some ⟨tail, .copy w, ab⟩ => { t with reclaim := some ⟨tail, .copy { w with stage := stage }, ab⟩ }
  | _ => t

/-- The stage of a COPY that has not been abandoned. -/
def Store.copyStage (t : Store) : Option CopyStage :=
  match t.reclaim with
  | some ⟨_, .copy w, false⟩ => some w.stage
  | _ => none

/-- A fold's waiting row read starts if its bank is free (R128, R134). -/
def State.foldReadStart (s : State) : State :=
  match s.store.copyStage with
  | some (.reading h g none) =>
    match (s.entry h).locationOf g with
    | none => s.enterFault.settle
    | some l => if s.store.bankBusy l.bank then s else s.onStore fun t => t.setCopyStage (.reading h g (some l))
  | _ => s

/-- ROW_READ_START (R128). -/
def execRowReadStart (reader : Reader) (s : State) : Host.Outcome State Fault Refusal :=
  .next (match reader with
    | .slot i => s.slotReadStart i
    | .fold => s.foldReadStart)

/-- A slot's row read ends: the unwrap is asked for, or the opening fails (R43, R44). -/
def State.keyRowRead (s : State) (i : SlotId) (crcOk : Bool) : State :=
  match s.slotState i with
  | .reading h g (some l) =>
    match keyRowFor (rowAt s.store.array l) crcOk h g with
    | none => (s.failOpening i .storeFault).settle
    | some k => (s.setSlotState i (.unwrapping h g k.policy k.material)).requestCore (.slotUnwrap i)
  | _ => s

/-- KEY_ROW_READ_END (R43). -/
def execKeyRowReadEnd (slot : SlotId) (crcOk : Bool) (s : State) : Host.Outcome State Fault Refusal :=
  .next (s.keyRowRead slot crcOk)

/-- The lane job goes on with the key that P now holds: tag comparison or unwrap (R52, R94, R99). -/
def State.laneKeyOpen (s : State) : State :=
  match s.engine.lane with
  | none => s
  | some j =>
    match s.job j with
    | none => s
    | some x =>
      match x.step with
      | .keyWait .commandCurrent _ => (s.setStep j (.tagWait false)).requestCore (.lane j)
      | .keyWait .commandRetiring _ => (s.setStep j (.tagWait true)).requestCore (.lane j)
      | .keyWait .transport _ => (s.setStep j .unwrapWait).requestCore (.lane j)
      | _ => s

/-- A host slot's opening ends with good material: OPEN, or wiped under a latch (R43). -/
def State.hostOpened (s : State) (i : Fin 4) (h : HandleNo) (gen : Nat) (p : Policy) (key : List Byte) : State :=
  let latched := p.tamperLock && s.anyLatch
  let t := s.setSlotState (.host i) (if latched then .closing s.time.milli else .opened h gen p key)
  match (s.slot i).list.head? with
  | none => t
  | some j =>
    if latched then t.finishJob j .tamperLock [] else t.finishJob j .ok [gen, roleCode (s.entry h).role]

/-- The unwrap of slot `i` ends (R43, R44, R52). -/
def State.unwrapped (s : State) (i : SlotId) (material : List Byte) : State :=
  match s.slotState i with
  | .unwrapping h g p _ =>
    match Config.unwrapDeviceRoot material, i with
    | none, _ => s.failOpening i .storeFault
    | some key, .host n => s.hostOpened n h g p key
    | some key, .package => (s.setSlotState .package (.opened h g p key)).laneKeyOpen
  | _ => s

/-- SLOT_UNWRAP_END (R43). -/
def execSlotUnwrapEnd (s : State) : Host.Outcome State Fault Refusal :=
  .next (match s.cipher.running with
    | some ⟨.slotUnwrap i material, discarded⟩ =>
      (if discarded then s.coreIdle else s.coreIdle.unwrapped i material).settle
    | _ => s)

/-! ## SIGN -/

/-- The payload of a SIGN as sent: enciphered under ENCIPHER (R72). -/
def signedPayload (key : List Byte) (role : Nat) (x : Job) : List Byte :=
  if x.option then
    (List.range x.input.length).map (Config.encipherByte key role x.handle.val x.gen x.counter x.input)
  else x.input

/-- The tag of a SIGN (R72). -/
def signTag (key : List Byte) (role : Nat) (x : Job) : Tag :=
  Config.frameTag key role x.handle.val x.gen x.counter (signedPayload key role x)

/-- A SIGN's operation ends: the job completes OK with its counter and tag (R76). -/
def State.signDone (s : State) (j : JobId) (key : List Byte) : State :=
  match s.job j with
  | none => s
  | some x =>
    let role := roleCode (s.entry x.handle).role
    let s := s.onJob j fun y => { y with output := if x.option then signedPayload key role x else [] }
    s.finishUse j .ok [x.counter, (signTag key role x).toNat]

/-- SIGN_OPERATION_END (R76). -/
def execSignOperationEnd (s : State) : Host.Outcome State Fault Refusal :=
  .next (match s.cipher.running with
    | some ⟨.sign j key, discarded⟩ => (if discarded then s.coreIdle else s.coreIdle.signDone j key).settle
    | _ => s)

/-! ## CHECK -/

/-- The policy of the generation that a slot holds. -/
def SlotState.policy : SlotState → Policy
  | .opened _ _ p _ => p
  | _ => Policy.empty

/-- The note that a CHECK takes from the standing of its generation (R80). -/
def Standing.note : Standing → BitVec 16
  | .current => 0
  | .staged => noteStagedUsed
  | .retiring => noteGraceUsed

/-- An accepted CHECK whose cipher work is done: it asks for a confirm by use, if it was accepted under a staged
generation with CONFIRM_ON_USE, and otherwise completes OK (R83, R85). -/
def State.checkAccepted (s : State) (j : JobId) : State :=
  match s.job j with
  | none => s
  | some x =>
    if x.notes &&& noteStagedUsed ≠ 0 ∧ (s.slot x.slotNo).state.policy.confirmOnUse = true then
      (s.setStep j .confirmWait).joinWriteList x.handle ⟨some j, .confirmByUse, x.gen⟩
    else s.finishUse j .ok [x.gen]

/-- A CHECK's counter is accepted into the window at a standing (R81, R83). -/
def State.acceptCounter (s : State) (j : JobId) (x : Job) (st : Standing) (w : RxWindow) : State :=
  let s := s.onEntry x.handle fun e => e.setWindow st w
  let s := if st = .current then s.floorCheck x.handle else s
  if x.option then (s.setStep j .decipherWait).requestCore (.use j) else s.checkAccepted j

/-- The tag of the frame matches (R72, R80). -/
def frameMatches (key : List Byte) (role : Nat) (x : Job) : Bool :=
  Config.frameTag key role x.handle.val x.gen x.claimedCounter x.input = x.claimedTag

/-- A CHECK's comparison ends: standing, tag, window (R80, R81). -/
def State.compared (s : State) (j : JobId) (key : List Byte) : State :=
  match s.job j with
  | none => s
  | some x =>
    let e := s.entry x.handle
    match e.standing s.time.tt x.gen with
    | none => (s.wipe (.host x.slotNo)).finishUse j .noKey []
    | some st =>
      let t := s.addNotes j st.note
      if frameMatches key (roleCode e.role) x then
        match (e.windowAt st).judge x.claimedCounter with
        | .replay => t.finishUse j .replay []
        | .tooOld => t.finishUse j .tooOld []
        | .accepted w => t.acceptCounter j x st w
      else t.finishUse j .tagBad []

/-- TAG_COMPARISON_END (R80). -/
def execTagComparisonEnd (s : State) : Host.Outcome State Fault Refusal :=
  .next (match s.cipher.running with
    | some ⟨.check j key, discarded⟩ => (if discarded then s.coreIdle else s.coreIdle.compared j key).settle
    | _ => s)

/-- The deciphered payload of a CHECK (R72). -/
def decipheredPayload (key : List Byte) (role : Nat) (x : Job) : List Byte :=
  (List.range x.input.length).map (Config.decipherByte key role x.handle.val x.gen x.claimedCounter x.input)

/-- A CHECK's decipher ends (R83). -/
def State.deciphered (s : State) (j : JobId) (key : List Byte) : State :=
  match s.job j with
  | none => s
  | some x =>
    let role := roleCode (s.entry x.handle).role
    (s.onJob j fun y => { y with output := decipheredPayload key role x }).checkAccepted j

/-- DECIPHER_END (R83). -/
def execDecipherEnd (s : State) : Host.Outcome State Fault Refusal :=
  .next (match s.cipher.running with
    | some ⟨.decipher j key, discarded⟩ => (if discarded then s.coreIdle else s.coreIdle.deciphered j key).settle
    | _ => s)

/-! ## Wipes and idle closes -/

/-- WIPE_COMPLETION: at the next milli-tick the CLOSING slot is EMPTY (R48). -/
def execWipeCompletion (slot : SlotId) (s : State) : Host.Outcome State Fault Refusal :=
  .next (match s.slotState slot with
    | .closing since => if since < s.time.milli then (s.setSlotState slot .empty).settle else s
    | _ => s)

/-- The conditions of an idle close (R49). -/
def State.idleDue (s : State) (i : Fin 4) : Bool :=
  decide (s.settings.idleLimit ≠ 0) && (s.slot i).list.isEmpty && decide (s.settings.idleLimit ≤ (s.slot i).idle)

/-- IDLE_CLOSE (R49). -/
def execIdleClose (slot : Fin 4) (s : State) : Host.Outcome State Fault Refusal :=
  .next (if s.idleDue slot then s.wipe (.host slot) else s)

/-! ## The package lane's operations -/

/-- The tag of a package matches (R94). -/
def packageMatches (key : List Byte) (p : List Byte) : Bool :=
  Config.packageTag key Role.authCmd.code (bytesAt p 0 112) = pkgTag p

/-- A package's tag comparison ends: a match resets the fail count and raises GRACE_USED under a retiring generation; P
is released (R94, R114). -/
def State.packageCompared (s : State) (j : JobId) (key : List Byte) : State :=
  match s.job j with
  | none => s
  | some x =>
    match x.step with
    | .tagRun second =>
      if packageMatches key x.input then
        let s := s.onAuthority (pkgAuth x.input) fun a => { a with failCount := 0 }
        let s := if second then s.addNotes j noteGraceUsed else s
        (s.setStep j (.releasing .tagMatched)).wipe .package
      else (s.setStep j (.releasing (.tagMismatched second))).wipe .package
    | _ => s

/-- PACKAGE_TAG_CHECK_END (R94). -/
def execPackageTagCheckEnd (s : State) : Host.Outcome State Fault Refusal :=
  .next (match s.cipher.running with
    | some ⟨.packageTag j key, discarded⟩ => (if discarded then s.coreIdle else s.coreIdle.packageCompared j key).settle
    | _ => s)

/-- The unwrap of a STAGE key ends: the job keeps the material wrapped afresh, or the wrap has failed; P is released
(R99). -/
def State.stageUnwrapped (s : State) (j : JobId) (key : List Byte) : State :=
  match s.job j with
  | none => s
  | some x =>
    match Config.rewrapStageKey key (pkgWrappedKey x.input) (pkgWrapCheck x.input) with
    | none => (s.setStep j (.releasing .wrapBad)).wipe .package
    | some m => (s.onJob j fun y => { y with material := m, step := .releasing .keyUnwrapped }).wipe .package

/-- STAGE_UNWRAP_END (R99). -/
def execStageUnwrapEnd (s : State) : Host.Outcome State Fault Refusal :=
  .next (match s.cipher.running with
    | some ⟨.stageUnwrap j key, discarded⟩ => (if discarded then s.coreIdle else s.coreIdle.stageUnwrapped j key).settle
    | _ => s)

end Sys2Proof.Machine
end

