-- ==== Sys2Proof/Machine/Durable.lean ====
section
/-!
DEFINITION. From a payload to a row and from a durable row to its effect: what a program writes at its start (R126,
R130), and what its completion changes in the directory, the authority table, the custody map, the tamper monitor and
the time base (R61, R66, R67, R100 to R108, R113, R121 to R124, R146 to R149, R153 to R155).
-/

namespace Sys2Proof.Machine

open Sys2Proof

/-! ## The row a program writes -/

/-- The row that a payload gives with a seq and a stamp (R101, R102, R126, R135, R148, R149). -/
def Payload.row (p : Payload) (seq stamp : Nat) : RowData :=
  match p with
  | .plain header record => ⟨seq, stamp, header, record⟩
  | .copy d => { d with seq := seq }
  | .stage header h gen material role policy lifeDays signLimit confirmWindow grace immediate authority highestGen =>
    { seq := seq, stamp := stamp, header := header
      record := .key h gen
        { material := material, role := role, policy := policy, expiry := expiryOf stamp lifeDays
          state :=
            if immediate then .active stamp signLimit (firstCeiling signLimit) none (some grace)
            else .staged stamp signLimit (satAdd32 stamp (confirmWindow * 60)) authority
          highestGen := highestGen } }

/-- The largest seq that the store may not assign (R126). -/
def seqEnd : Nat := 0xFFFFFFFF

/-- A program starts in the HEAD at the append position: its seq and stamp are assigned, and the start enters the history
(R126, R129, R130). -/
def State.startProgram (s : State) (r : Requester) (p : Payload) (failures : Nat) : State :=
  s.onStore fun t =>
    { t with
      program := some { requester := r, payload := p, location := t.appendLocation
                        data := p.row t.nextSeq s.time.tt, failures := failures }
      nextSeq := t.nextSeq + 1
      history := pushStart t.history s.time.milli }

/-- The values fixed into the row of a pending counter write when its program begins (R66). -/
def HandleEntry.flight (e : HandleEntry) : Option CounterFlight :=
  match e.current, e.counterPending with
  | some c, some w => some ⟨c.gen, max c.txCeiling (w.ceiling.getD 0), w.floor.or c.rxFloor⟩
  | _, _ => none

/-- A queued append starts its program: the content of a COUNTER, TAMPER or TIME mark is fixed now, and its owner learns
of the start (R66, R147, R153). -/
def State.startQueued (s : State) (q : QueuedAppend) : State :=
  let s := s.onStore fun t => { t with queue := t.queue.erase q }
  match q with
  | .tamper i =>
    let s := s.onTamper fun t => t.onInput i fun x => { x with mark := .inProgram }
    s.startProgram (.tamper i) (.plain ⟨none, none⟩ (.tamper i (s.tamper.input i).latchTime)) 0
  | .timeMark =>
    let s := s.onTime fun t => { t with timeMark := .inProgram }
    s.startProgram .timeMark (.plain ⟨none, none⟩ (.time none)) 0
  | .counter h =>
    match (s.entry h).flight with
    | none => s
    | some f =>
      let s := s.onEntry h fun e => { e with counterPending := none, counterFlight := some f }
      s.startProgram (.counter h) (.plain ⟨none, none⟩ (.counter h f.gen f.ceiling f.floor)) 0
  | .owned r p => s.startProgram r p 0

/-! ## The effect of a durable row -/

/-- TT and D after a TIMESET's mark (R146). -/
def TimeBase.timeset (t : TimeBase) (offered : Nat) : TimeBase :=
  { t with tt := if t.tt < offered then min offered ttMax else t.tt, drift := t.stepMax }

/-- A named latch at the completion of an UNLOCK record (R154). -/
def TamperState.unlock (t : TamperState) : TamperState :=
  if t.latched = true ∧ t.mark = .none then { t with latched := false, debounceCount := 0 } else t

/-- An authority as an AUTHORITY package's record redefines it (R121). -/
def Authority.redefine (a : Authority) (r : AuthorityRecord) : Authority :=
  { a with defined := r.defined, commandHandle := r.commandHandle, transportHandle := r.transportHandle
           timesetRight := r.timesetRight, unlockRight := r.unlockRight, failCount := 0, lockUntil := 0 }

/-- A tamper input under a new setup (R155). -/
def TamperState.install (t : TamperState) (x : TamperSetup) : TamperState := { t with setup := x, debounceCount := 0 }

/-- The effect of a package's durable record (R101 to R108, R121 to R124). -/
def State.applyPackageRecord (s : State) (loc : Location) (stamp : Nat) (r : Record) : State :=
  let tt := s.time.tt
  match r with
  | .key h gen k =>
    match k.state with
    | .staged issuedAt signLimit deadline authority =>
      s.onEntry h fun e => e.applyStaged tt gen loc k issuedAt signLimit deadline authority
    | .active issuedAt signLimit txCeiling rxFloor grace =>
      (s.onEntry h fun e =>
        e.applyActive tt stamp gen loc k issuedAt signLimit txCeiling rxFloor (grace.getD 0)).staleCounters h
    | .retiring _ => s
  | .confirm h gen grace txCeiling =>
    let took := ((s.entry h).confirmable stamp gen).isSome
    let s := s.onEntry h fun e => e.applyConfirm tt stamp gen grace txCeiling
    if took then s.staleCounters h else s
  | .cancel h gen => s.onEntry h fun e => e.applyCancel tt gen
  | .release h _ => s.onEntry h fun e => e.applyRelease tt
  | .revoke h _ highest role => ((s.onEntry h fun e => e.applyRevoke highest role).revokeWipes h).staleCounters h
  | .authority k x => s.onAuthority k fun a => a.redefine x
  | .custody map => s.onCustody fun c => { c with map := map }
  | .setup cover field final =>
    if final then s.onCustody fun c => { c with final := true }
    else s.onTamper fun t => ⟨t.cover.install cover, t.field.install field⟩
  | .unlock cover field =>
    s.onTamper fun t =>
      ⟨if cover then t.cover.unlock else t.cover, if field then t.field.unlock else t.field⟩
  | .time (some offered) => s.onTime fun t => t.timeset offered
  | .time none | .counter _ _ _ _ | .tamper _ _ | .reclaim _ _ => s

/-- The authority of a durable package record takes its counter and tag (R100, R113). -/
def State.acceptPackage (s : State) (header : RowHeader) : State :=
  match header.authority, header.package with
  | some k, some (c, t) => s.onAuthority k fun a => { a with accepted := c, lastTag := some t }
  | _, _ => s

/-- A CONFIRM mark takes no effect: no staged record of its generation has a deadline above its stamp (R103). -/
def State.lateConfirm (s : State) (d : RowData) : Bool :=
  match d.record with
  | .confirm h gen _ _ => ((s.entry h).confirmable d.stamp gen).isNone
  | _ => false

/-- A lane job whose record is durable completes: OK with its results, or NOT_STAGED for a late CONFIRM (R100, R103). -/
def State.completePackage (s : State) (j : JobId) (late : Bool) : State :=
  match s.job j with
  | none => s
  | some x => if late then s.finishJob j .notStaged [] else s.finishJob j .ok (pkgResults x.input)

/-- A CHECK whose confirm by use is durable completes OK, with CONFIRMED_BY_USE if the mark took effect (R87). -/
def State.completeConfirm (s : State) (j : JobId) (late : Bool) : State :=
  match s.job j with
  | none => s
  | some x => (if late then s else s.addNotes j noteConfirmedByUse).finishUse j .ok [x.gen]

/-- The in-flight counter write of a handle completes: applied if its generation is still current, its part emptied, the
waiting jobs released, the reservation check made (R67). -/
def State.completeCounter (s : State) (h : HandleNo) (r : Record) : State :=
  let s := s.onEntry h fun e =>
    match r with
    | .counter _ gen ceiling floor => { e.applyCounter gen ceiling floor with counterFlight := none }
    | _ => { e with counterFlight := none }
  (s.releaseCounterWaiters h).reservationCheck h

/-- The RECLAIM mark of bank `b` is durable: the tail is ERASING and the reclaim enters ERASE; in RESERVE, or where a warm
reset has abandoned the COPY, the tail is NEEDS_ERASE and the reclaim ends (R137, R138, R140; log entry 15). -/
def State.completeReclaimMark (s : State) (b : BankNo) : State :=
  match s.store.reclaim, s.supply.power with
  | some ⟨_, _, false⟩, .mains =>
    s.onStore fun t => { t with banks := t.banks.set b .erasing, reclaim := some ⟨b, .erase, false⟩ }
  | _, _ => s.onStore fun t => { t with banks := t.banks.set b .needsErase, reclaim := none }

/-- The requester's effect of a durable row at `loc`, and the completion of the job that asked (R130). -/
def State.applyDurable (s : State) (r : Requester) (loc : Location) (d : RowData) : State :=
  match r with
  | .package job =>
    let late := s.lateConfirm d
    let s := (s.applyPackageRecord loc d.stamp d.record).acceptPackage d.header
    match job with
    | some j => s.completePackage j late
    | none => s.dropOrphan d.record.handle?
  | .confirmByUse job =>
    let late := s.lateConfirm d
    let s := s.applyPackageRecord loc d.stamp d.record
    match job with
    | some j => s.completeConfirm j late
    | none => s.dropOrphan d.record.handle?
  | .lock (some j) => (s.addNotes j noteAuthNowLocked).finishJob j .tagBad []
  | .lock none => s
  | .counter h => s.completeCounter h d.record
  | .tamper i => s.onTamper fun t => t.onInput i fun x => { x with mark := .none }
  | .timeMark => s.onTime fun t => { t with timeMark := .none }
  | .foldKey h gen => s.onEntry h fun e => e.moveLocation gen loc
  | .foldRevoke _ => s.applyPackageRecord loc d.stamp d.record
  | .copyAsIs | .rewrite _ => s
  | .reclaimMark b => s.completeReclaimMark b

end Sys2Proof.Machine
end

