-- ==== Sys2Proof/Machine/CopyOps.lean ====
section
/-!
DEFINITION. The COPY of a reclaim: the judgement of the tail's rows at their turn, the rows it readies, and their
content at the start of their programs (R134 to R137).
-/

namespace Sys2Proof.Machine

open Sys2Proof

/-- The walk at the start of a COPY (R133, R134). -/
def CopyWalk.start : CopyWalk := ⟨0, [], 0, [], 0, .idle⟩

/-- The walk once handle `h`'s fold has begun: its generations, or a REVOKE mark if none is present (R134). -/
def CopyWalk.beginFold (w : CopyWalk) (h : HandleNo) (gens : List Nat) : CopyWalk :=
  match gens with
  | [] => { w with folded := h :: w.folded, stage := .ready (.foldRevoke h) }
  | _ => { w with folded := h :: w.folded, foldHandle := h, foldGens := gens }

/-- One move of an idle COPY: the next generation of the fold in hand, the next row of the tail, the next authority, or
the RECLAIM mark (R134, R136, R137). -/
def State.copyMove (s : State) (rows : List PlacedRow) (tail : BankNo) (w : CopyWalk) : CopyWalk :=
  match w.foldGens with
  | g :: rest => { w with foldGens := rest, stage := .reading w.foldHandle g none }
  | [] =>
    if w.nextRow < 64 then
      let w' := { w with nextRow := w.nextRow + 1 }
      match rows.find? fun r => r.1 = ⟨tail, Fin.ofNat 64 w.nextRow⟩ with
      | none => w'
      | some r =>
        match s.rowTurn rows w.folded r with
        | .nothing => w'
        | .copy d => { w' with stage := .ready (.asIs d) }
        | .fold h => w'.beginFold h ((s.entry h).presentGens s.time.tt)
    else if h : w.nextAuthority < 6 then
      let w' := { w with nextAuthority := w.nextAuthority + 1 }
      if needsRewrite rows tail ⟨w.nextAuthority, h⟩ then { w' with stage := .ready (.rewrite ⟨w.nextAuthority, h⟩) }
      else w'
    else { w with stage := .ready .reclaimMark }

/-- An idle COPY's walk moved on until a row is readied or a read is asked for; a walk has fewer than 80 moves. -/
def State.copyWalkOn (s : State) (rows : List PlacedRow) (tail : BankNo) : Nat → CopyWalk → CopyWalk
  | 0, w => w
  | fuel + 1, w => if w.stage = .idle then s.copyWalkOn rows tail fuel (s.copyMove rows tail w) else w

/-- The COPY goes on, if one is in progress, idle, and the program circuit is free: its next row is readied or its next
read is asked for (R134, R135). -/
def State.copyAdvance (s : State) : State :=
  match s.store.reclaim with
  | some ⟨tail, .copy w, false⟩ =>
    if s.store.circuitFree && !s.store.fault && w.stage = .idle then
      let w' := s.copyWalkOn (countedRows s.store.array) tail 80 w
      (s.onStore fun t => { t with reclaim := some ⟨tail, .copy w', false⟩ }).foldReadStart
    else s
  | _ => s

/-- A COPY that a warm reset has abandoned ends once no program is in flight (R140). -/
def Store.dropAbandoned (t : Store) : Store :=
  if t.circuitFree && t.reclaim.any (·.abandoned) then { t with reclaim := none } else t

/-- The KEY record of a fold: generation `g` of an entry as the directory holds it now, with its material (R134). -/
def HandleEntry.foldRecord (e : HandleEntry) (g : Nat) (material : List Byte) : Option KeyRecord :=
  let make := fun (p : Policy) (expiry : Nat) (st : KeyState) =>
    ({ material := material, role := e.role.getD .wanFrame, policy := p, expiry := expiry, state := st
       highestGen := e.highestGen } : KeyRecord)
  match e.current.filter fun c => c.gen = g, e.staged.filter fun c => c.gen = g,
      e.retiring.filter fun c => c.gen = g with
  | some c, _, _ => some (make c.policy c.expiry (.active c.issuedAt c.signLimit c.txCeiling c.rxFloor none))
  | _, some c, _ => some (make c.policy c.expiry (.staged c.issuedAt c.signLimit c.deadline c.authority))
  | _, _, some c => some (make c.policy c.expiry (.retiring c.graceEnd))
  | none, none, none => none

/-- What a readied COPY row writes, as the state stands at its program's start (R134 to R137). A fold's REVOKE mark names
generation 0 in its header (log entry 41). -/
def State.copyContent (s : State) (tail : BankNo) (r : CopyRow) : Option (Requester × Payload) :=
  match r with
  | .foldKey h g material =>
    ((s.entry h).foldRecord g material).map fun k => (.foldKey h g, .plain ⟨none, none⟩ (.key h g k))
  | .foldRevoke h =>
    some (.foldRevoke h, .plain ⟨none, none⟩ (.revoke h 0 (s.entry h).highestGen (s.entry h).role))
  | .asIs d => some (.copyAsIs, .copy d)
  | .rewrite k => some (.rewrite k, .plain ⟨some k, none⟩ (.authority k (s.authority k).record))
  | .reclaimMark =>
    some (.reclaimMark tail, .plain ⟨none, none⟩ (.reclaim tail (highestSeqOf s.store.array tail)))

/-- The requester is a row of a COPY other than its RECLAIM mark. -/
def Requester.copyRow : Requester → Bool
  | .foldKey _ _ | .foldRevoke _ | .copyAsIs | .rewrite _ => true
  | _ => false

end Sys2Proof.Machine
end

