-- ==== Sys2Proof/Machine/StoreEvents.lean ====
section
/-!
DEFINITION. The events of the record store: APPEND_START, RETRY_START, APPEND_COMPLETION, APPEND_ABANDONMENT,
RECLAIM_START, COPY_ROW_START, FOLD_READ_END, ERASE_START and ERASE_COMPLETION (chapter 8).
-/

namespace Sys2Proof.Machine

open Sys2Proof

/-! ## Appends -/

/-- The pump window permits a start (R129). -/
def State.windowOpen (s : State) : Bool := decide (0 < s.startsPermitted)

/-- APPEND_START: the first queued append whose condition is met starts; at the last seq the store enters FAULT instead
(R126, R132). -/
def execAppendStart (s : State) : Host.Outcome State Fault Refusal :=
  .next (if s.appendReady && s.windowOpen then
    match s.nextAppend with
    | none => s
    | some q => if s.store.nextSeq = seqEnd then s.enterFault.settle else s.startQueued q
  else s)

/-- RETRY_START: the abandoned record is programmed again; with 12 or fewer erased rows, or at the last seq, the store
enters FAULT instead (R126, R130, R132). -/
def execRetryStart (s : State) : Host.Outcome State Fault Refusal :=
  .next (if s.retryReady then
    match s.store.retry with
    | none => s
    | some r =>
      if s.store.erasedRows ≤ 12 ∨ s.store.nextSeq = seqEnd then s.enterFault.settle
      else if s.windowOpen then
        (s.onStore fun t => { t with retry := none }).startProgram r.requester r.payload r.failures
      else s
  else s)

/-- The COPY's row in program has become durable, so that the COPY is idle (R135). -/
def State.copyRowDone (s : State) (r : Requester) : State :=
  if r.copyRow then s.onStore fun t => t.setCopyStage .idle else s

/-- APPEND_COMPLETION: the row is durable, the last recorded stamp is raised, the requester's effect is applied, and what
waited goes on (R130, R147). -/
def execAppendCompletion (s : State) : Host.Outcome State Fault Refusal :=
  .next (match s.store.program with
    | none => s
    | some p =>
      let s := s.endProgram p.location (.valid p.data)
      let s := s.onTime fun t => { t with lastStamp := max t.lastStamp p.data.stamp }
      let s := (s.applyDurable p.requester p.location p.data).copyRowDone p.requester
      ((s.onStore Store.dropAbandoned).settle).copyAdvance)

/-- APPEND_ABANDONMENT: the row is abandoned; its record waits for a retry, or at its third abandonment is refused as the
store enters FAULT (R130, R131). -/
def execAppendAbandonment (s : State) : Host.Outcome State Fault Refusal :=
  .next (match s.store.program with
    | none => s
    | some p =>
      if p.failures + 1 < 3 then
        (s.endProgram p.location .torn).onStore fun t => { t with retry := some ⟨p.requester, p.payload, p.failures + 1⟩ }
      else s.enterFault.settle)

/-! ## Reclaim -/

/-- The conditions of a reclaim's start (R133). -/
def State.reclaimDue (s : State) : Bool :=
  s.storeRuns && decide (s.store.erasedRows ≤ 95) && s.supply.power = .mains && !s.store.fault &&
    s.store.reclaim.isNone && s.store.countBanks .needsErase = 0 && s.store.countBanks .erasing = 0

/-- RECLAIM_START: the reclaim fixes its tail and enters COPY (R133). -/
def execReclaimStart (s : State) : Host.Outcome State Fault Refusal :=
  .next (if s.reclaimDue then
    match s.store.tailBank with
    | none => s
    | some b => (s.onStore fun t => { t with reclaim := some ⟨b, .copy CopyWalk.start, false⟩ }).copyAdvance
  else s)

/-- A readied COPY row starts its program (R134). -/
def State.startCopyRow (s : State) (tail : BankNo) (r : CopyRow) : State :=
  match s.copyContent tail r with
  | none => (s.onStore fun t => t.setCopyStage .idle).copyAdvance
  | some (q, p) => (s.onStore fun t => t.setCopyStage .running).startProgram q p 0

/-- COPY_ROW_START: the COPY's readied row starts; with 12 or fewer erased rows, or at the last seq, the store enters
FAULT instead (R126, R132, R134). -/
def execCopyRowStart (s : State) : Host.Outcome State Fault Refusal :=
  .next (if s.copyRowReady then
    match s.store.copyRow, s.store.reclaim with
    | some r, some c =>
      if s.store.erasedRows ≤ 12 ∨ s.store.nextSeq = seqEnd then s.enterFault.settle
      else if s.windowOpen then s.startCopyRow c.tail r
      else s
    | _, _ => s
  else s)

/-- FOLD_READ_END: the fold row is readied, or the store enters FAULT (R131, R134). -/
def execFoldReadEnd (crcOk : Bool) (s : State) : Host.Outcome State Fault Refusal :=
  .next (match s.store.copyStage with
    | some (.reading h g (some l)) =>
      match keyRowFor (rowAt s.store.array l) crcOk h g with
      | some k => s.onStore fun t => t.setCopyStage (.ready (.foldKey h g k.material))
      | none => s.enterFault.settle
    | _ => s)

/-! ## Erases -/

/-- ERASE_START: the erase starts, unless its bank is being read, or the window permits one start and a program waits for
it (R128, R129, R137, R139). -/
def execEraseStart (s : State) : Host.Outcome State Fault Refusal :=
  .next (match s.eraseBank with
    | none => s
    | some b =>
      if s.storeRuns && !s.store.fault && s.store.erase.isNone && !s.readInFlight b && s.windowOpen &&
          !(s.programReady && s.startsPermitted = 1) then
        s.onStore fun t => { t with erase := some b, history := pushStart t.history s.time.milli }
      else s)

/-- The reclaim is in its ERASE phase with bank `b` as its tail. -/
def Store.reclaimErases (t : Store) (b : BankNo) : Bool :=
  match t.reclaim with
  | some ⟨x, .erase, _⟩ => x == b
  | _ => false

/-- The erase of bank `b` passed its blank check (R137, R139). -/
def State.erasePassed (s : State) (b : BankNo) : State :=
  let mine := s.store.reclaimErases b
  let s := s.onStore fun t =>
    { t with banks := t.banks.set b .erased, reclaim := if mine then none else t.reclaim }
  let s := if mine then
    s.onPort fun p => { p with figures := { p.figures with reclaimsCompleted := bump32 p.figures.reclaimsCompleted } }
    else s
  s.refreshFigures

/-- The erase of bank `b` failed its blank check (R131, R137, R139). -/
def State.eraseFailed (s : State) (b : BankNo) : State :=
  let s := s.onStore fun t =>
    { t with banks := t.banks.set b .needsErase, reclaim := if t.reclaimErases b then none else t.reclaim }
  s.refreshFigures.enterFault.settle

/-- ERASE_COMPLETION: the erase ends, leaving `residue`, with its blank check (R137, R139). -/
def execEraseCompletion (residue : List RowResidue) (s : State) : Host.Outcome State Fault Refusal :=
  .next (match s.store.erase with
    | none => s
    | some b =>
      let s := s.onStore fun t =>
        { t with array := eraseRows t.array b fun n => residue.getD n .blank, erase := none }
      if s.store.array[b].toList.all (fun r => !r.written) then s.erasePassed b else s.eraseFailed b)

end Sys2Proof.Machine
end

