-- ==== Sys2Proof/Machine/Monitors.lean ====
section
/-!
DEFINITION. The time base, the tamper monitor and the supply monitor: TIME_BASE_MILLI_TICK, TIME_BASE_SECOND,
DRIFT_CREDIT_ACCRUAL, TIME_MARK_DUE, TAMPER_LATCH, POWER_STATE_CHANGE, INITIAL_POWER_STATE, STANDBY_ENTRY and
STANDBY_WAKE (chapters 9 and 10).
-/

namespace Sys2Proof.Machine

open Sys2Proof

/-! ## The milli-tick -/

/-- The time base after a milli-tick: 1024 of them make a second, which then is due (R142). -/
def TimeBase.tick (t : TimeBase) : TimeBase :=
  if t.prescaler + 1 < 1024 then { t with milli := t.milli + 1, prescaler := t.prescaler + 1 }
  else { t with milli := t.milli + 1, prescaler := 0, secondsDue := t.secondsDue + 1 }

/-- An input after a sample of its level; a disabled input is not sampled and its count is 0 (R151). -/
def TamperState.sample (t : TamperState) (level : Bool) : TamperState :=
  if t.setup.enabled then
    { t with level := some level
             debounceCount := if level = t.setup.activeHigh then min (t.debounceCount + 1) 255 else 0 }
  else { t with level := none, debounceCount := 0 }

/-- The sampled level of an enabled input changes with this sample (R160). -/
def TamperState.changes (t : TamperState) (level : Bool) : Bool :=
  t.setup.enabled && t.level.any fun l => l != level

/-- PFAIL_N at this level agrees with the power state: high means MAINS (R157). -/
def Power.agrees : Power → Bool → Bool
  | .mains, pfail => pfail
  | .reserve, pfail => !pfail

/-- The supply monitor after a sample of PFAIL_N: the first four after power-on are collected, and from the next sample
on those that differ from the power state are counted, holding at 4 (R157, R158). -/
def Supply.sample (p : Supply) (pfail : Bool) : Supply :=
  let p := { p with pfailLevel := some pfail }
  if p.powerSet then { p with disagree := if p.power.agrees pfail then 0 else min (p.disagree + 1) 4 }
  else if p.firstSamples.length < 4 then { p with firstSamples := p.firstSamples ++ [pfail] }
  else p

/-- Nothing keeps the part awake (R159, R141). An abandoned record that waits for its retry does (log entry 43). -/
def State.quiet (s : State) : Bool :=
  s.port.standbyOk && !s.resetCtl.warmReset && !(s.port.arrival.any s.takable) &&
    allJobs.all (fun j => (s.job j).isNone) && s.store.circuitFree && s.store.erase.isNone &&
    !(s.store.queue.any s.appendCondition) && s.store.reclaim.isNone && !s.eraseReady

/-- The other power state. -/
def Power.other : Power → Power
  | .mains => .reserve
  | .reserve => .mains

/-- The power state that the first four samples set (R158). -/
def Supply.firstPower (p : Supply) : Power := if p.firstSamples.all (!·) then .reserve else .mains

/-- The power state that the samples taken so far make due (R157, R158). -/
def Supply.powerDue (p : Supply) : Power :=
  if 4 ≤ p.disagree then p.power.other
  else if p.powerSet = false ∧ p.firstSamples.length = 4 then p.firstPower
  else p.power

/-- The standby count after a milli-tick: it rises while the part is READY, ACTIVE and quiet, holding at 64. It is judged
with the power state that the milli-tick's sample makes due (R159 and the supply episode of section 10.6); an erase that the
change to RESERVE is about to abandon still counts as in flight (log entry 44). -/
def State.nextStandbyCount (s : State) (pfail : Bool) : Nat :=
  let judged := s.onSupply fun p => { p with power := (p.sample pfail).powerDue }
  if s.resetCtl.part = .ready ∧ s.supply.activity = .active ∧ judged.quiet = true then
    min (s.supply.standbyCount + 1) 64
  else 0

/-- A sampled level has changed in standby (R160). A change at the milli-tick whose count reaches 64 comes before the entry
and does not wake (log entry 48). -/
def State.levelChanges (s : State) (cover field pfail : Bool) : Bool :=
  s.supply.activity = .standby &&
    (s.tamper.cover.changes cover || s.tamper.field.changes field || s.supply.pfailLevel.any (· != pfail))

/-- TIME_BASE_MILLI_TICK (R142, R151, R157, R159). -/
def execTimeBaseMilliTick (cover field pfail : Bool) (s : State) : Host.Outcome State Fault Refusal :=
  let count := s.nextStandbyCount pfail
  let changed := s.levelChanges cover field pfail
  let t := s.onTime TimeBase.tick
  let t := if s.resetCtl.part = .ready then
      t.onTamper fun m => ⟨m.cover.sample cover, m.field.sample field⟩
    else t
  .next (t.onSupply fun p =>
    { p.sample pfail with standbyCount := count, levelChanged := p.levelChanged || changed })

/-! ## Seconds and trusted time -/

/-- An idle timer after a second: it counts while its slot is OPEN, holding at 3600 (R49). -/
def Slot.second (t : Slot) : Slot :=
  match t.state with
  | .opened _ _ _ _ => { t with idle := min (t.idle + 1) 3600 }
  | _ => t

/-- Trusted time and the sub-count after a second in READY (R143, R144). -/
def TimeBase.second (t : TimeBase) : TimeBase :=
  if t.subCount + 1 < 64 then { t with tt := min (t.tt + 1) ttMax, subCount := t.subCount + 1 }
  else { t with tt := min (t.tt + 1) ttMax, subCount := 0, creditsDue := t.creditsDue + 1 }

/-- TIME_BASE_SECOND: a second that has come is handed to the idle timers and, in READY, to TT and the sub-count (R49,
R142 to R144). -/
def execTimeBaseSecond (s : State) : Host.Outcome State Fault Refusal :=
  .next (if 0 < s.time.secondsDue then
    let s := s.onSlots fun t => { t with host := mapVector Slot.second t.host }
    s.onTime fun t =>
      let t := { t with secondsDue := t.secondsDue - 1 }
      if s.resetCtl.part = .ready then t.second else t
  else s)

/-- DRIFT_CREDIT_ACCRUAL: for a sub-count wrap that has come, D becomes min(D + 1, step_max) (R144). -/
def execDriftCreditAccrual (s : State) : Host.Outcome State Fault Refusal :=
  .next (if 0 < s.time.creditsDue then
    s.onTime fun t => { t with creditsDue := t.creditsDue - 1, drift := min (t.drift + 1) t.stepMax }
  else s)

/-- A TIME mark falls due (R147). -/
def State.timeMarkDue (s : State) : Bool :=
  s.resetCtl.part = .ready && decide (s.time.lastStamp + 21600 ≤ s.time.tt) && s.time.timeMark = .none

/-- TIME_MARK_DUE: the time base asks for a TIME mark (R147). -/
def execTimeMarkDue (s : State) : Host.Outcome State Fault Refusal :=
  .next (if s.timeMarkDue then (s.onTime fun t => { t with timeMark := .waiting }).askAppend .timeMark else s)

/-! ## Tamper -/

/-- The latch of an input is to set: its count has reached its debounce value and the latch is clear (R151). -/
def State.latchDue (s : State) (i : TamperInput) : Bool :=
  let x := s.tamper.input i
  s.resetCtl.part = .ready && x.setup.enabled && !x.latched && decide (x.setup.debounce ≤ x.debounceCount)

/-- An input whose latch sets at `tt`, with its TAMPER mark asked for (R152, R153). -/
def TamperState.latch (x : TamperState) (tt : Nat) : TamperState :=
  { x with latched := true, latchTime := tt, mark := .waiting }

/-- TAMPER_LATCH: the latch sets, TAMPER_LOCK keys are wiped, the TAMPER mark is asked for, and ALERT.TAMPER is set
(R51, R152, R153). -/
def execTamperLatch (input : TamperInput) (s : State) : Host.Outcome State Fault Refusal :=
  .next (if s.latchDue input then
    let s := s.onTamper fun t => t.onInput input fun x => x.latch s.time.tt
    ((s.latchWipes.askAppend (.tamper input)).raise alertTamper).settle
  else s)

/-! ## Supply and standby -/

/-- The power state is set to `p`, and the count of samples returns to 0; where MAINS becomes RESERVE, erases are abandoned
(R138, R157, R158). -/
def State.setPower (s : State) (p : Power) : State :=
  let t := s.onSupply fun u => { u with power := p, disagree := 0 }
  if s.supply.power = .mains ∧ p = .reserve then t.abandonErases else t

/-- POWER_STATE_CHANGE: on four consecutive samples that disagree the power state changes; in READY ALERT.SUPPLY is set
(R138, R157). -/
def execPowerStateChange (s : State) : Host.Outcome State Fault Refusal :=
  .next (if 4 ≤ s.supply.disagree then
    (if s.resetCtl.part = .ready then s.raise alertSupply else s).setPower s.supply.power.other
  else s)

/-- INITIAL_POWER_STATE: the first four samples set the power state and RESERVE_AT_RESET, without an alert (R138, R158). -/
def execInitialPowerState (s : State) : Host.Outcome State Fault Refusal :=
  .next (if s.supply.powerSet = false ∧ s.supply.firstSamples.length = 4 then
    let first := s.supply.firstPower
    ((s.onSupply fun p => { p with powerSet := true }).setPower first).onReset fun r =>
      { r with reserveAtReset := first = .reserve }
  else s)

/-- STANDBY_ENTRY: the standby count has reached 64 and nothing keeps the part awake (R159; log entry 29). A level that changed
at the milli-tick which brought the count to 64 does not wake the part (log entry 48). -/
def execStandbyEntry (s : State) : Host.Outcome State Fault Refusal :=
  .next (if s.resetCtl.part = .ready ∧ s.supply.activity = .active ∧ s.quiet = true ∧ 64 ≤ s.supply.standbyCount then
    s.onSupply fun p => { p with activity := .standby, standbyCount := 0, levelChanged := false }
  else s)

/-- STANDBY_WAKE: a change of sampled level has woken the part (R160). -/
def execStandbyWake (s : State) : Host.Outcome State Fault Refusal :=
  .next (if s.supply.levelChanged then s.wake else s)

end Sys2Proof.Machine
end

