-- ==== Sys2Proof/Machine/Scan.lean ====
section
/-!
DEFINITION. SCAN_END: the end of the cold-start scan, from the classified rows of the store to the rebuilt state at READY
(section 11.3; R162 to R168, R70, R111 to R113, R156).
-/

namespace Sys2Proof.Machine

open Sys2Proof

/-! ## Replay -/

/-- The effect in replay of a row on the entry of its handle, presence judged by the row's stamp (R166). -/
def HandleEntry.replay (e : HandleEntry) (loc : Location) (d : RowData) : HandleEntry :=
  match d.record with
  | .key _ gen k =>
    match d.header.authority, k.state with
    | none, _ => e.applyFold d.stamp gen loc k
    | some _, .staged issuedAt signLimit deadline authority =>
      e.applyStaged d.stamp gen loc k issuedAt signLimit deadline authority
    | some _, .active issuedAt signLimit txCeiling rxFloor grace =>
      e.applyActive d.stamp d.stamp gen loc k issuedAt signLimit txCeiling rxFloor (grace.getD 0)
    | some _, .retiring _ => e
  | .confirm _ gen grace txCeiling => e.applyConfirm d.stamp d.stamp gen grace txCeiling
  | .cancel _ gen => e.applyCancel d.stamp gen
  | .release _ _ => e.applyRelease d.stamp
  | .revoke _ _ highest role => e.applyRevoke highest role
  | .counter _ gen ceiling floor => e.applyCounter gen ceiling floor
  | _ => e

/-- An authority's counter and tag raised to a larger pair that a row carries (R113). -/
def Authority.raiseCounter (a : Authority) (x : Nat × Option Tag) : Authority :=
  if a.accepted < x.1 then { a with accepted := x.1, lastTag := x.2 }
  else if a.accepted = x.1 then { a with lastTag := x.2.or a.lastTag }
  else a

/-- The effect in replay of a row on authority `k`: its definition and lock_until, and its largest counter (R112, R113,
R116). -/
def Authority.replay (a : Authority) (k : AuthNo) (d : RowData) : Authority :=
  let a := match d.record with
    | .authority x r =>
      if x = k then
        { a with defined := r.defined, commandHandle := r.commandHandle, transportHandle := r.transportHandle
                 timesetRight := r.timesetRight, unlockRight := r.unlockRight, lockUntil := r.lockUntil }
      else a
    | _ => a
  (d.countersFor k).foldl Authority.raiseCounter a

/-- The effect in replay of a row on the latch of an input (R156). -/
def TamperState.replay (t : TamperState) (i : TamperInput) (r : Record) : TamperState :=
  match r with
  | .tamper x time => if x = i then { t with latched := true, latchTime := time } else t
  | _ => if r.unlocks i then { t with latched := false } else t

/-- The effect of a counted row in replay (R166, R167). -/
def State.replayRow (s : State) (r : PlacedRow) : State :=
  let d := r.2
  let s := match d.record.handle? with
    | some h => s.onEntry h fun e => e.replay r.1 d
    | none => s
  let s := allAuthorities.foldl (fun s k => s.onAuthority k fun a => a.replay k d) s
  let s := s.onTamper fun t => ⟨t.cover.replay .cover d.record, t.field.replay .field d.record⟩
  match d.record with
  | .custody map => s.onCustody fun c => { c with map := map }
  | .setup cover field final =>
    (s.onCustody fun c => { c with final := final }).onTamper fun t =>
      ⟨{ t.cover with setup := cover }, { t.field with setup := field }⟩
  | _ => s

/-! ## Bank states -/

/-- The counted row of highest seq (R168). -/
def newestRow (rows : List PlacedRow) : Option PlacedRow :=
  match maxOf (rows.map fun r => r.2.seq) with
  | none => none
  | some n => rows.find? fun r => r.2.seq = n

/-- The number of rows of a bank up to its last that is not blank (R168). -/
def writtenExtent (bank : Vector Row 64) : Nat :=
  (bank.toList.zipIdx).foldl (fun n (r, i) => if r.written then i + 1 else n) 0

/-- The state of a bank by its classes and counted rows, `newest` being the bank of the counted row of highest seq
(R168). -/
def scanBankState (a : RowArray) (rows : List PlacedRow) (newest : Option BankNo) (b : BankNo) : BankState :=
  if a[b].toList.all (fun r => !r.written) then .erased
  else if newest = some b then .head
  else if rows.any (fun r => r.1.bank = b) then .full
  else .needsErase

/-- The bank states before the HEAD is settled (R168). -/
def scanBanks (a : RowArray) (rows : List PlacedRow) (newest : Option BankNo) : Vector BankState 8 :=
  let f := scanBankState a rows newest
  ⟨#[f 0, f 1, f 2, f 3, f 4, f 5, f 6, f 7], rfl⟩

/-- The store with the first ERASED bank of a list as its HEAD at row 0; without one it has no HEAD to append to (R168). -/
def Store.headFrom (t : Store) (order : List BankNo) (old : BankNo) : Store :=
  match order.find? fun b => t.banks[b] = .erased with
  | some b => { t with banks := t.banks.set b .head, headBank := b, appendPos := 0 }
  | none => { t with headBank := old, appendPos := 64, fault := true }

/-- The banks, the HEAD and the append position as the scan sets them; no ERASED bank for a HEAD that is needed puts the
store into FAULT (R168). -/
def Store.scanHead (t : Store) (rows : List PlacedRow) : Store :=
  match newestRow rows with
  | none => ({ t with banks := scanBanks t.array rows none }).headFrom [0, 1, 2, 3, 4, 5, 6, 7] 0
  | some r =>
    let b := r.1.bank
    let t : Store :=
      { t with banks := scanBanks t.array rows (some b), headBank := b, appendPos := writtenExtent t.array[b] }
    if t.appendPos < 64 then t else ({ t with banks := t.banks.set b .full }).headFrom (banksAfter b) b

/-- The next seq that the scan fixes: one more than the highest of any VALID row (R165). -/
def scanNextSeq (a : RowArray) : Nat :=
  match maxOf ((validRows a).map fun r => r.2.seq) with
  | none => 0
  | some n => n + 1

/-- The trusted time that the scan restores: the largest stamp of any counted row (R165). -/
def scanTime (rows : List PlacedRow) : Nat := (maxOf (rows.map fun r => r.2.stamp)).getD 0

/-- The TORN rows in banks that the scan leaves HEAD or FULL (R163). -/
def Store.tornCount (t : Store) : Nat :=
  (allBanks.map fun b =>
    if t.banks[b] = .head ∨ t.banks[b] = .full then (t.array[b].toList.filter fun r => r = .torn).length else 0).sum

/-- The store as the scan leaves it (R126, R165, R168). -/
def Store.scanned (t : Store) (rows : List PlacedRow) : Store :=
  let t := t.scanHead rows
  let n := scanNextSeq t.array
  { t with nextSeq := n, fault := t.fault || decide (n = seqEnd) }

/-! ## The end of the scan -/

/-- The state that the scan rebuilds, before READY (R163 to R168, R70, R112). Seconds that came during the scan are not
added to TT (R143). -/
def State.rebuilt (s : State) : State :=
  let rows := sortBySeq (countedRows s.store.array)
  let s := rows.foldl State.replayRow s
  let s := { s with directory := mapVector HandleEntry.restarted s.directory }
  let s := s.onStore fun t => t.scanned rows
  s.onTime fun t =>
    { t with tt := scanTime rows, drift := 0, subCount := 0, secondsDue := 0, creditsDue := 0, lastStamp := scanTime rows
             timeMark := .none }

/-- ALERT at READY after a cold start (R8, R21, R131). -/
def State.readyAlert (s : State) : BitVec 16 :=
  alertResetDone ||| (if 0 < s.port.figures.cardFaults then alertCardFault else 0) |||
    (if s.store.fault then alertStoreFault else 0)

/-- The part enters READY: ALERT and the status page show what the scan established (R23, R162). -/
def State.enterReady (s : State) : State :=
  let s := s.onReset fun r => { r with part := .ready }
  let s := s.onPort fun p =>
    { p with alert := s.readyAlert
             figures := { p.figures with nextSeq := s.store.nextSeq, erasedRows := s.store.erasedRows
                                         tornRows := s.store.tornCount } }
  s

/-- SCAN_END: the scan ends and the part enters READY (R162). -/
def execScanEnd (s : State) : Host.Outcome State Fault Refusal :=
  .next (if s.resetCtl.part = .starting then s.rebuilt.enterReady else s)

end Sys2Proof.Machine
end

