-- ==== Sys2Proof/Machine/Dispatch.lean ====
section
/-!
DEFINITION. The dispatch of commands: one arm per row of spec/opcode_table.json, each a call of its meaning.
-/

namespace Sys2Proof.Machine

open Sys2Proof

def exec (i : Instr) (s : State) : Host.Outcome State Fault Refusal :=
  match i with
  | .post card rest => Sys2Proof.Machine.execPost card rest s
  | .withdraw card rest => Sys2Proof.Machine.execWithdraw card rest s
  | .returnCard card rest => Sys2Proof.Machine.execReturnCard card rest s
  | .cardFault card value rest => Sys2Proof.Machine.execCardFault card value rest s
  | .hostMemoryWrite offset bytes => Sys2Proof.Machine.execHostMemoryWrite offset bytes s
  | .controlWrite start bytes => Sys2Proof.Machine.execControlWrite start bytes s
  | .softReset low rest => Sys2Proof.Machine.execSoftReset low rest s
  | .alertClear start bytes => Sys2Proof.Machine.execAlertClear start bytes s
  | .registerWriteDiscarded offset bytes => Sys2Proof.Machine.execRegisterWriteDiscarded offset bytes s
  | .takeOpen => Sys2Proof.Machine.execTakeOpen s
  | .takeClose => Sys2Proof.Machine.execTakeClose s
  | .takeSign => Sys2Proof.Machine.execTakeSign s
  | .takeCheck => Sys2Proof.Machine.execTakeCheck s
  | .takeQuery => Sys2Proof.Machine.execTakeQuery s
  | .takePackage => Sys2Proof.Machine.execTakePackage s
  | .takeTime => Sys2Proof.Machine.execTakeTime s
  | .takeSettings => Sys2Proof.Machine.execTakeSettings s
  | .takeWindows => Sys2Proof.Machine.execTakeWindows s
  | .kindUnknownRefusal => Sys2Proof.Machine.execKindUnknownRefusal s
  | .rowReadStart reader => Sys2Proof.Machine.execRowReadStart reader s
  | .keyRowReadEnd slot crcOk => Sys2Proof.Machine.execKeyRowReadEnd slot crcOk s
  | .slotUnwrapEnd => Sys2Proof.Machine.execSlotUnwrapEnd s
  | .signOperationEnd => Sys2Proof.Machine.execSignOperationEnd s
  | .tagComparisonEnd => Sys2Proof.Machine.execTagComparisonEnd s
  | .decipherEnd => Sys2Proof.Machine.execDecipherEnd s
  | .wipeCompletion slot => Sys2Proof.Machine.execWipeCompletion slot s
  | .idleClose slot => Sys2Proof.Machine.execIdleClose slot s
  | .packageTagCheckEnd => Sys2Proof.Machine.execPackageTagCheckEnd s
  | .stageUnwrapEnd => Sys2Proof.Machine.execStageUnwrapEnd s
  | .appendStart => Sys2Proof.Machine.execAppendStart s
  | .retryStart => Sys2Proof.Machine.execRetryStart s
  | .appendCompletion => Sys2Proof.Machine.execAppendCompletion s
  | .appendAbandonment => Sys2Proof.Machine.execAppendAbandonment s
  | .reclaimStart => Sys2Proof.Machine.execReclaimStart s
  | .copyRowStart => Sys2Proof.Machine.execCopyRowStart s
  | .foldReadEnd crcOk => Sys2Proof.Machine.execFoldReadEnd crcOk s
  | .eraseStart => Sys2Proof.Machine.execEraseStart s
  | .eraseCompletion residue => Sys2Proof.Machine.execEraseCompletion residue s
  | .timeBaseSecond => Sys2Proof.Machine.execTimeBaseSecond s
  | .driftCreditAccrual => Sys2Proof.Machine.execDriftCreditAccrual s
  | .timeMarkDue => Sys2Proof.Machine.execTimeMarkDue s
  | .tamperLatch input => Sys2Proof.Machine.execTamperLatch input s
  | .powerStateChange => Sys2Proof.Machine.execPowerStateChange s
  | .initialPowerState => Sys2Proof.Machine.execInitialPowerState s
  | .standbyEntry => Sys2Proof.Machine.execStandbyEntry s
  | .standbyWake => Sys2Proof.Machine.execStandbyWake s
  | .coldStart cause residue => Sys2Proof.Machine.execColdStart cause residue s
  | .scanEnd => Sys2Proof.Machine.execScanEnd s
  | .rstNLow => Sys2Proof.Machine.execRstNLow s
  | .warmResetEnd rstHigh => Sys2Proof.Machine.execWarmResetEnd rstHigh s
  | .timeBaseMilliTick cover field pfail => Sys2Proof.Machine.execTimeBaseMilliTick cover field pfail s

end Sys2Proof.Machine
end

