-- ==== Sys2Proof/Safety.lean ====
section
/-!
DEFINITION. The laws of the device that the manual states of every moment, as properties of a state, and the conditions
in which statements about single commands are made.
-/

namespace Sys2Proof.Machine

open Sys2Proof

/-! ## The record in hand -/

/-- The record in program, or waiting for its retry, belongs to the requester (R130). -/
def Store.holdsRecordOf (t : Store) (r : Requester) : Prop :=
  (∃ p, t.program = some p ∧ p.requester = r) ∨ ∃ q, t.retry = some q ∧ q.requester = r

/-- The payload of the record in program, or of the one that waits for its retry (R130). -/
def Store.payloadInHand (t : Store) : Option Payload :=
  match t.program with
  | some p => some p.payload
  | none => t.retry.map (·.payload)

/-- The requester's job is `j`. -/
def Requester.isOf (r : Requester) (j : JobId) : Prop :=
  r = .package (some j) ∨ r = .confirmByUse (some j) ∨ r = .lock (some j)

/-! ## Laws of the device -/

/-- R9: the arrival list holds no number twice, and a card is in it exactly when its state is POSTED. -/
def State.ArrivalLaw (s : State) : Prop :=
  s.port.arrival.Nodup ∧ ∀ n : CardNo, n ∈ s.port.arrival ↔ s.port.cards[n] = .posted

/-- R13: bit `n` of the done map is set only while card `n` is DONE. -/
def State.DoneMapLaw (s : State) : Prop :=
  ∀ n : CardNo, s.port.doneMap.getLsbD n.val = true → s.port.cards[n] = .done

/-- R27, R30, R34: a card is TAKEN exactly while a job record holds it, and no two records hold one card. -/
def State.RecordLaw (s : State) : Prop :=
  (∀ n : CardNo, s.port.cards[n] = .taken ↔ ∃ j x, s.job j = some x ∧ x.card = n) ∧
    ∀ j j' x x', s.job j = some x → s.job j' = some x' → x.card = x'.card → j = j'

/-- The laws of the exchange port and of the job records together. -/
def State.ExchangeLaw (s : State) : Prop := s.ArrivalLaw ∧ s.DoneMapLaw ∧ s.RecordLaw

/-- The exchange memory stands in its canonical form, and CONTROL holds settings alone: its other bits read 0 (R19). -/
def State.MemoryLaw (s : State) : Prop :=
  Memory.wf s.port.memory = true ∧ s.port.control &&& ~~~controlMask = 0

/-- R143, R144: TT never exceeds 0FFFFFFFEh, D is within 0 to step_max, the sub-count within 0 to 63. -/
def State.TimeLaw (s : State) : Prop :=
  s.time.tt ≤ ttMax ∧ s.time.drift ≤ s.time.stepMax ∧ s.time.subCount ≤ 63

/-- R51, for the slots that hosts use: no slot is OPEN with key material of a TAMPER_LOCK policy while a tamper latch is
set. -/
def State.TamperLaw (s : State) : Prop :=
  s.anyLatch = true → ∀ (i : Fin 4) (h : HandleNo) (g : Nat) (p : Policy) (k : List Byte),
    (s.slot i).state = .opened h g p k → p.tamperLock = false

/-- What the manual says of the record store at every moment. R125: exactly one bank is HEAD, and the append position is
one of its rows. R132: never fewer than 12 erased rows, and 13 while a program is in flight. R128 to R131, R133, R137: one
record in hand and none in FAULT, an erase on a bank that waits for it, a reclaim with its tail, a queue of packages,
confirms by use, locks and marks. -/
def Store.Law (t : Store) : Prop :=
  (∀ b : BankNo, t.banks[b] = .head ↔ b = t.headBank) ∧ t.appendPos < 64 ∧
  12 ≤ t.erasedRows ∧ (t.program.isSome = true → 13 ≤ t.erasedRows ∧ t.retry = none) ∧
  (t.fault = true → t.program = none ∧ t.retry = none) ∧
  (∀ b, t.erase = some b → t.banks[b] = .erasing ∨ t.banks[b] = .needsErase) ∧
  (∀ c, t.reclaim = some c → t.banks[c.tail] = match c.phase with
    | .copy _ => .full
    | .erase => .erasing) ∧
  (∀ b, t.holdsRecordOf (.reclaimMark b) → t.banks[b] = .full) ∧
  ∀ r p, .owned r p ∈ t.queue → ∃ j, r = .package j ∨ r = .confirmByUse j ∨ r = .lock j

/-- The law of the record store, which holds from READY on. -/
def State.StoreLaw (s : State) : Prop := s.resetCtl.part = .ready → s.store.Law

/-- What the manual says of a directory entry at every moment. R74: tx_next is at most tx_ceiling, which is at most
sign_limit. R57: staged is above current, retiring below it, and never both. R62: no generation is above highest_gen.
R66: the values of counter writes stay within sign_limit, and those in flight belong to no generation still to come. -/
def HandleEntry.Law (e : HandleEntry) : Prop :=
  (∀ c, e.current = some c → c.txNext ≤ c.txCeiling ∧ c.txCeiling ≤ c.signLimit ∧ c.gen ≤ e.highestGen) ∧
  (∀ y, e.staged = some y → y.gen ≤ e.highestGen ∧ e.retiring = none ∧ ∀ c, e.current = some c → c.gen < y.gen) ∧
  (∀ y, e.retiring = some y → ∃ c, e.current = some c ∧ y.gen < c.gen) ∧
  (∀ w n c, e.counterPending = some w → w.ceiling = some n → e.current = some c → n ≤ c.signLimit) ∧
  ∀ f, e.counterFlight = some f → f.gen ≤ e.highestGen ∧ (∀ y, e.staged = some y → f.gen < y.gen) ∧
    ∀ c, e.current = some c → c.gen = f.gen → c.txCeiling ≤ f.ceiling ∧ f.ceiling ≤ c.signLimit

/-- The law of the key directory: that of each entry, and each COUNTER mark in hand carries the values in flight of its
handle (R66). -/
def State.DirectoryLaw (s : State) : Prop :=
  (∀ h, (s.entry h).Law) ∧
  (∀ h, s.store.holdsRecordOf (.counter h) → ∃ f header, (s.entry h).counterFlight = some f ∧
    s.store.payloadInHand = some (.plain header (.counter h f.gen f.ceiling f.floor)) ∧
    ∀ p, s.store.program = some p → p.data.record = .counter h f.gen f.ceiling f.floor) ∧
  (s.store.program.isSome = true → s.store.retry = none) ∧
  ∀ r p, .owned r p ∈ s.store.queue → ∃ j, r = .package j ∨ r = .confirmByUse j ∨ r = .lock j

/-- A record fits the entry of its handle at a time: what the state checks of R98 leave, as R57's law needs it. -/
def Record.Fits (r : Record) (e : HandleEntry) (tt : Nat) : Prop :=
  match r with
  | .key _ g k => e.highestGen < g ∧ g ≤ k.highestGen ∧ (∀ y, e.staged = some y → y.deadline ≤ tt) ∧
    (∀ y, e.retiring = some y → y.graceEnd ≤ tt) ∧
    ∀ issued limit ceiling floor grace, k.state = .active issued limit ceiling floor grace → ceiling ≤ limit
  | .confirm _ g _ ceiling => ∀ y, e.staged = some y → y.gen = g → ceiling ≤ y.signLimit
  | _ => True

/-- The record in program fits its handle's entry, where it is one that a package, a confirm by use or a fold's REVOKE mark
brings into the directory. -/
def State.ProgramFits (s : State) : Prop :=
  ∀ p h, s.store.program = some p → p.data.record.handle? = some h →
    (∃ j, p.requester = .package j ∨ p.requester = .confirmByUse j) ∨ (∃ x, p.requester = .foldRevoke x) →
    p.data.record.Fits (s.entry h) s.time.tt

/-- R163: the stamps that the scan may restore TT from, in the array and in the program in flight. -/
def State.rowStamps (s : State) : List Nat := (validRows s.store.array).map fun r => r.2.stamp

/-! ## Conditions of statements -/

/-- No job is in hand: the records, the lane and the pending lists are empty. -/
def State.NoJob (s : State) : Prop :=
  (∀ j, s.job j = none) ∧ s.engine.lane = none ∧ s.engine.laneWaiting = [] ∧ ∀ i, (s.slot i).list = []

/-- Record `j` holds job `x`, and every other record is free. -/
def State.OnlyJob (s : State) (j : JobId) (x : Job) : Prop := s.job j = some x ∧ ∀ j', j' ≠ j → s.job j' = none

/-- Records `j` and `j'` hold jobs `x` and `y`, and every other record is free. -/
def State.OnlyJobs (s : State) (j : JobId) (x : Job) (j' : JobId) (y : Job) : Prop :=
  j ≠ j' ∧ s.job j = some x ∧ s.job j' = some y ∧ ∀ i, i ≠ j → i ≠ j' → s.job i = none

/-- The pending list of slot `n` is `list`, and no job waits in another slot or for the lane. -/
def State.ListsAre (s : State) (n : Fin 4) (list : List JobId) : Prop :=
  (s.slot n).list = list ∧ (∀ i, i ≠ n → (s.slot i).list = []) ∧ s.engine.laneWaiting = []

/-- Intake takes card `n` next, into record `j`; its kind is `k` and it passes the checks at take (R24 to R28). -/
def State.Takes (s : State) (n : CardNo) (j : JobId) (k : Kind) : Prop :=
  s.nextTake = some (n, j) ∧ kindOfByte (s.kindByte n) = some k ∧ checkAtTake s.port.windows (s.snapshot n k) = none

/-- The cipher core performs `op`, whose result is awaited, and no request waits for the core. -/
def State.CoreEnds (s : State) (op : CoreOp) : Prop := s.cipher.running = some ⟨op, false⟩ ∧ s.cipher.waiting = []

/-- Nothing keeps the record store from a start: the part is READY and ACTIVE, no warm reset is carried out, the store is
not in FAULT, and the program circuit is free (R130, R132, R141, R170). -/
def State.StoreRuns (s : State) : Prop :=
  (s.resetCtl.part = .ready ∧ s.resetCtl.warmReset = false ∧ s.supply.activity = .active) ∧
    s.store.fault = false ∧ s.store.program = none ∧ s.store.retry = none

/-- The starts that lie in the pump window (R129). -/
def State.recentStarts (s : State) : Nat :=
  s.store.history.countP fun t => decide (s.time.milli < t + if s.supply.power = .reserve then 64 else 16)

/-- What R159 asks of the part so that the standby count rises: STANDBY_OK, no warm reset, no takable card, no job, no
program and no retry, no erase, no append that may start, no reclaim, and no bank whose erase is ready. -/
def State.AtRest (s : State) : Prop :=
  s.port.control.getLsbD 1 = true ∧ s.resetCtl.warmReset = false ∧ (∀ n ∈ s.port.arrival, s.takable n = false) ∧
    (∀ j, s.job j = none) ∧ s.store.program = none ∧ s.store.retry = none ∧ s.store.erase = none ∧
    (∀ q ∈ s.store.queue, s.appendCondition q = false) ∧ s.store.reclaim = none ∧
    (s.store.fault = true ∨ ∀ b : BankNo, s.store.banks[b] ≠ .erasing ∧ (s.supply.power = .mains → s.store.banks[b] ≠ .needsErase))

/-- The lane job `j`, the only job in hand, waits for the release of P, which completes with the milli-tick now under way
(R52, R48). -/
def State.ReleaseEnds (s : State) (j : JobId) (x : Job) (next : AfterRelease) : Prop :=
  s.OnlyJob j x ∧ x.kind = .package ∧ x.step = .releasing next ∧ s.engine.lane = some j ∧ s.engine.laneWaiting = [] ∧
    (∀ i, (s.slot i).list = []) ∧ ∃ since, s.slots.package = .closing since ∧ since < s.time.milli

/-- A package's record is in program at `loc` as `d`, and no reclaim is in progress: it is that of the lane job `j`, the
only job in hand, or, where there is no owner, that of a job which a warm reset has aborted (R100, R140). -/
def State.RecordEnds (s : State) (owner : Option (JobId × Job)) (loc : Location) (d : RowData) : Prop :=
  s.store.reclaim = none ∧ s.engine.laneWaiting = [] ∧ (∀ i, (s.slot i).list = []) ∧
  (∃ payload failures, s.store.program = some ⟨.package (owner.map (·.1)), payload, loc, d, failures⟩) ∧
  match owner with
  | some (j, x) => s.OnlyJob j x ∧ x.kind = .package ∧ x.step = .recordStore ∧ s.engine.lane = some j
  | none => (∀ j, s.job j = none) ∧ s.engine.lane = none

/-- The lane admits no job: it is held, or the record of a lane job that a warm reset aborted is in program or awaits its
retry (R90; the retry is log entry 45). -/
def State.LaneClosed (s : State) : Prop :=
  s.engine.lane ≠ none ∨ s.store.holdsRecordOf (.package none) ∨ s.store.holdsRecordOf (.lock none)

/-- Every job in hand waits for an event from outside: no front of a write list is to be judged (R65), the lane neither admits a
job nor goes on with P EMPTY (R90, R94), and no front of a pending list finds its slot EMPTY or OPEN (R41). -/
def State.Still (s : State) : Prop :=
  (∀ j x, s.job j = some x → x.step = .writeWait ∨ x.step = .confirmWait →
    ∀ w, (s.entry x.writeHandle).writeList.head? = some w → w.owner ≠ some j) ∧
  (s.engine.laneWaiting = [] ∨ s.LaneClosed) ∧
  (∀ j x, s.engine.lane = some j → s.job j = some x → s.slots.package = .empty →
    (∀ k g, x.step ≠ .keyWait k g) ∧ ∀ n, x.step ≠ .releasing n) ∧
  ∀ i j x, (s.slot i).list.head? = some j → s.job j = some x → x.step = .slotQueue →
    (s.slot i).state ≠ .empty ∧ ∀ h g p k, (s.slot i).state ≠ .opened h g p k

/-- The command by which an operation of the cipher core ends. -/
def CoreOp.end_ : CoreOp → Instr
  | .slotUnwrap _ _ => .slotUnwrapEnd
  | .packageTag _ _ => .packageTagCheckEnd
  | .stageUnwrap _ _ => .stageUnwrapEnd
  | .sign _ _ => .signOperationEnd
  | .check _ _ => .tagComparisonEnd
  | .decipher _ _ => .decipherEnd

/-- The command by which intake takes a card of a kind. -/
def Kind.command : Kind → Instr
  | .openKey => .takeOpen
  | .closeSlot => .takeClose
  | .sign => .takeSign
  | .check => .takeCheck
  | .query => .takeQuery
  | .package => .takePackage
  | .time => .takeTime
  | .settings => .takeSettings
  | .windows => .takeWindows

/-! ## Vocabulary of statements -/

/-- The state of a card after the host wrote `v` into its state byte (R6). -/
def CardState.written (c : CardState) (v : Byte) : CardState :=
  if v = 0x5A ∧ c = .free then .posted
  else if v = 0xA5 ∧ c = .posted then .free
  else if v = 0x00 ∧ c = .done then .free
  else c

/-- The exchange port after a completion of card `n` (R10): memory, card state, done map, ALERT and counters. -/
def Port.completed (p : Port) (n : CardNo) (fields : List (Nat × Nat)) (notify : Bool) (status : Status)
    (notes event : BitVec 16) (values : List Nat) (outputAt : Nat) (output : List Byte) : Port :=
  { p with
    memory := completionMemory p.memory n fields status notes values outputAt output
    cards := p.cards.set n .done
    doneMap := if notify then p.doneMap ||| (1 <<< n.val) else p.doneMap
    alert := p.alert ||| notes ||| event
    figures := p.figures.count (cardGroup n) status }

/-- The exchange port after the completion of job `x` with a status and result values (R10, R34, R35). -/
def Port.jobDone (p : Port) (x : Job) (status : Status) (values : List Nat) : Port :=
  p.completed x.card (resultFields x.kind) x.notify status x.notes (completionEvent x.kind status x.notes) values
    x.rangeOffset x.output

/-- The exchange port with the bytes of a card behind its state byte stored (R1). -/
def Port.withCardBytes (p : Port) (n : CardNo) (rest : List Byte) : Port :=
  { p with memory := Memory.writeBytes p.memory (cardBase n + 1) rest }

/-- The exchange port after a card fault (R8). -/
def Port.faulted (p : Port) (ready : Bool) : Port :=
  { p with figures := { p.figures with cardFaults := min (p.figures.cardFaults + 1) 0xFFFFFFFF }
           alert := if ready then p.alert ||| alertCardFault else p.alert }

/-- The store figures of the status page as a program's end rewrites them (R130). -/
def State.figuresAfter (s : State) : PageFigures :=
  { s.port.figures with nextSeq := s.store.nextSeq, erasedRows := s.store.advanceHead.erasedRows }

/-- From store `u` to store `t` the append position moves on past one row: within the HEAD, or, past its last row, to row 0 of the
first ERASED bank after it in circular order, the old HEAD being FULL then (R125, R130). -/
def Store.HeadMovesOn (u t : Store) : Prop :=
  (u.appendPos + 1 < 64 → t.headBank = u.headBank ∧ t.appendPos = u.appendPos + 1 ∧ t.banks = u.banks) ∧
  (64 ≤ u.appendPos + 1 → ∀ k : BankNo, k ≠ 0 → u.banks[u.headBank + k] = .erased →
    (∀ m : BankNo, m ≠ 0 → m < k → u.banks[u.headBank + m] ≠ .erased) →
    t.headBank = u.headBank + k ∧ t.appendPos = 0 ∧
      ∀ b : BankNo, t.banks[b] = if b = u.headBank + k then .head else if b = u.headBank then .full else u.banks[b])

/-- The store once a program has begun: the queue, the requester, the payload and the failures so far are given (R126,
R129, R130). -/
def State.programBegun (s : State) (queue : List QueuedAppend) (r : Requester) (p : Payload) (failures : Nat) : State :=
  s.onStore fun t =>
    { t with
      queue := queue
      program := some ⟨r, p, ⟨t.headBank, Fin.ofNat 64 t.appendPos⟩, p.row t.nextSeq s.time.tt, failures⟩
      nextSeq := t.nextSeq + 1
      history := pushStart t.history s.time.milli }

/-- What becomes of a predecessor: retiring until `stamp` and the grace, capped at its expiry, or gone (R102, R103,
R149). -/
def CurrentGen.superseded (c : CurrentGen) (stamp grace : Nat) : Option RetiringGen :=
  let graceEnd := min (min (stamp + grace * 60) 0xFFFFFFFF) c.expiry
  if grace = 0 ∨ graceEnd ≤ stamp then none else some ⟨c.gen, c.location, c.policy, c.expiry, c.rx, graceEnd⟩

/-- Where a read of generation `g` stands once it is asked for: in flight at its location, or waiting for its bank (R43,
R128). -/
def State.readAsked (s : State) (h : HandleNo) (g : Nat) : Option Location :=
  ((s.entry h).locationOf g).filter fun l => !s.store.bankBusy l.bank

/-- What the directory does with an ask for a raise of handle `h`'s ceiling, of its floor, or of both (R66): a pending write takes
the wanted values, or one is created and its append asked for, which the store refuses in FAULT (R67, R131). -/
def State.raiseAsked (s : State) (h : HandleNo) (ceiling floor : Option Nat) : State :=
  let larger := fun a b : Option Nat => if a.isSome && b.isSome then some (max (a.getD 0) (b.getD 0)) else if a.isSome then a else b
  match (s.entry h).counterPending with
  | some w => s.onEntry h fun e => { e with counterPending := some ⟨larger w.ceiling ceiling, larger w.floor floor⟩ }
  | none =>
    if s.store.fault then s
    else (s.onEntry h fun e => { e with counterPending := some ⟨ceiling, floor⟩ }).onStore fun t =>
      { t with queue := t.queue ++ [.counter h] }

/-- The reservation check asks for a raise, where `c` is the current generation (R77). -/
def HandleEntry.raises (e : HandleEntry) (c : CurrentGen) : Prop :=
  c.txCeiling ≤ c.txNext + 64 ∧ c.txCeiling < c.signLimit ∧ e.counterFlight = none ∧
    ∀ w, e.counterPending = some w → w.ceiling = none

/-- The cipher core after a use's request of group `g`: it begins in an idle core, and waits for a busy one (R32, R33). -/
def Cipher.useAsked (c : Cipher) (j : JobId) (g : Group) (op : CoreOp) : Cipher :=
  if c.running.isSome then { c with waiting := c.waiting ++ [.use j] }
  else { c with running := some ⟨op, false⟩, lastGroup := g }

/-- How an accepted CHECK `y`, the only job in hand, goes on once its cipher work is done. Without a confirm by use to ask for,
it completes OK; else its entry joins the write list (R85), and at the front the CONFIRM mark is asked for, or the job completes
OK without writing where the generation is not the present staged one (R86; if it is retiring, log entry 47),
or STORE_FAULT in FAULT (R87). -/
def State.CheckGoesOn (s t : State) (j : JobId) (y : Job) : Prop :=
  let e := s.entry y.handle
  let write : WriteEntry := ⟨some j, .confirmByUse, y.gen⟩
  let completes := fun (st : Status) (values : List Nat) =>
    t.port = s.port.jobDone y st values ∧ (∀ j', t.job j' = none) ∧ t.store.queue = s.store.queue
  if y.notes &&& noteStagedUsed ≠ 0 ∧ (s.slot y.slotNo).state.policy.confirmOnUse = true then
    (e.writeList = [] →
      ((∀ g, e.staged = some g → g.gen = y.gen → g.deadline ≤ s.time.tt) →
        completes .ok [y.gen] ∧ (t.entry y.handle).touched = true) ∧
      ∀ g, e.staged = some g → g.gen = y.gen → s.time.tt < g.deadline →
        (s.store.fault = true → completes .storeFault []) ∧
        (s.store.fault = false → t.job j = some { y with step := .confirmStore } ∧ (t.entry y.handle).writeList = [write] ∧
          t.port = s.port ∧ t.store.queue = s.store.queue ++ [.owned (.confirmByUse (some j))
            (.plain ⟨some g.authority, none⟩ (.confirm y.handle y.gen 0 (min 256 g.signLimit)))])) ∧
    ∀ w rest, e.writeList = w :: rest → w.owner ≠ some j →
      t.job j = some { y with step := .confirmWait } ∧ (t.entry y.handle).writeList = e.writeList ++ [write] ∧
        t.port = s.port ∧ t.store.queue = s.store.queue
  else t.port = s.port.jobDone y .ok [y.gen] ∧ (∀ j', t.job j' = none) ∧ (t.entry y.handle).touched = true

/-- The operation that a granted request begins, with the key that it reads (R32, R72). -/
def State.granted (s : State) : Request → Option CoreOp
  | .slotUnwrap i => match s.slotState i with
    | .unwrapping _ _ _ m => some (.slotUnwrap i m)
    | _ => none
  | .lane j => (s.job j).bind fun x => match x.step with
    | .tagWait _ => some (.packageTag j (s.keyIn .package))
    | .unwrapWait => some (.stageUnwrap j (s.keyIn .package))
    | _ => none
  | .use j => (s.job j).bind fun x => match x.step with
    | .signWait => some (.sign j (s.keyIn (.host x.slotNo)))
    | .checkWait => some (.check j (s.keyIn (.host x.slotNo)))
    | .decipherWait => some (.decipher j (s.keyIn (.host x.slotNo)))
    | _ => none

/-- The step of a job whose operation has begun. -/
def JobStep.begun : JobStep → JobStep
  | .signWait => .signRun
  | .checkWait => .checkRun
  | .decipherWait => .decipherRun
  | .tagWait second => .tagRun second
  | .unwrapWait => .unwrapRun
  | step => step

/-- What a reclaim's COPY makes of an idle walk `w` over bank `tail`: the fold in hand goes on with its next generation; else
the next tail row whose turn calls for a row is taken; else the next authority that needs a rewrite; else the RECLAIM mark
is readied (R134 to R137). -/
def State.CopyGoesOn (s : State) (tail : BankNo) (w w' : CopyWalk) : Prop :=
  let rows := countedRows s.store.array
  let reads := fun (h : HandleNo) (g : Nat) => CopyStage.reading h g (s.readAsked h g)
  let turns := fun (n : Nat) (f : PlacedRow → RowTurn → Prop) =>
    ∃ r ∈ rows, r.1.bank = tail ∧ r.1.row.val = n ∧ f r (s.rowTurn rows w.folded r)
  let passed := fun n : Nat => ¬turns n fun _ x => x ≠ .nothing
  match w.foldGens with
  | g :: rest => w' = { w with foldGens := rest, stage := reads w.foldHandle g }
  | [] =>
    (∃ n, w.nextRow ≤ n ∧ n < 64 ∧ (∀ m, w.nextRow ≤ m → m < n → passed m) ∧
      turns n fun r x =>
        (x = .copy r.2 ∧ w' = { w with nextRow := n + 1, stage := .ready (.asIs r.2) }) ∨
        ∃ h, x = .fold h ∧ match (s.entry h).presentGens s.time.tt with
          | [] => w' = { w with nextRow := n + 1, folded := h :: w.folded, stage := .ready (.foldRevoke h) }
          | g :: rest => w' = { w with
              nextRow := n + 1, folded := h :: w.folded, foldHandle := h, foldGens := rest, stage := reads h g }) ∨
    ((∀ m, w.nextRow ≤ m → m < 64 → passed m) ∧
      ((∃ k : AuthNo, w.nextAuthority ≤ k.val ∧ needsRewrite rows tail k = true ∧
          (∀ a : AuthNo, w.nextAuthority ≤ a.val → a < k → needsRewrite rows tail a = false) ∧
          w' = { w with nextRow := max w.nextRow 64, nextAuthority := k.val + 1, stage := .ready (.rewrite k) }) ∨
        ((∀ a : AuthNo, w.nextAuthority ≤ a.val → needsRewrite rows tail a = false) ∧
          w' = { w with
            nextRow := max w.nextRow 64, nextAuthority := max w.nextAuthority 6, stage := .ready .reclaimMark })))

/-- The entry of a handle after a counted row of the handle in replay, presence judged by the row's stamp (R166). -/
def HandleEntry.afterRow (e : HandleEntry) (r : PlacedRow) : HandleEntry :=
  let d := r.2
  let staged := e.staged.filter fun y => decide (d.stamp < y.deadline)
  let retiring := e.retiring.filter fun y => decide (d.stamp < y.graceEnd)
  let noted := fun k : KeyRecord => { e with
    role := if e.current.isSome || staged.isSome || retiring.isSome then e.role else some k.role
    highestGen := max e.highestGen k.highestGen, lastRevoked := false }
  match d.record with
  | .key _ g k =>
    match d.header.authority, k.state with
    | some _, .staged issued limit deadline au => { noted k with
        staged := some ⟨g, r.1, k.policy, issued, k.expiry, limit, ⟨none, 0⟩, au, deadline⟩, retiring := retiring }
    | some _, .active issued limit ceiling floor grace => { noted k with
        current := some ⟨g, r.1, k.policy, issued, k.expiry, limit, 0, ceiling, ⟨none, 0⟩, floor⟩, staged := staged
        retiring := match e.current with
          | some c => c.superseded d.stamp (grace.getD 0)
          | none => retiring }
    | some _, .retiring _ => e
    | none, .staged issued limit deadline au => { noted k with
        staged := some ⟨g, r.1, k.policy, issued, k.expiry, limit, ⟨none, 0⟩, au, deadline⟩
        current := e.current.filter fun c => decide (c.gen ≠ g), retiring := e.retiring.filter fun y => decide (y.gen ≠ g) }
    | none, .active issued limit ceiling floor _ => { noted k with
        current := some ⟨g, r.1, k.policy, issued, k.expiry, limit, 0, ceiling, ⟨none, 0⟩, floor⟩
        staged := e.staged.filter fun y => decide (y.gen ≠ g), retiring := e.retiring.filter fun y => decide (y.gen ≠ g) }
    | none, .retiring graceEnd => { noted k with
        retiring := some ⟨g, r.1, k.policy, k.expiry, ⟨none, 0⟩, graceEnd⟩
        current := e.current.filter fun c => decide (c.gen ≠ g), staged := e.staged.filter fun y => decide (y.gen ≠ g) }
  | .confirm _ g grace ceiling =>
    match e.staged.filter fun y => decide (y.gen = g ∧ d.stamp < y.deadline) with
    | none => { e with staged := staged, retiring := retiring }
    | some y => { e with
        current := some ⟨g, y.location, y.policy, y.issuedAt, y.expiry, y.signLimit, 0, ceiling, y.rx, none⟩, staged := none
        retiring := match e.current with
          | some c => c.superseded d.stamp grace
          | none => retiring }
  | .cancel _ g => { e with staged := staged.filter fun y => decide (y.gen ≠ g), retiring := retiring }
  | .release _ _ => { e with staged := staged, retiring := none }
  | .revoke _ _ highest role => { e with
      current := none, staged := none, retiring := none, lastRevoked := true, highestGen := max e.highestGen highest
      role := if role.isSome then role else e.role }
  | .counter _ g ceiling floor => { e with
      current := e.current.map fun c => if c.gen = g then { c with txCeiling := ceiling, rxFloor := floor } else c }
  | _ => e

/-- A part whose cold start has arrived and whose scan is still to end: no job, no key and no operation is in hand, and the
blocks that the scan fills hold nothing (R162; log entry 8). -/
def State.ScanDue (s : State) : Prop :=
  s.resetCtl.part = .starting ∧ s.store = Store.cold s.store.array ∧ (∀ h, s.entry h = HandleEntry.vacant) ∧
  (∀ k, s.authority k = Authority.undefined) ∧ s.custody = ⟨Vector.replicate 8 CustodyEntry.empty, false⟩ ∧
  s.tamper = ⟨TamperState.cold, TamperState.cold⟩ ∧ s.engine = ⟨Vector.replicate 6 none, none, []⟩ ∧
  s.cipher = ⟨none, [], .c⟩ ∧ s.slots = ⟨Vector.replicate 4 ⟨.empty, 0, []⟩, .empty⟩

/-- The state but for its job engine, its slots, its cipher core, its directory and its exchange port. -/
def State.sameElsewhere (s t : State) : Prop :=
  t.resetCtl = s.resetCtl ∧ t.settings = s.settings ∧ t.authorities = s.authorities ∧ t.custody = s.custody ∧
    t.store = s.store ∧ t.time = s.time ∧ t.tamper = s.tamper ∧ t.supply = s.supply ∧ t.pending = s.pending ∧
    t.freeDraws = s.freeDraws

end Sys2Proof.Machine
end

