-- ==== Sys2Proof/WellFormed.lean ====
section
/-!
DEFINITION. When a command is well formed: the operands of a host row make the transaction that its row of the command
table describes. Each check is named; Sys2Proof/Tests/Slice0.lean shows a term that each refuses. The meanings are total
all the same: a transaction is judged byte by byte (R1), whatever row it is sent as.
-/

namespace Sys2Proof

/-- CARD_FAULT begins with a byte that neither posts, nor withdraws, nor returns a card (R6, R8). -/
def cardFaultValueOk (value : Byte) : Bool := value != 0x5A && value != 0xA5 && value != 0x00

/-- HOST_MEMORY_WRITE writes at least one byte and begins below the registers (section 1.1). -/
def memoryWriteOk (offset : Nat) (bytes : List Byte) : Bool := decide (offset < 0x4000) && !bytes.isEmpty

/-- CONTROL_WRITE writes at least one byte, and no 1 to SOFT_RESET (R19). -/
def controlWriteOk (start : Fin 4) (bytes : List Byte) : Bool :=
  !bytes.isEmpty && !(decide (start.val = 0) && (bytes.getD 0 0).getLsbD 7)

/-- SOFT_RESET writes 1 to CONTROL.SOFT_RESET (R20). -/
def softResetOk (low : Byte) : Bool := low.getLsbD 7

/-- ALERT_CLEAR writes at least one byte (R21). -/
def alertClearOk (bytes : List Byte) : Bool := !bytes.isEmpty

/-- A register offset whose writes are discarded: IDENT, STATE, or beyond 400Fh (R1, R19, R22). -/
def discardedOffset (a : Nat) : Bool :=
  (decide (0x4000 ≤ a) && decide (a < 0x4004)) || decide (0x400C ≤ a)

/-- REGISTER_WRITE_DISCARDED writes at least one byte, all of them to offsets whose writes are discarded. -/
def discardedWriteOk (offset : Nat) (bytes : List Byte) : Bool :=
  !bytes.isEmpty && (List.range bytes.length).all fun k => discardedOffset (offset + k)

/-- ERASE_COMPLETION says what is left of at most the 64 rows of a bank (R125). -/
def eraseResidueOk (residue : List RowResidue) : Bool := decide (residue.length ≤ 64)

/-- The write transaction that a host row makes: the offset of its first byte, and its bytes (R2); none for a command
that no host write makes. -/
def Instr.transaction : Instr → Option (Nat × List Byte)
  | .post card rest => some (256 * card.val, 0x5A :: rest)
  | .withdraw card rest => some (256 * card.val, 0xA5 :: rest)
  | .returnCard card rest => some (256 * card.val, 0x00 :: rest)
  | .cardFault card value rest => some (256 * card.val, value :: rest)
  | .hostMemoryWrite offset bytes => some (offset, bytes)
  | .controlWrite start bytes => some (0x4004 + start.val, bytes)
  | .softReset low rest => some (0x4004, low :: rest)
  | .alertClear start bytes => some (0x4008 + start.val, bytes)
  | .registerWriteDiscarded offset bytes => some (offset, bytes)
  | .takeOpen | .takeClose | .takeSign | .takeCheck | .takeQuery | .takePackage | .takeTime | .takeSettings
  | .takeWindows | .kindUnknownRefusal | .rowReadStart _ | .keyRowReadEnd _ _ | .slotUnwrapEnd | .signOperationEnd
  | .tagComparisonEnd | .decipherEnd | .wipeCompletion _ | .idleClose _ | .packageTagCheckEnd | .stageUnwrapEnd
  | .appendStart | .retryStart | .appendCompletion | .appendAbandonment | .reclaimStart | .copyRowStart
  | .foldReadEnd _ | .eraseStart | .eraseCompletion _ | .timeBaseSecond | .driftCreditAccrual | .timeMarkDue
  | .tamperLatch _ | .powerStateChange | .initialPowerState | .standbyEntry | .standbyWake | .coldStart _ _
  | .scanEnd | .rstNLow | .warmResetEnd _ | .timeBaseMilliTick _ _ _ => none

/-- A well-formed command. -/
def Instr.wellFormed : Instr → Bool
  | .post _ _ => true
  | .withdraw _ _ => true
  | .returnCard _ _ => true
  | .cardFault _ value _ => cardFaultValueOk value
  | .hostMemoryWrite offset bytes => memoryWriteOk offset bytes
  | .controlWrite start bytes => controlWriteOk start bytes
  | .softReset low _ => softResetOk low
  | .alertClear _ bytes => alertClearOk bytes
  | .registerWriteDiscarded offset bytes => discardedWriteOk offset bytes
  | .takeOpen => true
  | .takeClose => true
  | .takeSign => true
  | .takeCheck => true
  | .takeQuery => true
  | .takePackage => true
  | .takeTime => true
  | .takeSettings => true
  | .takeWindows => true
  | .kindUnknownRefusal => true
  | .rowReadStart _ => true
  | .keyRowReadEnd _ _ => true
  | .slotUnwrapEnd => true
  | .signOperationEnd => true
  | .tagComparisonEnd => true
  | .decipherEnd => true
  | .wipeCompletion _ => true
  | .idleClose _ => true
  | .packageTagCheckEnd => true
  | .stageUnwrapEnd => true
  | .appendStart => true
  | .retryStart => true
  | .appendCompletion => true
  | .appendAbandonment => true
  | .reclaimStart => true
  | .copyRowStart => true
  | .foldReadEnd _ => true
  | .eraseStart => true
  | .eraseCompletion residue => eraseResidueOk residue
  | .timeBaseSecond => true
  | .driftCreditAccrual => true
  | .timeMarkDue => true
  | .tamperLatch _ => true
  | .powerStateChange => true
  | .initialPowerState => true
  | .standbyEntry => true
  | .standbyWake => true
  | .coldStart _ _ => true
  | .scanEnd => true
  | .rstNLow => true
  | .warmResetEnd _ => true
  | .timeBaseMilliTick _ _ _ => true

end Sys2Proof
end

