-- ==== Sys2Proof/Certificates/Slice0/Obligations.lean ====
section
/-!
DEFINITION. The statements about the PK318 that the provers are asked for: the laws of the device, and for every command
the next state that its rule gives.
-/

open Sys2Proof Sys2Proof.Machine

/-! ## The queue -/

/-- A step runs the command at the front of the queue on the state with the queue's rest; an empty queue idles. The
queue and its idling are the model's choice (log entry 4). -/
def Obligations.StepRunsTheFrontCommand : Prop :=
  (∀ (c : Instr) (rest : List Instr) (s : State), s.pending = c :: rest → step s = exec c { s with pending := rest }) ∧
    ∀ s : State, s.pending = [] → step s = .next s

/-! ## Laws of the device -/

/-- R9, R13, R27: every command keeps the law of the arrival list, of the done map and of the job records. -/
def Obligations.ExchangeLawIsKept : Prop :=
  ∀ s t : State, s.ExchangeLaw → step s = .next t → t.ExchangeLaw

/-- R3, R19: every command keeps the canonical form of the exchange memory and CONTROL's unused bits at 0. -/
def Obligations.MemoryLawIsKept : Prop :=
  ∀ s t : State, s.MemoryLaw → step s = .next t → t.MemoryLaw

/-- The laws hold right after reset, and that of the record store when the first scan has ended (R112, R125, R132). -/
def Obligations.LawsHoldAtReset : Prop :=
  State.reset.ExchangeLaw ∧ State.reset.MemoryLaw ∧ State.reset.TimeLaw ∧ State.reset.TamperLaw ∧
    State.reset.DirectoryLaw ∧
    ∃ t, exec .scanEnd State.reset = .next t ∧ t.resetCtl.part = .ready ∧ t.StoreLaw ∧ t.DirectoryLaw

/-- R143, R144: every command keeps TT, D and the sub-count in their ranges, and TT decreases at no command but a cold
start and the end of a scan, whose rows carry no stamp beyond the range. R120, R62: no command but those two takes FINAL
back or lowers a handle's highest_gen. -/
def Obligations.TimeProvisioningAndGenLawsAreKept : Prop :=
  ∀ (c : Instr) (s t : State), exec c s = .next t →
    (s.TimeLaw → (c = .scanEnd → ∀ n ∈ s.rowStamps, n ≤ 0xFFFFFFFE) → t.TimeLaw) ∧
    ((∀ a b, c ≠ .coldStart a b) → c ≠ .scanEnd →
      (s.TimeLaw → s.time.tt ≤ t.time.tt) ∧ (s.custody.final = true → t.custody.final = true) ∧
      ∀ h, (s.entry h).highestGen ≤ (t.entry h).highestGen)

/-- R51, R43: no command leaves a host slot OPEN with a TAMPER_LOCK key while a tamper latch is set; at the end of a scan
no slot is OPEN (R162). -/
def Obligations.TamperLawIsKept : Prop :=
  ∀ (c : Instr) (s t : State), s.TamperLaw → (c = .scanEnd → ∀ i, (s.slot i).state = .empty) → exec c s = .next t →
    t.TamperLaw

/-- R125, R132: every command but the end of a scan keeps the law of the record store: exactly one bank is HEAD, its append
position is one of its rows, never fewer than 12 rows are erased, and what is in hand stands as R128 to R137 give it. The
end of a scan takes the law from the array. -/
def Obligations.StoreLawIsKept : Prop :=
  ∀ (c : Instr) (s t : State), c ≠ .scanEnd → s.StoreLaw → exec c s = .next t → t.StoreLaw

/-- R57, R62, R66, R74: every command but the end of a scan keeps the law of the key directory: tx_next at most tx_ceiling at
most sign_limit, staged above current, retiring below it, never both. The completion of a program does so where its record
fits the entry of its handle, as a record does that passed the state checks of R98. -/
def Obligations.DirectoryLawIsKept : Prop :=
  (∀ (c : Instr) (s t : State), c ≠ .scanEnd → (c = .appendCompletion → s.ProgramFits) → s.DirectoryLaw →
    exec c s = .next t → t.DirectoryLaw) ∧
  ∀ (s : State) (p m : List Byte) (h : HandleNo) (seq stamp tt : Nat), (pkgKind p).onHandle = true → pkgHandle p = h →
    stateChecks (s.entry h) s.time.tt p = none → s.time.tt ≤ tt →
    ((s.packagePayload p m).row seq stamp).record.handle? = some h ∧
      ((s.packagePayload p m).row seq stamp).record.Fits (s.entry h) tt

/-- R125, R130, R131, R137: a row of the array changes only in the event that ends the program in flight there, or while its
bank is being erased. -/
def Obligations.RowsChangeOnlyByProgramOrErase : Prop :=
  ∀ (c : Instr) (s t : State) (l : Location), exec c s = .next t →
    rowAt t.store.array l = rowAt s.store.array l ∨
      (∃ p, s.store.program = some p ∧ p.location = l ∧ t.store.program = none) ∨ s.store.erase = some l.bank

/-! ## Host reads and writes -/

/-- R1, R5, R14, R19, R21 to R23, and the layouts of section 1.9: what the host reads of state bytes, of the other bytes of
exchange memory, of the status page and of the registers, and beyond them; NOTE_N is low exactly while a done card or an
alert is enabled.
That a locked flag follows TT at once, before the next second rewrites the page (log entry 17), and what STATE shows of
provisioning and latches during STARTING (log entry 8) are the model's choice. -/
def Obligations.HostReadsAndNoteN : Prop :=
  ∀ s : State,
    let f := s.port.figures
    let shows := fun a n v : Nat => (List.range n).map (fun k => s.hostRead (a + k)) = leBytes n v
    let bit := fun a b : Nat => (s.hostRead (a + b / 8)).getLsbD (b % 8)
    let latchTime := fun y : TamperState => if y.latched then y.latchTime else 0
    (∀ n : CardNo, s.hostRead (cardBase n) = match s.port.cards[n] with
      | .free => 0x00
      | .posted => 0x5A
      | .taken => 0x7E
      | .done => 0xC3) ∧
    (∀ a, a < 0x3E00 → ¬(a < 0x2000 ∧ a % 256 = 0) → s.hostRead a = Memory.read s.port.memory a) ∧
    (s.resetCtl.part = .starting → ∀ a, 0x3E00 ≤ a → a < 0x4000 → s.hostRead a = 0) ∧
    (s.resetCtl.part = .ready →
      shows 0x3E00 4 s.time.tt ∧ shows 0x3E04 4 s.time.drift ∧ shows 0x3E08 4 f.nextSeq ∧ shows 0x3E0C 2 f.erasedRows ∧
      (∀ b, b < 8 → (bit 0x3E0E b = true ↔ ∃ k : AuthNo, k.val = b ∧ s.time.tt < (s.authority k).lockUntil)) ∧
      shows 0x3E10 4 s.port.doneMap.toNat ∧ (∀ k : AuthNo, shows (0x3E14 + 4 * k.val) 4 (s.authority k).accepted) ∧
      shows 0x3E2C 4 f.jobsOkM ∧ shows 0x3E30 4 f.jobsRefusedM ∧ shows 0x3E34 4 f.jobsOkC ∧ shows 0x3E38 4 f.jobsRefusedC ∧
      shows 0x3E3C 4 f.tagFailures ∧ shows 0x3E40 4 f.replays ∧ shows 0x3E44 4 f.tornRows ∧
      shows 0x3E48 4 f.reclaimsCompleted ∧ shows 0x3E4C 4 f.erasesAbandoned ∧ shows 0x3E50 4 f.cardFaults ∧
      shows 0x3E54 4 (latchTime s.tamper.cover) ∧ shows 0x3E58 4 (latchTime s.tamper.field) ∧
      s.hostRead 0x3E0F = 0 ∧ ∀ a, 0x3E5C ≤ a → a < 0x4000 → s.hostRead a = 0) ∧
    (s.hostRead 0x4000 = 0x3B ∧ s.hostRead 0x4001 = 0x01 ∧ s.hostRead 0x4002 = 0x20 ∧ s.hostRead 0x4003 = 0x30) ∧
    (∀ b, b < 32 → bit 0x4004 b = s.port.control.getLsbD b ∧ bit 0x4008 b = s.port.alert.getLsbD b) ∧
    (∀ b, b < 32 → bit 0x400C b = match b with
      | 0 => decide (s.resetCtl.part = .ready)
      | 1 => decide (s.supply.power = .reserve)
      | 2 => decide (s.supply.activity = .standby)
      | 4 => decide (s.resetCtl.cause = .brownOut ∨ s.resetCtl.cause = .soft)
      | 5 => decide (s.resetCtl.cause = .pin ∨ s.resetCtl.cause = .soft)
      | 7 => s.resetCtl.reserveAtReset
      | 8 => s.custody.final
      | 9 => s.settings.admitC
      | 10 => s.settings.settingsSeen
      | 11 => s.tamper.cover.latched
      | 12 => s.tamper.field.latched
      | 13 => !s.store.fault && s.store.reclaim.isSome
      | 14 => s.store.fault
      | _ => false) ∧
    (∀ a, 0x4010 ≤ a → s.hostRead a = 0) ∧
    (s.noteLow = true ↔
      (s.port.control.getLsbD 0 = true ∧ ∃ n : CardNo, s.port.doneMap.getLsbD n.val = true) ∨
      ∃ k : Fin 16, s.port.alert.getLsbD k.val = true ∧ s.port.control.getLsbD (16 + k.val) = true)

/-- R1, R2, R6: a write transaction, whatever it covers, that starts no warm reset. Each card whose state byte it covers takes
the state that the table of R6 gives, and every other card keeps its state; each other byte of the card table and of the
buffer area reads as written if the transaction covers it, and as before otherwise. -/
def Obligations.WriteTransactionsActByteByByte : Prop :=
  ∀ (s : State) (a : Nat) (bytes : List Byte), ¬(requestsSoftReset a bytes = true ∧ s.mayWarmReset = true) →
    (∀ n : CardNo, (s.hostWrite a bytes).port.cards[n] =
      if a ≤ cardBase n ∧ cardBase n < a + bytes.length then
        (s.port.cards[n]).written (bytes.getD (cardBase n - a) 0)
      else s.port.cards[n]) ∧
    (s.MemoryLaw → ∀ y, y < 0x3E00 → ¬(y < 0x2000 ∧ y % 256 = 0) →
      (s.hostWrite a bytes).hostRead y =
        if a ≤ y ∧ y < a + bytes.length then bytes.getD (y - a) 0 else s.hostRead y)

/-- R6 to R9, R11: POST, WITHDRAW, RETURN and CARD_FAULT, each a transaction within one card, in every state of the card.
The transaction wakes the part (R160); nothing else of the state changes. -/
def Obligations.StateByteCommands : Prop :=
  ∀ (n : CardNo) (rest : List Byte) (s : State), rest.length ≤ 255 →
    let p := s.port.withCardBytes n rest
    let posted := { p with cards := p.cards.set n .posted, arrival := p.arrival ++ [n] }
    let withdrawn := { p with cards := p.cards.set n .free, arrival := p.arrival.filter (· != n) }
    let returned := { p with cards := p.cards.set n .free, doneMap := p.doneMap &&& ~~~((1 : BitVec 32) <<< n.val) }
    let fault := p.faulted (s.resetCtl.part = .ready)
    exec (.post n rest) s = .next (s.wake.onPort fun _ => match s.port.cards[n] with
      | .free => posted
      | .posted => p
      | .taken | .done => fault) ∧
    exec (.withdraw n rest) s = .next (s.wake.onPort fun _ => match s.port.cards[n] with
      | .posted => withdrawn
      | .free => fault
      | .taken | .done => p) ∧
    exec (.returnCard n rest) s = .next (s.wake.onPort fun _ => match s.port.cards[n] with
      | .done => returned
      | .free => p
      | .posted | .taken => fault) ∧
    ∀ v : Byte, cardFaultValueOk v = true →
      exec (.cardFault n v rest) s = .next (s.wake.onPort fun _ =>
        if (v = 0x7E ∧ s.port.cards[n] = .taken) ∨ (v = 0xC3 ∧ s.port.cards[n] = .done) then p else fault)

/-- R1, R2, R19, R21, R22: HOST_MEMORY_WRITE within the memory stores its bytes below the status page, discards those on the
status page, and changes nothing else, where it covers no state byte; REGISTER_WRITE_DISCARDED changes nothing; CONTROL_WRITE
stores the bits of the settings that it covers, clears SOFT_RESET and the unused bits, and changes nothing else; ALERT_CLEAR
clears the bits written as 1 in the two bytes of ALERT, and changes nothing else. -/
def Obligations.HostWritesToMemoryAndRegisters : Prop :=
  (∀ (s : State) (a : Nat) (bytes : List Byte), a + bytes.length ≤ 0x4000 →
    (∀ k, k < bytes.length → ¬(a + k < 0x2000 ∧ (a + k) % 256 = 0)) →
    exec (.hostMemoryWrite a bytes) s =
      .next { s with port := { s.port with memory := Memory.writeBytes s.port.memory a (bytes.take (0x3E00 - a)) } }) ∧
  (∀ (s : State) (a : Nat) (bytes : List Byte), discardedWriteOk a bytes = true →
    exec (.registerWriteDiscarded a bytes) s = .next s) ∧
  (∀ (s : State) (start : Fin 4) (bytes : List Byte), controlWriteOk start bytes = true → start.val + bytes.length ≤ 4 →
    ∃ c : BitVec 32, exec (.controlWrite start bytes) s = .next { s with port := { s.port with control := c } } ∧
      ∀ b, b < 32 → c.getLsbD b =
        (decide (b = 0 ∨ b = 1 ∨ 16 ≤ b) &&
          if 8 * start.val ≤ b ∧ b < 8 * (start.val + bytes.length) then (bytes.getD (b / 8 - start.val) 0).getLsbD (b % 8)
          else s.port.control.getLsbD b)) ∧
  ∀ (s : State) (start : Fin 4) (bytes : List Byte), alertClearOk bytes = true → start.val + bytes.length ≤ 4 →
    ∃ v : BitVec 16, exec (.alertClear start bytes) s = .next { s with port := { s.port with alert := v } } ∧
      ∀ b, b < 16 → v.getLsbD b =
        (s.port.alert.getLsbD b && !(decide (8 * start.val ≤ b ∧ b < 8 * (start.val + bytes.length)) &&
          (bytes.getD (b / 8 - start.val) 0).getLsbD (b % 8)))

/-! ## Resets -/

/-- R20, R161, R169: SOFT_RESET stores the other CONTROL bits it covers, and SOFT_RESET and RST_N_LOW start a warm reset
while the part is READY and none is carried out; at any other time the bits are stored, RST_N_LOW records the level, and
nothing more happens. R170, R71: WARM_RESET_END ends a warm reset where RST_N is high and no record from before it is in
program or waits for its retry: RESET_DONE is set, an abandoned reclaim is over, and each kept pending counter write is asked
for again, in ascending handle number (the order is log entry 38); in FAULT each is refused (R131). It records the level alone
where the reset cannot end yet.
That a record which awaits its retry holds the end back is the model's choice (log entry 45). -/
def Obligations.WarmResetArrivesAndEnds : Prop :=
  (∀ (s : State) (low : Byte) (rest : List Byte), softResetOk low = true → rest.length ≤ 3 →
    ∃ c : BitVec 32,
      (∀ b, b < 32 → c.getLsbD b = (decide (b = 0 ∨ b = 1 ∨ 16 ≤ b) &&
        if b < 8 * (rest.length + 1) then ((low :: rest).getD (b / 8) 0).getLsbD (b % 8)
        else s.port.control.getLsbD b)) ∧
      let stored := s.onPort fun p => { p with control := c }
      let held := s.onReset fun r => { r with rstHigh := false }
      (s.resetCtl.part = .ready → s.resetCtl.warmReset = false →
        exec (.softReset low rest) s = .next (stored.beginWarmReset .soft) ∧
        exec .rstNLow s = .next (held.beginWarmReset .pin)) ∧
      (s.resetCtl.part = .starting ∨ s.resetCtl.warmReset = true →
        exec (.softReset low rest) s = .next stored ∧ exec .rstNLow s = .next held)) ∧
  ∀ s : State, s.resetCtl.warmReset = true →
    let queue := s.store.queue
    let asked := (List.finRange 48).filter fun h => (s.entry h).counterPending.isSome && decide (.counter h ∉ queue)
    let left : Option Reclaim := if s.store.reclaim.any fun c => c.abandoned then none else s.store.reclaim
    let ended : State := { s with
      resetCtl := { s.resetCtl with rstHigh := true, warmReset := false }
      port := { s.port with alert := s.port.alert ||| alertResetDone }, store := { s.store with reclaim := left } }
    (s.store.program = none → s.store.retry = none → s.supply.activity = .active →
      (s.store.fault = false → exec (.warmResetEnd true) s =
        .next (ended.onStore fun t => { t with queue := queue ++ asked.map .counter })) ∧
      (s.store.fault = true → (∀ h, .counter h ∉ queue) → (∀ j, s.job j = none) →
        ∃ t, exec (.warmResetEnd true) s = .next t ∧ t = { ended with directory := t.directory } ∧
          ∀ h, t.entry h = { s.entry h with counterPending := none })) ∧
    exec (.warmResetEnd false) s = .next (s.onReset fun r => { r with rstHigh := false }) ∧
    (s.store.program.isSome = true ∨ s.store.retry.isSome = true →
      exec (.warmResetEnd true) s = .next (s.onReset fun r => { r with rstHigh := true }))

/-- R9, R12, R32, R36, R38, R53, R71, R138, R140, R158, R160, R169: what a warm reset of either cause leaves. Each TAKEN card
is completed ABORTED_BY_RESET with no notes and zero result fields, by the steps of R10; jobs, lane, arbiter and slots are
empty; of each write list the write whose record is in hand stays, without its job; of the append queue the TAMPER and TIME
marks stay, in their order; the record in hand runs on, an erase and a COPY are abandoned.
That a record which awaits its retry as the reset arrives is kept like one in program is the model's choice (log entry 45). -/
def Obligations.WarmResetEmptiesThePart : Prop :=
  ∀ (s : State) (cause : ResetCause), s.RecordLaw → s.MemoryLaw → s.store.program = none ∨ s.store.retry = none →
    let t := s.beginWarmReset cause
    let results := fun (x : Job) (y : Nat) =>
      ∃ f ∈ resultFields x.kind, cardBase x.card + f.1 ≤ y ∧ y < cardBase x.card + f.1 + f.2
    let status := fun (x : Job) (y : Nat) => cardBase x.card + 8 ≤ y ∧ y < cardBase x.card + 12
    let jobsOf := fun g : Machine.Group => (List.finRange 6).countP fun j => (s.job j).any fun x => cardGroup x.card = g
    let raised := fun n k : Nat => if k = 0 then n else min (n + k) 0xFFFFFFFF
    let erasing := s.store.erase.isSome = true
    let inHand := fun j : JobId => s.store.program.any (fun p => p.requester.job? = some j) ||
      s.store.retry.any fun r => r.requester.job? = some j
    t.resetCtl = { s.resetCtl with cause := cause, reserveAtReset := s.supply.power = .reserve, warmReset := true } ∧
    (∀ n : CardNo, t.port.cards[n] = if s.port.cards[n] = .taken then .done else s.port.cards[n]) ∧
    (∀ j x, s.job j = some x → Memory.readBytes t.port.memory (cardBase x.card + 8) 4 = [0x05, 0x01, 0, 0] ∧
      ∀ y, results x y → Memory.read t.port.memory y = 0) ∧
    (∀ y, (∀ j x, s.job j = some x → ¬status x y ∧ ¬results x y) →
      Memory.read t.port.memory y = Memory.read s.port.memory y) ∧
    (∀ n : CardNo, t.port.doneMap.getLsbD n.val = true ↔
      s.port.doneMap.getLsbD n.val = true ∨ ∃ j x, s.job j = some x ∧ x.card = n ∧ x.header.getD 2 0 &&& 1 = 1) ∧
    t.port = { s.port with
      memory := t.port.memory, cards := t.port.cards, doneMap := t.port.doneMap
      arrival := (List.finRange 32).filter fun n : CardNo => s.port.cards[n] = .posted
      figures := { s.port.figures with
        jobsRefusedM := raised s.port.figures.jobsRefusedM (jobsOf .m)
        jobsRefusedC := raised s.port.figures.jobsRefusedC (jobsOf .c)
        erasesAbandoned := raised s.port.figures.erasesAbandoned (if erasing then 1 else 0) } } ∧
    (∀ j, t.job j = none) ∧ t.engine.lane = none ∧ t.engine.laneWaiting = [] ∧ t.cipher = ⟨none, [], .c⟩ ∧
    (∀ i, t.slot i = ⟨.empty, 0, []⟩) ∧ t.slots.package = .empty ∧ t.settings = s.settings ∧
    t.time = s.time ∧ t.tamper = s.tamper ∧ t.authorities = s.authorities ∧ t.custody = s.custody ∧
    t.supply = { s.supply with activity := .active, standbyCount := 0, levelChanged := false } ∧ t.pending = s.pending ∧
    (∀ h, t.entry h = { s.entry h with
      writeList := ((s.entry h).writeList.filter fun w => w.owner.any inHand).map fun w => { w with owner := none } }) ∧
    t.store = { s.store with
      array := t.store.array, banks := t.store.banks, erase := none
      queue := s.store.queue.filter fun q => q = .timeMark ∨ q = .tamper .cover ∨ q = .tamper .field
      program := s.store.program.map fun p => { p with requester := p.requester.aborted }
      retry := s.store.retry.map fun r => { r with requester := r.requester.aborted }
      reclaim := match s.store.reclaim with
        | some ⟨b, .copy w, _⟩ => if s.store.program = none ∧ s.store.retry = none then none else some ⟨b, .copy w, true⟩
        | _ => none } ∧
    (∀ b : BankNo, t.store.banks[b] =
      if s.store.banks[b] = .erasing ∨ s.store.erase = some b then .needsErase else s.store.banks[b]) ∧
    ∀ l, s.store.erase ≠ some l.bank → rowAt t.store.array l = rowAt s.store.array l

/-- R3, R9, R13, R15, R19, R21, R26, R33, R38, R39, R144, R156, R160 to R162: COLD_START loses SRAM and begins STARTING. Of
the record store the array stands, but for a row in program and a bank being erased. Until the scan ends no command brings
anything into the blocks that the scan fills.
What the directory and the store's derived state show during STARTING is the model's choice (log entry 8). -/
def Obligations.ColdStartBeginsStarting : Prop :=
  (∀ (s : State) (cause : ColdCause) (residue : ProgramResidue),
    ∃ t, exec (.coldStart cause residue) s = .next t ∧ t.ScanDue ∧
      t.resetCtl.warmReset = false ∧
      t.resetCtl.cause = (match cause with
        | .powerOn => .powerOn
        | .brownOut => .brownOut) ∧
      (∀ n : CardNo, t.port.cards[n] = .free) ∧ t.port.arrival = [] ∧ t.port.memory = [] ∧ t.port.doneMap = 0 ∧
      t.port.control = 0 ∧ t.port.alert = 0 ∧ t.noteLow = false ∧
      t.port.windows.toList = ⟨0x2000, 0x1E00, true, true, false, false⟩ :: List.replicate 7 ⟨0, 0, false, false, false, false⟩ ∧
      t.settings = ⟨60, false, false⟩ ∧ t.time.stepMax = 900 ∧ t.time.drift = 0 ∧ t.time.subCount = 0 ∧
      t.supply.power = .mains ∧ t.supply.activity = .active ∧
      (∀ l, (∀ p, s.store.program = some p → p.location ≠ l) → s.store.erase ≠ some l.bank →
        rowAt t.store.array l = rowAt s.store.array l)) ∧
  ∀ (c : Instr) (s t : State), c ≠ .scanEnd → s.ScanDue → exec c s = .next t →
    t.ScanDue ∧ ((∀ a b, c ≠ .coldStart a b) → t.store = s.store)

/-- R162, R163, R165, R168, R143, R144, R21, R23, R126: SCAN_END restores TT from the stamps of the counted rows and the next seq
from the valid rows, sets the bank states, the HEAD and the append position, counts the torn rows of the HEAD and FULL banks, and
enters READY. It reads the array and changes none of it. -/
def Obligations.ScanEndRestoresThePart : Prop :=
  ∀ s : State, s.ScanDue →
    let a := s.store.array
    let rows := countedRows a
    (rows.map fun r => r.2.seq).Nodup →
    let blank := fun b : BankNo => ∀ n : RowNo, rowAt a ⟨b, n⟩ = .blank
    let holds := fun b : BankNo => ∃ r ∈ rows, r.1.bank = b
    let newest := fun b : BankNo => ∃ r ∈ rows, r.1.bank = b ∧ ∀ r' ∈ rows, r'.2.seq ≤ r.2.seq
    let heads := fun b : BankNo =>
      (newest b ∧ rowAt a ⟨b, 63⟩ = .blank) ∨
      (∃ n k : BankNo, newest n ∧ rowAt a ⟨n, 63⟩ ≠ .blank ∧ k ≠ 0 ∧ b = n + k ∧ blank b ∧
        ∀ m : BankNo, m ≠ 0 → m < k → ¬blank (n + m)) ∨
      (rows = [] ∧ blank b ∧ ∀ b' : BankNo, b' < b → ¬blank b')
    ∃ t, exec .scanEnd s = .next t ∧
      t = { s with
        resetCtl := { s.resetCtl with part := .ready }, port := t.port, directory := t.directory, authorities := t.authorities
        custody := t.custody, store := t.store, time := t.time, tamper := t.tamper } ∧
      t.store = { s.store with
        banks := t.store.banks, headBank := t.store.headBank, appendPos := t.store.appendPos, nextSeq := t.store.nextSeq
        fault := t.store.fault } ∧
      (∀ r ∈ rows, r.2.stamp ≤ t.time.tt) ∧ (t.time.tt = 0 ∨ ∃ r ∈ rows, r.2.stamp = t.time.tt) ∧
      t.time = { s.time with
        tt := t.time.tt, drift := 0, subCount := 0, secondsDue := 0, creditsDue := 0, lastStamp := t.time.tt, timeMark := .none } ∧
      (∀ r ∈ validRows a, r.2.seq < t.store.nextSeq) ∧
      (t.store.nextSeq = 0 ∨ ∃ r ∈ validRows a, r.2.seq + 1 = t.store.nextSeq) ∧
      (∀ b, heads b → t.store.headBank = b ∧ t.store.banks[b] = .head ∧ t.store.appendPos < 64 ∧
        (∀ n : RowNo, t.store.appendPos ≤ n.val → rowAt a ⟨b, n⟩ = .blank) ∧
        (∀ n : RowNo, n.val + 1 = t.store.appendPos → rowAt a ⟨b, n⟩ ≠ .blank)) ∧
      (∀ b, ¬heads b → (blank b → t.store.banks[b] = .erased) ∧ (¬blank b → holds b → t.store.banks[b] = .full) ∧
        (¬blank b → ¬holds b → t.store.banks[b] = .needsErase)) ∧
      (t.store.fault = true ↔ t.store.nextSeq = 0xFFFFFFFF ∨ ∀ b, ¬heads b) ∧
      (∀ b, b < 16 → t.port.alert.getLsbD b = match b with
        | 11 => t.store.fault
        | 12 => decide (0 < s.port.figures.cardFaults)
        | 15 => true
        | _ => false) ∧
      t.port = { s.port with
        alert := t.port.alert
        figures := { s.port.figures with
          nextSeq := t.store.nextSeq, erasedRows := t.store.erasedRows
          tornRows := ((List.finRange 8).map fun b : BankNo =>
            if t.store.banks[b] = .head ∨ t.store.banks[b] = .full then
              (List.finRange 64).countP fun n : RowNo => rowAt a ⟨b, n⟩ = .torn
            else 0).sum } }

/-- R166, R167, R70, R111 to R113, R116, R118, R120, R123, R156: what SCAN_END rebuilds from the counted rows, in ascending seq:
each directory entry, as its handle's rows leave it one after another, with the values of a cold start; each authority, custody
map, provisioning state and tamper setup from the latest row that carries it; the largest counter carried for an authority, with
its tag; each latch from the latest TAMPER row that no later UNLOCK row names.
That a COUNTER mark and a row of a fold clear no lapsed record is the model's choice (log entry 39). -/
def Obligations.ScanReplaysTheRows : Prop :=
  ∀ (s : State) (rows : List PlacedRow), s.ScanDue → rows.Perm (countedRows s.store.array) →
    rows.Pairwise (fun r r' => r.2.seq < r'.2.seq) →
    let latest := fun (r : PlacedRow) (f : Record → Prop) => r ∈ rows ∧ f r.2.record ∧ ∀ r' ∈ rows, f r'.2.record → r'.2.seq ≤ r.2.seq
    ∃ t, exec .scanEnd s = .next t ∧
      (∀ h,
        let e := (rows.filter fun r => decide (r.2.record.handle? = some h)).foldl HandleEntry.afterRow HandleEntry.vacant
        t.entry h = { e with
          current := e.current.map fun c => { c with
            txNext := c.txCeiling
            rx := match c.rxFloor with
              | none => ⟨none, 0⟩
              | some f => ⟨some f, BitVec.allOnes 32⟩ }
          staged := e.staged.map fun y => { y with rx := ⟨none, 0⟩ }
          retiring := e.retiring.map fun y => { y with rx := ⟨none, 0⟩ }
          touched := false, writeList := [], counterPending := none, counterFlight := none }) ∧
      (∀ k,
        let a := t.authority k
        let describes := fun r : Record => ∃ x, r = .authority k x
        let carries := fun (r : PlacedRow) (c : Nat) (tag : Option Tag) =>
          (∃ y, tag = some y ∧ r.2.header = ⟨some k, some (c, y)⟩) ∨
            ∃ x, r.2.record = .authority k x ∧ x.accepted = c ∧ x.lastTag = tag
        (∀ r x, latest r describes → r.2.record = .authority k x →
          a.defined = x.defined ∧ a.commandHandle = x.commandHandle ∧ a.transportHandle = x.transportHandle ∧
            a.timesetRight = x.timesetRight ∧ a.unlockRight = x.unlockRight ∧ a.lockUntil = x.lockUntil) ∧
        ((∀ r ∈ rows, ¬describes r.2.record) → a.defined = false ∧ a.commandHandle = 0 ∧ a.transportHandle = 0 ∧
          a.timesetRight = false ∧ a.unlockRight = false ∧ a.lockUntil = 0) ∧
        a.failCount = 0 ∧ (∀ r ∈ rows, ∀ c tag, carries r c tag → c ≤ a.accepted) ∧
        ((∃ r ∈ rows, ∃ c tag, carries r c tag) → ∃ r ∈ rows, carries r a.accepted a.lastTag) ∧
        ((∀ r ∈ rows, ∀ c tag, ¬carries r c tag) → a.accepted = 0 ∧ a.lastTag = none)) ∧
      (∀ r map, latest r (fun x => ∃ m, x = .custody m) → r.2.record = .custody map → t.custody.map = map) ∧
      ((∀ r ∈ rows, ∀ m, r.2.record ≠ .custody m) → ∀ i : Fin 8, t.custody.map[i] = ⟨0, 0, 0, 0, none⟩) ∧
      (∀ r cover field final, latest r (fun x => ∃ a b c, x = .setup a b c) → r.2.record = .setup cover field final →
        t.custody.final = final ∧ t.tamper.cover.setup = cover ∧ t.tamper.field.setup = field) ∧
      ((∀ r ∈ rows, ∀ a b c, r.2.record ≠ .setup a b c) →
        t.custody.final = false ∧ t.tamper.cover.setup = ⟨false, false, 1⟩ ∧ t.tamper.field.setup = ⟨false, false, 1⟩) ∧
      ∀ i,
        let x := t.tamper.input i
        let marks := fun r : Record => ∃ n, r = .tamper i n
        let clears := fun r : Record => ∃ c f, r = .unlock c f ∧ (match i with
          | .cover => c
          | .field => f) = true
        (x.latched = true ↔ ∃ r ∈ rows, marks r.2.record ∧ ∀ u ∈ rows, clears u.2.record → u.2.seq < r.2.seq) ∧
        (∀ r n, latest r marks → r.2.record = .tamper i n → x.latchTime = n) ∧
        x.mark = .none ∧ x.debounceCount = 0 ∧ x.level = none

/-! ## Intake and completion -/

/-- R24, R25: a card is takable as R25 gives, and intake takes the takable card nearest the head of the arrival list into a
free record, exactly while the part is READY and ACTIVE, no warm reset is carried out and a record is free. -/
def Obligations.IntakeTakesTheFirstTakableCard : Prop :=
  ∀ (s : State) (n : CardNo),
    (s.takable n = true ↔
      (List.finRange 6).countP (fun j => (s.job j).any fun x => decide (x.card.val < 16 ↔ n.val < 16)) < 4 ∧
      (n.val < 16 ∨ s.settings.admitC = true) ∧
      (s.supply.power = .mains ∨ (1 ≤ (s.kindByte n).toNat ∧ (s.kindByte n).toNat ≤ 5))) ∧
    ((∃ j, s.nextTake = some (n, j)) ↔
      (s.resetCtl.part = .ready ∧ s.supply.activity = .active ∧ s.resetCtl.warmReset = false) ∧ (∃ j, s.job j = none) ∧
      ∃ before behind, s.port.arrival = before ++ n :: behind ∧ s.takable n = true ∧ ∀ m ∈ before, s.takable m = false) ∧
    ∀ j, s.nextTake = some (n, j) → s.job j = none

/-- R10, R17, R23, R34, R35: what a completion of card `n` writes. The status and the notes stand in the header, each result field
of the kind holds its value, zero unless the status is OK or ALREADY_APPLIED, the output stands over the payload range for OK,
and every other byte, every other card and the arrival list stand. The counters of the status page count it by its group and its
status. A CHECK that ends TAG_BAD, REPLAY or TOO_OLD raises FRAME_REJECT, and a package that locks its authority AUTH_LOCK. -/
def Obligations.CompletionWritesTheCard : Prop :=
  (∀ (p : Port) (n : CardNo) (k : Kind) (notify : Bool) (st : Status) (notes event : BitVec 16) (values : List Nat)
    (at_ : Nat) (out : List Byte), Memory.wf p.memory = true →
    let q := p.completed n (resultFields k) notify st notes event values at_ out
    let good := st = .ok ∨ st = .alreadyApplied
    let written := st = .ok ∧ 0x2000 ≤ at_ ∧ at_ + out.length ≤ 0x3E00
    let next := fun m : Nat => min (m + 1) 0xFFFFFFFF
    Memory.readBytes q.memory (cardBase n + 8) 4 = leBytes 2 st.code ++ leBytes 2 notes.toNat ∧
    (∀ f ∈ layFields (resultFields k) (if good then values else []),
      Memory.readBytes q.memory (cardBase n + f.1) f.2.length = f.2) ∧
    (written → Memory.readBytes q.memory at_ out.length = out) ∧
    (∀ y, ¬(cardBase n + 8 ≤ y ∧ y < cardBase n + 12) →
      (∀ f ∈ resultFields k, ¬(cardBase n + f.1 ≤ y ∧ y < cardBase n + f.1 + f.2)) →
      ¬(written ∧ at_ ≤ y ∧ y < at_ + out.length) → Memory.read q.memory y = Memory.read p.memory y) ∧
    q.cards = p.cards.set n .done ∧ q.arrival = p.arrival ∧ q.windows = p.windows ∧ q.control = p.control ∧
    q.alert = p.alert ||| notes ||| event ∧
    (∀ m : CardNo, q.doneMap.getLsbD m.val = ((notify && decide (m = n)) || p.doneMap.getLsbD m.val)) ∧
    q.figures = { p.figures with
      jobsOkM := if good ∧ n.val < 16 then next p.figures.jobsOkM else p.figures.jobsOkM
      jobsRefusedM := if ¬good ∧ n.val < 16 then next p.figures.jobsRefusedM else p.figures.jobsRefusedM
      jobsOkC := if good ∧ 16 ≤ n.val then next p.figures.jobsOkC else p.figures.jobsOkC
      jobsRefusedC := if ¬good ∧ 16 ≤ n.val then next p.figures.jobsRefusedC else p.figures.jobsRefusedC
      tagFailures := if st = .tagBad then next p.figures.tagFailures else p.figures.tagFailures
      replays := if st = .replay ∨ st = .tooOld then next p.figures.replays else p.figures.replays }) ∧
  ∀ (k : Kind) (st : Status) (notes : BitVec 16) (b : Nat), b < 16 →
    ((completionEvent k st notes).getLsbD b = true ↔
      (b = 13 ∧ k = .check ∧ (st = .tagBad ∨ st = .replay ∨ st = .tooOld)) ∨
        (b = 14 ∧ k = .package ∧ notes.getLsbD 8 = true))

/-- R28, R29: a card of a known kind that fails the checks at take is completed at once with their first refusal, without
notes and with zero result fields; a card of no kind is completed KIND_UNKNOWN. No record stays in use. -/
def Obligations.RefusalAtTakeCompletesTheCard : Prop :=
  (∀ (s : State) (n : CardNo) (j : JobId) (k : Kind) (st : Status), s.nextTake = some (n, j) →
    kindOfByte (s.kindByte n) = some k → checkAtTake s.port.windows (s.snapshot n k) = some st →
    ∃ t, exec k.command s = .next t ∧
      t.port = (s.port.take n).completed n (resultFields k) (s.snapshot n k).notify st 0 0 [] (s.snapshot n k).rangeOffset [] ∧
      (∀ j', t.job j' = s.job j') ∧ s.sameElsewhere t ∧ (∀ i, (t.slot i).state = (s.slot i).state) ∧
      ∀ h, t.entry h = { s.entry h with writeList := (t.entry h).writeList }) ∧
  ∀ (s : State) (n : CardNo) (j : JobId), s.nextTake = some (n, j) → kindOfByte (s.kindByte n) = none →
    exec .kindUnknownRefusal s = .next { s with
      port := (s.port.take n).completed n [] ((Memory.read s.port.memory (cardBase n + 2)).getLsbD 0) .kindUnknown 0 0 [] 0 [] }

/-- R15, R16, R28, R29: the checks at take of a card of a known kind, each refusal with the exact condition that gives it, and
the window check: it passes exactly if every byte of the range lies in an enabled window granting the read right to the card's
group, and with ENCIPHER or DECIPHER also in one granting the write right, for windows as R18 admits them. -/
def Obligations.ChecksAtTakeComeInOrder : Prop :=
  ∀ (ws : Vector Window 8) (x : Job),
    let verdict := checkAtTake ws x
    let groupM := x.card.val < 16
    let only := x.kind = .settings ∨ x.kind = .windows
    let slot := (x.header.getD 3 0).toNat < 4
    let handle := (x.header.getD 4 0).toNat < 48
    let from_ := u16At x.body 0
    let length := if x.kind = .package then 128 else u16At x.body 2
    let inside := 0x2000 ≤ from_ ∧ from_ + length ≤ 0x3E00
    let entry := fun i : Nat => let at_ := u16At x.body (8 * i)
      let len := u16At x.body (8 * i + 2)
      (len = 0 ∨ (at_ % 16 = 0 ∧ len % 16 = 0 ∧ 0x2000 ≤ at_ ∧ at_ + len ≤ 0x3E00)) ∧ (x.body.getD (8 * i + 4) 0).toNat < 16
    let inRange := match x.kind with
      | .openKey => slot ∧ handle
      | .closeSlot => slot
      | .sign | .check => slot ∧ handle ∧ 1 ≤ length ∧ length ≤ 1024 ∧ inside
      | .query => handle
      | .package => inside
      | .time => True
      | .settings => u16At x.body 0 ≤ 3600 ∧ 60 ≤ u32At x.body 4 ∧ u32At x.body 4 ≤ 86400
      | .windows => ∀ i, i < 8 → entry i
    let fields := x.header.getD 5 0 = 0 ∧ inRange
    let names := x.kind = .sign ∨ x.kind = .check ∨ x.kind = .package
    let granted := fun (write : Bool) (b : Nat) => ∃ w ∈ ws.toList, w.offset ≤ b ∧ b < w.offset + w.length ∧
      (if groupM then (if write then w.mWrite else w.mRead) else (if write then w.cWrite else w.cRead)) = true
    (verdict = some .groupDenied ↔ only ∧ ¬groupM) ∧
    (verdict = some .fieldBad ↔ ¬(only ∧ ¬groupM) ∧ ¬fields) ∧
    (verdict = some .windowDenied ↔ ¬(only ∧ ¬groupM) ∧ fields ∧ names ∧ windowCheck ws x = false) ∧
    (verdict = none ↔ ¬(only ∧ ¬groupM) ∧ fields ∧ (names → windowCheck ws x = true)) ∧
    ((∀ w ∈ ws.toList, w.length ≠ 0 → w.offset % 16 = 0 ∧ w.length % 16 = 0) →
      (windowCheck ws x = true ↔ ∀ b, from_ ≤ b → b < from_ + length →
        granted false b ∧ (x.header.getD 2 0 &&& 4 ≠ 0 → x.kind = .sign ∨ x.kind = .check → granted true b)))

/-- R68, R69, R58, R60: QUERY completes OK with the fields of the entry as they stand, and clears touched under
CLEAR_TOUCHED; nothing else changes, where nothing refers to the free record that it takes. -/
def Obligations.QueryReportsTheEntry : Prop :=
  ∀ (s : State) (n : CardNo) (j : JobId), s.Takes n j .query →
    let x := s.snapshot n .query
    let e := s.entry x.handle
    let staged := e.staged.filter fun g => decide (s.time.tt < g.deadline)
    let retiring := e.retiring.filter fun g => decide (s.time.tt < g.graceEnd)
    let high := e.current.bind fun c => c.rx.high
    let phase := if staged.isSome then 2 else if retiring.isSome then 3 else if e.current.isSome then 1 else 0
    let condition := fun c : CurrentGen => if c.expiry ≤ s.time.tt then 1 else if c.signLimit ≤ c.txNext then 2 else 0
    let writePending := e.writeList ≠ [] ∨ e.counterPending ≠ none ∨ e.counterFlight ≠ none
    let ofCurrent := fun f : CurrentGen → Nat => (e.current.map f).getD 0
    ∃ t, exec .takeQuery s = .next t ∧
      t.port = (s.port.take n).jobDone x .ok
        [phase, (if e.touched then 1 else 0) + (if writePending then 2 else 0) + (if high.isSome then 4 else 0),
          e.highestGen, ofCurrent (·.gen), ofCurrent condition, roleCode e.role, ofCurrent (·.expiry),
          (staged.map (·.gen)).getD 0, (staged.map fun g => g.authority.val).getD 0, (staged.map (·.deadline)).getD 0,
          (retiring.map (·.gen)).getD 0, (retiring.map (·.graceEnd)).getD 0, ofCurrent (·.txNext), ofCurrent (·.txCeiling),
          ofCurrent (·.signLimit), high.getD 0, ofCurrent (·.issuedAt)] ∧
      (∀ h, t.entry h = if h = x.handle ∧ x.option = true then { e with touched := false } else s.entry h) ∧
      (∀ j', t.job j' = s.job j') ∧ s.sameElsewhere t ∧
      (∀ i, t.slot i = { s.slot i with list := (s.slot i).list.filter (· != j) }) ∧ t.slots.package = s.slots.package ∧
      (s.engine.lane ≠ some j → t.engine.lane = s.engine.lane) ∧
      t.engine.laneWaiting = s.engine.laneWaiting.filter (· != j) ∧
      ((∀ r ∈ s.cipher.waiting, r.byJob j = false) → (∀ r, s.cipher.running = some r → r.op.byJob j = false) →
        t.cipher = s.cipher)

/-- R145: TIME moves TT and D by the table, and completes OK with TT and D as they stand after it; nothing else of the time
base changes. -/
def Obligations.TimeJobMovesTrustedTime : Prop :=
  ∀ (s : State) (n : CardNo) (j : JobId), s.Takes n j .time →
    let x := s.snapshot n .time
    let offered := x.offeredTime
    let tt := s.time.tt
    let d := s.time.drift
    let tt' := if offered ≤ tt then tt else if offered - tt ≤ d then min offered 0xFFFFFFFE else min (tt + d) 0xFFFFFFFE
    let d' := if offered ≤ tt then d else if offered - tt ≤ d then d - (offered - tt) else 0
    let note := if offered < tt then noteClockBehind else if d < offered - tt then noteClockClamped else 0
    ∃ t, exec .takeTime s = .next t ∧ t.time = { s.time with tt := tt', drift := d' } ∧
      t.port = (s.port.take n).jobDone { x with notes := note } .ok [tt', d'] ∧
      (∀ j', t.job j' = s.job j') ∧ t.store = s.store ∧ t.settings = s.settings ∧ t.authorities = s.authorities ∧
      ∀ h, t.entry h = s.entry h

/-- R37, R18: SETTINGS sets the idle limit, step_max and ADMIT_C, holds D within step_max, sets SETTINGS_SEEN, and completes
OK; WINDOWS replaces the window table as a whole, and completes OK. -/
def Obligations.SettingsAndWindowsJobsApply : Prop :=
  (∀ (s : State) (n : CardNo) (j : JobId), s.Takes n j .settings →
    let x := s.snapshot n .settings
    ∃ t, exec .takeSettings s = .next t ∧ t.settings = ⟨x.idleLimit, x.admitBit, true⟩ ∧
      t.time = { s.time with stepMax := x.stepMax, drift := min s.time.drift x.stepMax } ∧
      t.port = (s.port.take n).jobDone x .ok [] ∧
      (∀ j', t.job j' = s.job j') ∧ t.store = s.store ∧ t.supply = s.supply ∧
      (∀ h, t.entry h = s.entry h) ∧ ∀ i, (t.slot i).state = (s.slot i).state ∧ (t.slot i).idle = (s.slot i).idle) ∧
  ∀ (s : State) (n : CardNo) (j : JobId), s.Takes n j .windows →
    let x := s.snapshot n .windows
    ∃ t, exec .takeWindows s = .next t ∧
      t.port = ({ s.port.take n with windows := t.port.windows }).jobDone x .ok [] ∧
      (∀ i : Fin 8, t.port.windows[i] = ⟨u16At x.body (8 * i.val), u16At x.body (8 * i.val + 2), bitAt x.body (8 * i.val + 4) 0,
        bitAt x.body (8 * i.val + 4) 1, bitAt x.body (8 * i.val + 4) 2, bitAt x.body (8 * i.val + 4) 3⟩) ∧
      (∀ j', t.job j' = s.job j') ∧ s.sameElsewhere t ∧ ∀ h, t.entry h = s.entry h

/-! ## Working slots -/

/-- R42, steps 1 to 5, and R57, R59, R60: which generation an OPEN may open, and each refusal with the exact condition that
gives it. R73: which SIGN is refused NOT_CURRENT, USE_DENIED, KEY_EXPIRED or KEY_SPENT, the first that applies. -/
def Obligations.OpenAndSignAreJudgedInOrder : Prop :=
  (∀ (e : HandleEntry) (tt gen : Nat) (m latched : Bool),
    let verdict := judgeOpen e tt gen (if m then .m else .c) latched
    let live := fun g : Nat => (∃ c, e.current = some c ∧ c.gen = g) ∨ (∃ c, e.staged = some c ∧ c.gen = g ∧ tt < c.deadline) ∨
      ∃ c, e.retiring = some c ∧ c.gen = g ∧ tt < c.graceEnd
    let policy := fun g : Nat => if e.current.any (fun c => c.gen = g) then (e.current.map (·.policy)).getD Policy.empty
      else if e.staged.any (fun c => c.gen = g ∧ tt < c.deadline) then (e.staged.map (·.policy)).getD Policy.empty
      else (e.retiring.map (·.policy)).getD Policy.empty
    let resolved := fun g : Nat => (gen = 0 ∧ ∃ c, e.current = some c ∧ c.gen = g) ∨ (gen ≠ 0 ∧ gen = g ∧ live g)
    let hostRole := e.role ≠ some .authCmd ∧ e.role ≠ some .authTransport
    let allowed := fun g : Nat => (if m then (policy g).signM || (policy g).checkM else (policy g).signC || (policy g).checkC) = true
    let locked := fun g : Nat => (policy g).tamperLock = true ∧ latched = true
    let passes4 := fun g : Nat => resolved g ∧ hostRole ∧ allowed g ∧ ¬locked g
    (verdict = .error .noKey ↔ ∀ g, ¬resolved g) ∧
    (verdict = .error .roleDenied ↔ (∃ g, resolved g) ∧ ¬hostRole) ∧
    (verdict = .error .useDenied ↔ hostRole ∧ ∃ g, resolved g ∧ ¬allowed g) ∧
    (verdict = .error .tamperLock ↔ hostRole ∧ ∃ g, resolved g ∧ allowed g ∧ locked g) ∧
    (verdict = .error .keyExpired ↔ ∃ c, e.current = some c ∧ passes4 c.gen ∧ c.expiry ≤ tt) ∧
    (verdict = .error .keySpent ↔ ∃ c, e.current = some c ∧ passes4 c.gen ∧ tt < c.expiry ∧ c.signLimit ≤ c.txNext) ∧
    ∀ g, verdict = .ok g ↔ passes4 g ∧ ∀ c, e.current = some c → c.gen = g → tt < c.expiry ∧ c.txNext < c.signLimit) ∧
  ∀ (e : HandleEntry) (tt g : Nat) (m encipher : Bool),
    let current := ∃ c, e.current = some c ∧ c.gen = g
    let allowed := ∃ c, e.current = some c ∧ c.gen = g ∧ (if m then c.policy.signM else c.policy.signC) = true ∧
      (encipher = true → c.policy.payload = true)
    let verdict := judgeSign e tt g (if m then .m else .c) encipher
    (verdict = .error .notCurrent ↔ ¬current) ∧ (verdict = .error .useDenied ↔ current ∧ ¬allowed) ∧
    (verdict = .error .keyExpired ↔ allowed ∧ ∃ c, e.current = some c ∧ c.expiry ≤ tt) ∧
    (verdict = .error .keySpent ↔ allowed ∧ ∃ c, e.current = some c ∧ tt < c.expiry ∧ c.signLimit ≤ c.txNext) ∧
    ∀ c, verdict = .ok c ↔ allowed ∧ e.current = some c ∧ tt < c.expiry ∧ c.txNext < c.signLimit

/-- R42, R43, R40: an OPEN that finds its slot EMPTY and passes R42 starts the opening and keeps the front; one that finds
its own key OPEN completes OK with ALREADY_OPEN; one that finds another key completes SLOT_BUSY; one that fails completes
with the refusal. R45, R48: a CLOSE that finds its slot EMPTY completes OK; one that finds it OPEN wipes it and keeps the
front. In each case no other job is in hand. R40, R41: an OPEN, CLOSE, SIGN or CHECK taken behind other jobs of its slot, or
against a CLOSING one, joins the tail of its slot's list and waits, whatever else is in hand. When a CLOSE completes with the end
of its wipe, the OPEN or CLOSE behind it is served; when a SIGN completes, the CLOSE behind it is.
That a CLOSE keeps its step, and so the wait reason SLOT, while its own wipe goes on is the model's choice (log entry 46). -/
def Obligations.OpenAndCloseAreServedAtTheFront : Prop :=
  (∀ (s : State) (n : CardNo) (j : JobId) (k : Kind), k ∈ [.openKey, .closeSlot, .sign, .check] → s.Takes n j k → s.Still →
    (∀ i, j ∉ (s.slot i).list) →
    let x := s.snapshot n k
    (s.slot x.slotNo).list ≠ [] ∨ (∃ since, (s.slot x.slotNo).state = .closing since) →
    exec k.command s = .next (((s.onPort fun p => p.take n).setJob j (some x)).onSlot x.slotNo fun u =>
      { u with list := u.list ++ [j] })) ∧
  (∀ (s : State) (n : Fin 4) (j j' : JobId) (x y : Job), s.OnlyJobs j x j' y → s.ListsAre n [j, j'] →
    y.step = .slotQueue →
    (∀ since, (s.slot n).state = .closing since → since < s.time.milli → x.kind = .closeSlot → x.step = .slotQueue →
      let first := s.port.jobDone x .ok []
      let verdict := judgeOpen (s.entry y.handle) s.time.tt y.genField y.group s.anyLatch
      let ends := fun (port : Port) => ∃ t, exec (.wipeCompletion (.host n)) s = .next t ∧ t.port = port ∧
        (∀ i, t.job i = none) ∧ t.slot n = ⟨.empty, 0, []⟩ ∧ s.sameElsewhere t
      (y.kind = .closeSlot → ends (first.jobDone y .ok [])) ∧
      (∀ st, y.kind = .openKey → verdict = .error st → ends (first.jobDone y st [])) ∧
      ∀ g, y.kind = .openKey → verdict = .ok g → ∃ t, exec (.wipeCompletion (.host n)) s = .next t ∧ t.port = first ∧
        (∀ i, t.job i = if i = j' then some { y with step := .opening } else none) ∧ s.sameElsewhere t ∧
        t.slot n = ⟨.reading y.handle g (s.readAsked y.handle g), 0, [j']⟩) ∧
    ∀ key h g p m, s.CoreEnds (.sign j key) → x.kind = .sign → x.matched = true → x.slotNo = n →
      (s.slot n).state = .opened h g p m → y.kind = .closeSlot → ∃ t, exec .signOperationEnd s = .next t ∧
        (∀ i, t.job i = if i = j' then some y else none) ∧ t.slot n = ⟨.closing s.time.milli, 0, [j']⟩ ∧
        t.port.cards[x.card] = .done ∧ s.sameElsewhere t) ∧
  (∀ (s : State) (n : CardNo) (j : JobId), s.Takes n j .openKey → s.NoJob →
    let x := s.snapshot n .openKey
    let e := s.entry x.handle
    let verdict := judgeOpen e s.time.tt x.genField x.group s.anyLatch
    let completes := fun (y : Job) (st : Status) (values : List Nat) (t : State) =>
      t.port = (s.port.take n).jobDone y st values ∧ t.NoJob ∧ s.sameElsewhere t ∧ ∀ h, t.entry h = s.entry h
    (∀ st, verdict = .error st → ∃ t, exec .takeOpen s = .next t ∧ completes x st [] t ∧ t.slots = s.slots) ∧
    (∀ g, verdict = .ok g →
      (s.slotState (.host x.slotNo) = .empty →
        let start := match e.locationOf g with
          | some l => if s.store.bankBusy l.bank then none else some l
          | none => none
        exec .takeOpen s = .next (((s.onPort fun p => p.take n).setJob j (some { x with step := .opening })).onSlot x.slotNo
          fun _ => ⟨.reading x.handle g start, 0, [j]⟩)) ∧
      ∀ h g' p k, s.slotState (.host x.slotNo) = .opened h g' p k →
        (h = x.handle ∧ g' = g → ∃ t, exec .takeOpen s = .next t ∧
          completes { x with notes := noteAlreadyOpen } .ok [g, roleCode e.role] t ∧
          ∀ i, t.slot i = if i = x.slotNo then { s.slot i with idle := 0 } else s.slot i) ∧
        (¬(h = x.handle ∧ g' = g) → ∃ t, exec .takeOpen s = .next t ∧ completes x .slotBusy [] t ∧ t.slots = s.slots))) ∧
  ∀ (s : State) (n : CardNo) (j : JobId), s.Takes n j .closeSlot → s.NoJob →
    let x := s.snapshot n .closeSlot
    (s.slotState (.host x.slotNo) = .empty → ∃ t, exec .takeClose s = .next t ∧
      t.port = (s.port.take n).jobDone x .ok [] ∧ t.NoJob ∧ s.sameElsewhere t ∧ t.slots = s.slots ∧
      ∀ h, t.entry h = s.entry h) ∧
    ∀ h g p k, s.slotState (.host x.slotNo) = .opened h g p k →
      exec .takeClose s = .next (((s.onPort fun p => p.take n).setJob j (some x)).onSlot x.slotNo
        fun _ => ⟨.closing s.time.milli, 0, [j]⟩)

/-- R46, steps 1 to 3: a SIGN or CHECK completes SLOT_EMPTY against an EMPTY slot, SLOT_MISMATCH against a slot that holds
another handle or generation, and NO_KEY, with the slot wiped, against a generation that is not live. R79, R32: a CHECK whose
generation grants the group its right begins its tag comparison in an idle core and waits for a busy one; without the right it
completes USE_DENIED. R40, R41: a use behind a CLOSE completes SLOT_EMPTY when the wipe ends; a CHECK behind a SIGN begins its
comparison when the SIGN completes, and waits where the SIGN's AUTO_CLOSE wipes the slot. -/
def Obligations.UsesAreJudgedAgainstTheSlot : Prop :=
  (∀ (s : State) (n : Fin 4) (j j' : JobId) (x y : Job), s.OnlyJobs j x j' y → s.ListsAre n [j, j'] →
    y.step = .slotQueue →
    (∀ since, (s.slot n).state = .closing since → since < s.time.milli → x.kind = .closeSlot → x.step = .slotQueue →
      y.kind = .sign ∨ y.kind = .check → y.matched = false → ∃ t, exec (.wipeCompletion (.host n)) s = .next t ∧
        t.port = (s.port.jobDone x .ok []).jobDone y .slotEmpty [] ∧ (∀ i, t.job i = none) ∧ t.slot n = ⟨.empty, 0, []⟩ ∧
        s.sameElsewhere t) ∧
    ∀ key g p m st, s.CoreEnds (.sign j key) → x.kind = .sign → x.matched = true → x.slotNo = n →
      (s.slot n).state = .opened y.handle g p m → y.kind = .check → y.slotNo = n → y.genField = 0 ∨ y.genField = g →
      (s.entry y.handle).standing s.time.tt g = some st →
      let policy := (s.entry y.handle).policyAt st
      (if y.card.val < 16 then policy.checkM else policy.checkC) = true → (y.option = true → policy.payload = true) →
      ∃ t, exec .signOperationEnd s = .next t ∧ t.port.cards[x.card] = .done ∧ s.sameElsewhere t ∧
        (x.autoClose = false →
          (∀ i, t.job i = if i = j' then some { y with step := .checkRun, matched := true, gen := g } else none) ∧
          t.slot n = ⟨.opened y.handle g p m, 0, [j']⟩ ∧
          t.cipher = ⟨some ⟨.check j' m, false⟩, [], if y.card.val < 16 then .m else .c⟩) ∧
        (x.autoClose = true → (∀ i, t.job i = if i = j' then some y else none) ∧
          t.slot n = ⟨.closing s.time.milli, 0, [j']⟩ ∧ t.cipher.running = none)) ∧
  (∀ (s : State) (n : CardNo) (j : JobId) (k : Kind), k = .sign ∨ k = .check → s.Takes n j k → s.NoJob →
    let x := s.snapshot n k
    let refused := fun (st : Status) (t : State) => exec k.command s = .next t ∧
      t.port = (s.port.take n).jobDone x st [] ∧ t.NoJob ∧ s.sameElsewhere t
    (s.slotState (.host x.slotNo) = .empty → ∃ t, refused .slotEmpty t ∧ t.slots = s.slots) ∧
    ∀ h g p key, s.slotState (.host x.slotNo) = .opened h g p key →
      (x.handle ≠ h ∨ (x.genField ≠ 0 ∧ x.genField ≠ g) → ∃ t, refused .slotMismatch t ∧ t.slots = s.slots) ∧
      (x.handle = h → x.genField = 0 ∨ x.genField = g → (s.entry h).standing s.time.tt g = none →
        ∃ t, refused .noKey t ∧ (t.slot x.slotNo).state = .closing s.time.milli ∧ (t.slot x.slotNo).idle = 0)) ∧
  ∀ (s : State) (n : CardNo) (j : JobId) (g : Nat) (p : Policy) (key : List Byte) (st : Standing),
    s.Takes n j .check → s.NoJob →
    let x := s.snapshot n .check
    s.slotState (.host x.slotNo) = .opened x.handle g p key → x.genField = 0 ∨ x.genField = g →
    (s.entry x.handle).standing s.time.tt g = some st →
    let policy := (s.entry x.handle).policyAt st
    let allowed := (if x.card.val < 16 then policy.checkM else policy.checkC) = true ∧ (x.option = true → policy.payload = true)
    (allowed → exec .takeCheck s = .next ((((s.onPort fun q => q.take n).setJob j (some { x with
        step := if s.cipher.running = none then .checkRun else .checkWait, matched := true, gen := g })).onSlot x.slotNo
        fun u => { u with list := [j] }).onCipher fun q =>
          if s.cipher.running = none then
            { q with running := some ⟨.check j key, false⟩, lastGroup := if x.card.val < 16 then .m else .c }
          else { q with waiting := q.waiting ++ [.use j] })) ∧
    (¬allowed → ∃ t, exec .takeCheck s = .next t ∧ t.port = (s.port.take n).jobDone x .useDenied [] ∧ t.NoJob ∧
      (x.autoClose = true → (t.slot x.slotNo).state = .closing s.time.milli) ∧
      (x.autoClose = false → t.slot x.slotNo = { s.slot x.slotNo with idle := 0 }))

/-- R73, R74: a SIGN that passes is issued tx_next, which rises by 1, the notes are judged, and its operation begins in an idle
core with the slot's key, or waits for a busy one. R77, R66: the issue asks for a raise to min(tx_ceiling + 256, sign_limit) where
64 counters or fewer remain and none is on its way. R75: a SIGN that finds tx_next at the ceiling keeps the front of its list and
waits, with the same ask; R78: in FAULT, where the ask is refused, it completes STORE_FAULT. R40, R41: a SIGN behind another SIGN of its slot is issued
the next counter when that one completes, and its operation begins. -/
def Obligations.SignIsIssuedACounterOrAsksForARaise : Prop :=
  (∀ (s : State) (n : Fin 4) (j j' : JobId) (x y : Job) (g : Nat) (p : Policy) (key m : List Byte) (c : CurrentGen),
    s.OnlyJobs j x j' y → s.ListsAre n [j, j'] → s.CoreEnds (.sign j key) → x.kind = .sign → x.matched = true →
    x.autoClose = false → x.slotNo = n → y.kind = .sign → y.step = .slotQueue → y.slotNo = n →
    (s.slot n).state = .opened y.handle g p m → y.genField = 0 ∨ y.genField = g →
    (s.entry y.handle).current = some c → c.gen = g → (if y.card.val < 16 then c.policy.signM else c.policy.signC) = true →
    (y.option = true → c.policy.payload = true) → s.time.tt < c.expiry → c.txNext < c.signLimit → c.txNext < c.txCeiling →
    c.txCeiling = c.signLimit ∨ c.txNext + 65 < c.txCeiling →
    ∃ t z, exec .signOperationEnd s = .next t ∧ t.port.cards[x.card] = .done ∧ s.sameElsewhere t ∧
      (∀ i, t.job i = if i = j' then some z else none) ∧ z.step = .signRun ∧ z.counter = c.txNext ∧ z.gen = g ∧
      z.card = y.card ∧ z.input = y.input ∧ (t.entry y.handle).current = some { c with txNext := c.txNext + 1 } ∧
      t.slot n = ⟨.opened y.handle g p m, 0, [j']⟩ ∧
      t.cipher = ⟨some ⟨.sign j' m, false⟩, [], if y.card.val < 16 then .m else .c⟩) ∧
  ∀ (s : State) (n : CardNo) (j : JobId) (g : Nat) (p : Policy) (key : List Byte) (c : CurrentGen),
    s.Takes n j .sign → s.NoJob → s.supply.activity = .active →
    let x := s.snapshot n .sign
    let e := s.entry x.handle
    let group : Machine.Group := if x.card.val < 16 then .m else .c
    let taken := fun y : Job => ((s.onPort fun q => q.take n).setJob j (some y)).onSlot x.slotNo fun u => { u with list := [j] }
    let raised := some (min (c.txCeiling + 256) c.signLimit)
    s.slotState (.host x.slotNo) = .opened x.handle g p key → x.genField = 0 ∨ x.genField = g →
    e.current = some c → c.gen = g → (if x.card.val < 16 then c.policy.signM else c.policy.signC) = true →
    (x.option = true → c.policy.payload = true) → s.time.tt < c.expiry → c.txNext < c.signLimit →
    (c.txNext < c.txCeiling →
      let c' := { c with txNext := c.txNext + 1 }
      let note := (if c.signLimit < c.txNext + 1 + 65536 then noteCounterLow else 0) |||
        (if c.expiry ≠ 0xFFFFFFFF ∧ c.expiry < s.time.tt + 604800 then noteExpiryNear else 0)
      let issued := ((taken { x with
          step := if s.cipher.running.isSome then .signWait else .signRun, matched := true, gen := g, counter := c.txNext
          notes := note }).onEntry x.handle fun e => { e with current := some c' }).onCipher
        fun q => q.useAsked j group (.sign j key)
      (¬e.raises c' → exec .takeSign s = .next issued) ∧
      (e.raises c' → exec .takeSign s = .next (issued.raiseAsked x.handle raised none))) ∧
    (c.txNext = c.txCeiling →
      let waits := taken { x with step := .counterWait, matched := true, gen := g }
      (¬e.raises c → exec .takeSign s = .next waits) ∧
      (e.raises c → s.store.fault = false ∨ e.counterPending.isSome = true →
        exec .takeSign s = .next (waits.raiseAsked x.handle raised none)) ∧
      (e.raises c → s.store.fault = true → e.counterPending = none → ∃ t, exec .takeSign s = .next t ∧
        t.port = (s.port.take n).jobDone x .storeFault [] ∧ t.NoJob ∧ t.store = s.store ∧
        ∀ h, t.entry h = { s.entry h with writeList := (t.entry h).writeList }))

/-- R43, R128: a waiting read of a slot, and of a fold, starts where its bank is neither being programmed nor erased, at the
location that the directory gives now; otherwise it goes on waiting. R44, R32: a slot's read that gives the KEY row of its
handle and generation asks for the class-1 unwrap, which begins in an idle core and waits for a busy one; any other read leaves
the slot EMPTY and completes its job STORE_FAULT. -/
def Obligations.RowReadsStartAndEnd : Prop :=
  (∀ (s : State) (h : HandleNo) (g : Nat) (l : Location), (s.entry h).locationOf g = some l →
    let busy := (∃ p, s.store.program = some p ∧ p.location.bank = l.bank) ∨ s.store.erase = some l.bank
    (∀ i, s.slotState i = .reading h g none →
      (¬busy → exec (.rowReadStart (.slot i)) s = .next (s.setSlotState i (.reading h g (some l)))) ∧
      (busy → exec (.rowReadStart (.slot i)) s = .next s)) ∧
    ∀ tail w, s.store.reclaim = some ⟨tail, .copy w, false⟩ → w.stage = .reading h g none →
      (¬busy → exec (.rowReadStart .fold) s = .next (s.onStore fun t =>
        { t with reclaim := some ⟨tail, .copy { w with stage := .reading h g (some l) }, false⟩ })) ∧
      (busy → exec (.rowReadStart .fold) s = .next s)) ∧
  ∀ (s : State) (i : SlotId) (h : HandleNo) (g : Nat) (l : Location), s.slotState i = .reading h g (some l) →
    (∀ d k, rowAt s.store.array l = .valid d → d.record = .key h g k →
      let t := s.setSlotState i (.unwrapping h g k.policy k.material)
      exec (.keyRowReadEnd i true) s = .next (t.onCipher fun c =>
        if s.cipher.running = none then { c with running := some ⟨.slotUnwrap i k.material, false⟩ }
        else { c with waiting := c.waiting ++ [.slotUnwrap i] })) ∧
    ∀ crcOk j x, crcOk = false ∨ (∀ d k, rowAt s.store.array l = .valid d → d.record ≠ .key h g k) →
      s.servedBy i = some j → s.OnlyJob j x →
      ∃ t, exec (.keyRowReadEnd i crcOk) s = .next t ∧ t.slotState i = .empty ∧ t.port = s.port.jobDone x .storeFault [] ∧
        (∀ j', t.job j' = none) ∧ s.sameElsewhere t

/-- R43, R44, R51: a host slot's unwrap ends with the slot OPEN and the OPEN completed OK; under a latch, with a TAMPER_LOCK
key, with the slot wiped and TAMPER_LOCK; with bad material, with the slot EMPTY and STORE_FAULT. R52, R94, R99: the unwrap of P
ends with P OPEN and the lane job's class-2 operation begun with the key, the tag comparison under a command key or the unwrap
under the transport key; with bad material, with P EMPTY and STORE_FAULT.
That the OPEN is completed OK though its generation may have left the directory meanwhile is the model's choice (log entry 24). -/
def Obligations.OpeningsEnd : Prop :=
  (∀ (s : State) (i : Fin 4) (h : HandleNo) (g : Nat) (p : Policy) (m m' : List Byte) (j : JobId) (x : Job),
    s.CoreEnds (.slotUnwrap (.host i) m) → s.slotState (.host i) = .unwrapping h g p m' → (s.slot i).list = [j] →
    s.OnlyJob j x →
    ∃ t, exec .slotUnwrapEnd s = .next t ∧ t.cipher.running = none ∧ (∀ j', t.job j' = none) ∧ s.sameElsewhere t ∧
      (t.slot i).idle = 0 ∧
      match Config.unwrapDeviceRoot m with
      | none => (t.slot i).state = .empty ∧ t.port = s.port.jobDone x .storeFault []
      | some key =>
        if p.tamperLock = true ∧ (s.tamper.cover.latched = true ∨ s.tamper.field.latched = true) then
          (t.slot i).state = .closing s.time.milli ∧ t.port = s.port.jobDone x .tamperLock []
        else
          (t.slot i).state = .opened h g p key ∧
            t.port = s.port.jobDone x .ok [g, ((s.entry h).role.map Role.code).getD 0]) ∧
  ∀ (s : State) (h : HandleNo) (g g' : Nat) (p : Policy) (m m' : List Byte) (j : JobId) (x : Job) (asked : LaneKey),
    s.CoreEnds (.slotUnwrap .package m) → s.slots.package = .unwrapping h g p m' → s.engine.lane = some j →
    s.engine.laneWaiting = [] → (∀ i, (s.slot i).list = []) → s.OnlyJob j x → x.step = .keyWait asked g' →
    match Config.unwrapDeviceRoot m with
    | none => ∃ t, exec .slotUnwrapEnd s = .next t ∧ t.port = s.port.jobDone x .storeFault [] ∧ (∀ j', t.job j' = none) ∧
      t.engine.lane = none ∧ t.slots = { s.slots with package := .empty } ∧ t.cipher.running = none ∧ s.sameElsewhere t
    | some key =>
      let begins := fun (step : JobStep) (op : CoreOp) => exec .slotUnwrapEnd s = .next (((s.onSlots fun u =>
        { u with package := .opened h g p key }).setJob j (some { x with step := step })).onCipher fun c =>
        { c with running := some ⟨op, false⟩ })
      match asked with
      | .commandCurrent => begins (.tagRun false) (.packageTag j key)
      | .commandRetiring => begins (.tagRun true) (.packageTag j key)
      | .transport => begins .unwrapRun (.stageUnwrap j key)

/-- R76, R47, R69, R72: a SIGN's operation ends with the job completed OK with its counter and its tag, under ENCIPHER with the
enciphered payload; touched is set, the idle timer returns to 0, and AUTO_CLOSE wipes the slot. -/
def Obligations.SignOperationCompletesTheJob : Prop :=
  ∀ (s : State) (j : JobId) (x : Job) (key : List Byte), s.CoreEnds (.sign j key) → s.OnlyJob j x → x.kind = .sign →
    x.matched = true →
    let role := ((s.entry x.handle).role.map Role.code).getD 0
    let sent := if x.option then
      (List.range x.input.length).map (Config.encipherByte key role x.handle.val x.gen x.counter x.input) else x.input
    let tag := Config.frameTag key role x.handle.val x.gen x.counter sent
    ∃ t, exec .signOperationEnd s = .next t ∧ t.cipher.running = none ∧ (∀ j', t.job j' = none) ∧ s.sameElsewhere t ∧
      t.port = s.port.jobDone { x with output := if x.option then sent else [] } .ok [x.counter, tag.toNat] ∧
      (∀ h, t.entry h = if h = x.handle then { s.entry h with touched := true } else s.entry h) ∧
      (t.slot x.slotNo).idle = 0 ∧
      (t.slot x.slotNo).state = match (s.slot x.slotNo).state with
        | .opened a b c d => if x.autoClose then .closing s.time.milli else .opened a b c d
        | other => other

/-- R80, R81, R83 to R87: a CHECK's comparison ends. A generation no longer live wipes the slot and completes NO_KEY; a wrong tag
completes TAG_BAD, and a counter that the window refuses REPLAY or TOO_OLD, each with the note of the standing; an accepted
counter enters the window. Under the current generation the floor check asks for rx_high as the floor where the floor is none or
lies 256 or more behind. With DECIPHER the decipher begins; without it the job completes OK, or asks for a confirm by use. -/
def Obligations.TagComparisonEnds : Prop :=
  ∀ (s : State) (j : JobId) (x : Job) (key : List Byte), s.CoreEnds (.check j key) → s.OnlyJob j x → x.kind = .check →
    x.step = .checkRun → x.matched = true → x.notes = 0 → s.engine.laneWaiting = [] →
    let e := s.entry x.handle
    let role := (e.role.map Role.code).getD 0
    ∃ t, exec .tagComparisonEnd s = .next t ∧
      match e.standing s.time.tt x.gen with
      | none => t.port = s.port.jobDone x .noKey [] ∧ ∀ a b c d, (t.slot x.slotNo).state ≠ .opened a b c d
      | some st =>
        let y := { x with notes := match st with
          | .current => 0
          | .staged => noteStagedUsed
          | .retiring => noteGraceUsed }
        let refused := fun status : Status => t.port = s.port.jobDone y status [] ∧ (∀ j', t.job j' = none) ∧ t.store = s.store ∧
          t.entry x.handle = { e with writeList := (t.entry x.handle).writeList }
        if Config.frameTag key role x.handle.val x.gen x.claimedCounter x.input = x.claimedTag then
          match (e.windowAt st).judge x.claimedCounter with
          | .replay => refused .replay
          | .tooOld => refused .tooOld
          | .accepted w =>
            (t.entry x.handle).windowAt st = w ∧
            (st ≠ .current → (t.entry x.handle).counterPending = e.counterPending) ∧
            (∀ c high, st = .current → e.current = some c → w.high = some high →
              let due := c.rxFloor.all fun f => decide (f + 256 ≤ high)
              let asked := if due then s.raiseAsked x.handle none (some high) else s
              (t.entry x.handle).counterPending = (asked.entry x.handle).counterPending ∧ t.store = asked.store) ∧
            (x.option = true → t.port = s.port ∧ t.job j = some { y with step := .decipherRun } ∧
              t.cipher = ⟨some ⟨.decipher j (s.keyIn (.host x.slotNo)), false⟩, [], if x.card.val < 16 then .m else .c⟩) ∧
            (x.option = false → s.CheckGoesOn t j y)
        else refused .tagBad

/-- R81, R82: the window accepts a counter exactly if it lies above rx_high, or at most 32 below it and unseen; what is seen
afterwards is what was seen before and within 32 of the new rx_high, the old rx_high, and the counter itself. -/
def Obligations.WindowAcceptsEachCounterOnce : Prop :=
  ∀ (w : RxWindow) (m : Nat),
    let used := fun (v : RxWindow) (k : Nat) => v.high = some k ∨ v.hasSeen k = true
    (w.judge m = .replay ↔ used w m) ∧
    (w.judge m = .tooOld ↔ ∃ h, w.high = some h ∧ m + 32 < h) ∧
    ∀ v, w.judge m = .accepted v →
      (∃ h, v.high = some h ∧ m ≤ h ∧ (∀ h', w.high = some h' → h = max h' m) ∧ (w.high = none → h = m)) ∧
      ∀ k, used v k ↔ (used w k ∨ k = m) ∧ ∀ h, v.high = some h → h ≤ k + 32

/-- R83, R85, R86, R87, R72: a CHECK's decipher ends with the deciphered payload as the job's output. Without a confirm by use to
ask for, the job completes OK; else it joins the write list, and at its front asks for the CONFIRM mark of a staged generation still
present, or completes OK without writing. R65, R86: when the mark of a confirm by use becomes durable, the write behind it is
judged: a CHECK that confirms the same generation completes OK without writing, and a CONFIRM package of it NOT_STAGED.
That a confirm by use of a generation that is retiring by then completes OK without writing is the model's choice (log entry
47). -/
def Obligations.DecipherAndConfirmByUseEnd : Prop :=
  (∀ (s : State) (j j' : JobId) (x y : Job) (payload : Payload) (loc : Location) (d : RowData) (failures g ceiling : Nat)
      (w' : WriteEntry) (z : StagedGen),
    s.OnlyJobs j x j' y → s.store.program = some ⟨.confirmByUse (some j), payload, loc, d, failures⟩ →
    s.store.reclaim = none → d.record = .confirm x.handle g 0 ceiling → (s.entry x.handle).staged = some z → z.gen = g →
    d.stamp < z.deadline → x.kind = .check → x.step = .confirmStore → x.gen = g → s.engine.laneWaiting = [] →
    (∀ i, (s.slot i).list ⊆ [j, j']) → (s.entry x.handle).writeList = [⟨some j, .confirmByUse, g⟩, w'] → w'.owner = some j' →
    let first := ({ s.port with figures := s.figuresAfter }).jobDone { x with notes := x.notes ||| noteConfirmedByUse } .ok [g]
    let ends := fun port : Port => ∃ t, exec .appendCompletion s = .next t ∧ t.port = port ∧ (∀ i, t.job i = none) ∧
      (t.entry x.handle).writeList = []
    (y.kind = .check → y.handle = x.handle → y.step = .confirmWait → y.gen = g → ends (first.jobDone y .ok [g])) ∧
    (y.kind = .package → pkgKind y.input = .confirm → pkgHandle y.input = x.handle → y.step = .writeWait →
      s.engine.lane = some j' → ends (first.jobDone y .notStaged []))) ∧
  ∀ (s : State) (j : JobId) (x : Job) (key : List Byte), s.CoreEnds (.decipher j key) → s.OnlyJob j x → x.kind = .check →
    x.step = .decipherRun → x.matched = true → s.engine.laneWaiting = [] →
    let role := ((s.entry x.handle).role.map Role.code).getD 0
    let out := (List.range x.input.length).map
      (Config.decipherByte key role x.handle.val x.gen x.claimedCounter x.input)
    ∃ t, exec .decipherEnd s = .next t ∧ t.cipher.running = none ∧ s.CheckGoesOn t j { x with output := out }

/-- R48, R45, R49: an idle close wipes an OPEN host slot whose list is empty and whose timer has reached a limit other than 0,
and changes nothing otherwise. A wipe completes at the next milli-tick: the slot is EMPTY, and a CLOSE at the front completes
OK; within the milli-tick of its start it goes on. -/
def Obligations.IdleClosesAndWipes : Prop :=
  (∀ (s : State) (i : Fin 4) (h : HandleNo) (g : Nat) (p : Policy) (k : List Byte), (s.slot i).state = .opened h g p k →
    (s.settings.idleLimit ≠ 0 → (s.slot i).list = [] → s.settings.idleLimit ≤ (s.slot i).idle →
      exec (.idleClose i) s = .next (s.onSlot i fun u => { u with state := .closing s.time.milli, idle := 0 })) ∧
    (s.settings.idleLimit = 0 ∨ (s.slot i).list ≠ [] ∨ (s.slot i).idle < s.settings.idleLimit →
      exec (.idleClose i) s = .next s)) ∧
  ∀ (s : State) (i : SlotId) (since : Nat), s.slotState i = .closing since →
    (s.time.milli ≤ since → exec (.wipeCompletion i) s = .next s) ∧
    (since < s.time.milli → (∀ j, s.job j = none) → exec (.wipeCompletion i) s = .next (s.setSlotState i .empty)) ∧
    ∀ n j x, i = .host n → since < s.time.milli → (s.slot n).list = [j] → s.OnlyJob j x → x.kind = .closeSlot →
      x.step = .slotQueue → s.engine.lane = none → s.engine.laneWaiting = [] → (∀ m, m ≠ n → (s.slot m).list = []) →
      ∃ t, exec (.wipeCompletion i) s = .next t ∧ t.slot n = ⟨.empty, 0, []⟩ ∧ t.port = s.port.jobDone x .ok [] ∧
        (∀ j', t.job j' = none) ∧ s.sameElsewhere t ∧ ∀ h, t.entry h = s.entry h

/-! ## The cipher core -/

/-- R32, R33: which waiting request the arbiter grants: one of class 1 before any of class 2, and class 2 before class 3; uses of
the group that was not last served come first; within each, the first to arrive; and none where none waits. When an operation ends,
the picked request leaves the waiting requests and its operation begins, or the core falls idle: here at the end of an operation
whose result is discarded, and at that of a SIGN. -/
def Obligations.ArbiterGrantsByClassAndGroup : Prop :=
  ∀ s : State,
    let slot := fun q : Request => ∃ i, q = .slotUnwrap i
    let lane := fun q : Request => ∃ j, q = .lane j
    let useOf := fun (g : Machine.Group) (q : Request) => ∃ j x, q = .use j ∧ s.job j = some x ∧ cardGroup x.card = g
    let none_ := fun (f : Request → Prop) => ∀ q ∈ s.cipher.waiting, ¬f q
    let other := if s.cipher.lastGroup = .m then Machine.Group.c else Machine.Group.m
    (∀ r,
      let first := fun (f : Request → Prop) => ∃ before behind,
        s.cipher.waiting = before ++ r :: behind ∧ f r ∧ ∀ q ∈ before, ¬f q
      s.pickRequest = some r ↔
        first slot ∨ (none_ slot ∧ first lane) ∨ (none_ slot ∧ none_ lane ∧ first (useOf other)) ∨
          (none_ slot ∧ none_ lane ∧ none_ (useOf other) ∧ first (useOf s.cipher.lastGroup))) ∧
    (∀ op, s.cipher.running = some ⟨op, true⟩ → s.Still →
      (s.pickRequest = none → exec op.end_ s = .next (s.onCipher fun c => { c with running := none })) ∧
      ∀ r next, s.pickRequest = some r → s.granted r = some next → ∃ t, exec op.end_ s = .next t ∧
        t = { s with cipher := t.cipher, engine := t.engine } ∧ t.engine = { s.engine with jobs := t.engine.jobs } ∧
        t.cipher = ⟨some ⟨next, false⟩, s.cipher.waiting.erase r, match r with
          | .use j => ((s.job j).map fun x => cardGroup x.card).getD .m
          | _ => s.cipher.lastGroup⟩ ∧
        ∀ j, t.job j = if r.byJob j then (s.job j).map fun x => { x with step := x.step.begun } else s.job j) ∧
    ∀ j x key r next, s.cipher.running = some ⟨.sign j key, false⟩ → s.Still → s.job j = some x → x.kind = .sign →
      x.matched = true → (s.slot x.slotNo).list = [j] → (∀ i, i ≠ x.slotNo → j ∉ (s.slot i).list) → s.engine.lane ≠ some j →
      (∀ q ∈ s.cipher.waiting, q.byJob j = false) →
      s.pickRequest = some r → s.granted r = some next → ∃ t, exec .signOperationEnd s = .next t ∧
        t.cipher.running = some ⟨next, false⟩ ∧ t.cipher.waiting = s.cipher.waiting.erase r ∧ t.job j = none ∧
        t.port.cards[x.card] = .done

/-! ## The package lane -/

/-- R89, R90, R94: a PACKAGE whose form is bad completes FIELD_BAD; in an empty lane, one whose authority or counter is refused
completes with the refusal, one whose command key is not there completes AUTH_UNKNOWN, and any other asks P for the command key.
R90: while the lane is held, or the record of an aborted lane job is in hand, a PACKAGE waits for the lane at the tail, whatever
else is in hand. When the lane job completes, the job that has waited longest enters. When the record of an aborted lane job
becomes durable, the waiting job enters and finds its effect: the same package is answered ALREADY_APPLIED.
That an aborted record which awaits its retry keeps the lane closed too is the model's choice (log entry 45). -/
def Obligations.PackagesEnterTheLaneInTurn : Prop :=
  (∀ (s : State) (n : CardNo) (j : JobId), s.Takes n j .package → s.Still → s.LaneClosed →
    let x := s.snapshot n .package
    formatOk x.input = true → exec .takePackage s =
      .next (((s.onPort fun q => q.take n).setJob j (some { x with step := .laneWait })).onEngine fun e =>
        { e with laneWaiting := e.laneWaiting ++ [j] })) ∧
  (∀ (s : State) (j j' : JobId) (x y : Job) (rest : List JobId) (since : Nat) (c : CurrentGen),
    s.job j = some x → x.kind = .package → x.step = .releasing .wrapBad → s.engine.lane = some j →
    s.engine.laneWaiting = j' :: rest → (j :: j' :: rest).Nodup → s.job j' = some y →
    (∀ i z, i ≠ j → s.job i = some z → i ∈ j' :: rest ∧ z.kind = .package ∧ z.step = .laneWait) →
    s.slots.package = .closing since → since < s.time.milli → (∀ i, (s.slot i).list = []) →
    ¬s.store.holdsRecordOf (.package none) → ¬s.store.holdsRecordOf (.lock none) →
    let a := s.authority (pkgAuth y.input)
    let keys := s.entry a.commandHandle
    laneJudge a s.time.tt y.input = none → keys.role = some .authCmd → keys.current = some c →
    ∃ t, exec (.wipeCompletion .package) s = .next t ∧ t.port = s.port.jobDone x .wrapBad [] ∧ t.engine.lane = some j' ∧
      t.engine.laneWaiting = rest ∧ s.sameElsewhere t ∧
      t.slots.package = .reading a.commandHandle c.gen (s.readAsked a.commandHandle c.gen) ∧
      ∀ i, t.job i = if i = j then none else if i = j' then some { y with step := .keyWait .commandCurrent c.gen }
        else s.job i) ∧
  (∀ (s : State) (j : JobId) (y : Job) (payload : Payload) (loc : Location) (d : RowData) (failures : Nat) (k : AuthNo)
      (counter : Nat) (tag : Tag),
    s.store.program = some ⟨.package none, payload, loc, d, failures⟩ → s.store.retry = none → s.store.reclaim = none →
    d.header = ⟨some k, some (counter, tag)⟩ → (∀ a b, d.record ≠ .authority a b) → s.engine.lane = none →
    s.engine.laneWaiting = [j] → s.OnlyJob j y → y.kind = .package → y.step = .laneWait → (∀ i, (s.slot i).list = []) →
    pkgAuth y.input = k → pkgCounter y.input = counter → pkgTag y.input = tag → counter ≠ 0xFFFFFFFF →
    (s.authority k).defined = true → (s.authority k).lockUntil ≤ s.time.tt →
    ∃ t, exec .appendCompletion s = .next t ∧ (∀ i, t.job i = none) ∧ t.engine.lane = none ∧ t.engine.laneWaiting = [] ∧
      t.port = ({ s.port with figures := s.figuresAfter }).jobDone y .alreadyApplied
        [pkgAuthByte y.input, pkgResultGen y.input, counter]) ∧
  ∀ (s : State) (n : CardNo) (j : JobId), s.Takes n j .package → s.NoJob →
    let x := s.snapshot n .package
    let a := s.authority (pkgAuth x.input)
    let keys := s.entry a.commandHandle
    let verdict := laneJudge a s.time.tt x.input
    let results := [pkgAuthByte x.input, if (pkgKind x.input).onHandle then pkgGen x.input else 0, pkgCounter x.input]
    let completes := fun (st : Status) (values : List Nat) => ∃ t, exec .takePackage s = .next t ∧
      t.port = (s.port.take n).jobDone x st values ∧ t.NoJob ∧ s.sameElsewhere t ∧ t.slots = s.slots ∧
      ∀ h, t.entry h = { s.entry h with writeList := (t.entry h).writeList }
    (formatOk x.input = false → completes .fieldBad []) ∧
    (formatOk x.input = true → s.store.program = none → s.store.retry = none →
      (∀ st, verdict = some st → completes st results) ∧
      (verdict = none → ¬(keys.role = some .authCmd ∧ keys.current.isSome = true) → completes .authUnknown []) ∧
      ∀ c, verdict = none → keys.role = some .authCmd → keys.current = some c → s.slots.package = .empty →
        exec .takePackage s = .next ((((s.onPort fun q => q.take n).setJob j (some { x with
          step := .keyWait .commandCurrent c.gen })).onEngine fun e => { e with lane := some j }).onSlots
          fun u => { u with package := .reading a.commandHandle c.gen (s.readAsked a.commandHandle c.gen) }))

/-- R89, R92, R93, R96, R97, R121: the conditions of the format check, and steps 1, 2 and 4 of the lane, each verdict with the exact
condition that gives it. -/
def Obligations.PackageChecksComeInOrder : Prop :=
  (∀ p : List Byte,
    let b := fun i : Nat => (byteAt p i).toNat
    let internal := roleOfCode (b 12) = some .authCmd ∨ roleOfCode (b 12) = some .authTransport
    formatOk p = true ↔
      u16At p 0 = 0x5A31 ∧ b 2 ∈ [0x01, 0x02, 0x03, 0x04, 0x05, 0x10, 0x11, 0x20, 0x21, 0x22, 0x23] ∧ b 3 ≤ 5 ∧ b 9 < 2 ∧
      (b 2 ≠ 0x01 → b 9 = 0) ∧ (b 2 ≤ 0x05 → b 8 ≤ 47) ∧
      (b 2 = 0x01 → 1 ≤ b 12 ∧ b 12 ≤ 5 ∧ b 13 < 32 ∧ b 14 < 4 ∧ (internal → bitAt p 14 0 = false) ∧ u16At p 16 ≤ 16383 ∧
        1 ≤ u32At p 18 ∧ 1 ≤ u16At p 22) ∧
      (b 2 = 0x11 → 1 ≤ b 12 ∧ b 12 < 4) ∧
      (b 2 = 0x20 → b 12 ≤ 5 ∧ b 13 ≤ 1 ∧ b 14 ≤ 47 ∧ b 15 ≤ 47 ∧ b 16 < 4) ∧
      (b 2 = 0x21 → ∀ i < 8, b (12 + 5 * i) ≤ b (13 + 5 * i) ∧ b (13 + 5 * i) ≤ 47 ∧ b (14 + 5 * i) < 64 ∧
        b (15 + 5 * i) < 32 ∧ b (16 + 5 * i) ≤ 5) ∧
      (b 2 = 0x22 → b 12 ≤ 1 ∧ b 13 ≤ 1 ∧ 1 ≤ b 14 ∧ b 15 ≤ 1 ∧ b 16 ≤ 1 ∧ 1 ≤ b 17)) ∧
  (∀ (a : Authority) (tt : Nat) (p : List Byte),
    let verdict := laneJudge a tt p
    let c := pkgCounter p
    let unlocked := a.defined = true ∧ a.lockUntil ≤ tt
    let judged := unlocked ∧ a.accepted ≠ 0xFFFFFFFF
    let repeated := c = a.accepted ∧ a.lastTag = some (pkgTag p)
    (verdict = some .authUnknown ↔ a.defined = false) ∧
    (verdict = some .authLocked ↔ a.defined = true ∧ tt < a.lockUntil) ∧
    (verdict = some .authSpent ↔ unlocked ∧ a.accepted = 0xFFFFFFFF) ∧
    (verdict = some .alreadyApplied ↔ judged ∧ repeated) ∧
    (verdict = some .counterOld ↔ judged ∧ ¬repeated ∧ c ≤ a.accepted) ∧
    (verdict = some .counterJump ↔ judged ∧ a.accepted + 16777216 < c) ∧
    (verdict = none ↔ judged ∧ a.accepted < c ∧ c ≤ a.accepted + 16777216)) ∧
  ∀ (custody : Custody) (a : Authority) (p : List Byte),
    let verdict := rightsStep custody a p
    let kind := pkgKind p
    let lookup := custodyLookup custody.map (pkgHandle p) (pkgAuth p) (rightsNeeded p)
    let selfBad := kind = .authority ∧ ((pkgSubject p = 0 ∧ pkgDefined p = false) ∨
      (pkgDefined p = true ∧ pkgCommandHandle p = pkgTransportHandle p))
    (kind ∈ [.stage, .confirm, .cancel, .revoke, .release] →
      (∀ st, lookup = .error st → verdict = some st) ∧ (lookup = .ok none → verdict = none) ∧
      ∀ r, lookup = .ok (some r) → (verdict = some .roleDenied ↔ kind = .stage ∧ pkgRole p ≠ r) ∧
        (verdict = none ↔ kind = .stage → pkgRole p = r)) ∧
    (kind ∈ [.authority, .custody, .setup, .finalize] →
      (verdict = some .provisioningClosed ↔ custody.final = true) ∧
      (verdict = some .rightDenied ↔ custody.final = false ∧ (pkgAuth p ≠ 0 ∨ selfBad)) ∧
      (verdict = none ↔ custody.final = false ∧ pkgAuth p = 0 ∧ ¬selfBad)) ∧
    (kind = .timeset → verdict = if a.timesetRight then none else some .rightDenied) ∧
    (kind = .unlock → verdict = if a.unlockRight then none else some .rightDenied)

/-- R94, R99, R114, R52: the lane's operation in the core ends and P is released. A matching tag returns the fail count to 0 and,
under the retiring generation, raises GRACE_USED; an unwrapped STAGE key is kept by its job.
When fail_count returns to 0 and GRACE_USED is raised within the release is the model's choice (log entry 11). -/
def Obligations.LaneOperationsReleaseP : Prop :=
  ∀ (s : State) (j : JobId) (x : Job) (key : List Byte) (h : HandleNo) (g : Nat) (p : Policy) (k : List Byte),
    s.OnlyJob j x → s.slots.package = .opened h g p k → s.engine.laneWaiting = [] →
    let done := (s.onCipher fun c => { c with running := none }).onSlots fun u => { u with package := .closing s.time.milli }
    (∀ second, s.CoreEnds (.packageTag j key) → x.step = .tagRun second →
      exec .packageTagCheckEnd s = .next (
        if Config.packageTag key 1 (bytesAt x.input 0 112) = pkgTag x.input then
          (done.onAuthority (pkgAuth x.input) fun a => { a with failCount := 0 }).setJob j (some { x with
            step := .releasing .tagMatched, notes := if second then x.notes ||| noteGraceUsed else x.notes })
        else done.setJob j (some { x with step := .releasing (.tagMismatched second) }))) ∧
    (s.CoreEnds (.stageUnwrap j key) →
      exec .stageUnwrapEnd s = .next (
        match Config.rewrapStageKey key (pkgWrappedKey x.input) (pkgWrapCheck x.input) with
        | none => done.setJob j (some { x with step := .releasing .wrapBad })
        | some m => done.setJob j (some { x with step := .releasing .keyUnwrapped, material := m })))

/-- R94, R95, R114, R115, R48: P is EMPTY after a mismatch. Under a retiring command key still to be tried, P opens it. Otherwise
the fail count rises by 1, holding at 255: below 8 the job completes TAG_BAD; from 8 on the authority is locked for 3600 seconds
and its AUTHORITY record is asked for.
That a failure is judged once P is EMPTY is the model's choice (log entry 11). -/
def Obligations.TagFailuresCountAndLock : Prop :=
  ∀ (s : State) (j : JobId) (x : Job) (second : Bool), s.ReleaseEnds j x (.tagMismatched second) →
    let k := pkgAuth x.input
    let a := s.authority k
    let keys := s.entry a.commandHandle
    let count := min (a.failCount + 1) 255
    let tried := second = true ∨ ∀ r, keys.retiring = some r → r.graceEnd ≤ s.time.tt
    let go := exec (.wipeCompletion .package) s
    let released := s.onSlots fun u => { u with package := .empty }
    (∀ r, second = false → keys.retiring = some r → s.time.tt < r.graceEnd →
      go = .next ((s.setJob j (some { x with step := .keyWait .commandRetiring r.gen })).onSlots fun u =>
        { u with package := .reading a.commandHandle r.gen (s.readAsked a.commandHandle r.gen) })) ∧
    (tried → count < 8 → ∃ t, go = .next t ∧ t.port = s.port.jobDone x .tagBad [] ∧ (∀ j', t.job j' = none) ∧
      t.slots.package = .empty ∧ t.store = s.store ∧
      ∀ k', t.authority k' = if k' = k then { a with failCount := count } else s.authority k') ∧
    (tried → 8 ≤ count → s.store.fault = false → s.supply.activity = .active →
      let until_ := min (s.time.tt + 3600) 0xFFFFFFFF
      let record : AuthorityRecord := ⟨a.defined, a.commandHandle, a.transportHandle, a.timesetRight, a.unlockRight, a.accepted,
        a.lastTag, until_⟩
      go = .next (((released.setJob j (some { x with step := .lockStore })).onAuthority k
        fun _ => { a with failCount := count, lockUntil := until_ }).onStore fun t =>
        { t with queue := t.queue ++ [.owned (.lock (some j)) (.plain ⟨some k, none⟩ (.authority k record))] }))

/-- R96 to R100, R64, R65: P is EMPTY after a match or an unwrap. Step 4 refuses the job, or passes it: a handle kind is judged by
its state checks at the front of an empty write list, a STAGE then asks P for the transport key, and any other asks for the
append of its record. Behind another write of its handle the job waits its turn. R65, R85, R86: when a STAGE whose key does not
unwrap completes WRAP_BAD and leaves the front, the confirm by use behind it is judged.
That step 4 follows once P is EMPTY (log entry 11), and that a confirm by use of a generation that is retiring by then completes OK
without writing (log entry 47), are the model's choice. -/
def Obligations.PackageReachesItsRecord : Prop :=
  (∀ (s : State) (j : JobId) (x : Job) (since : Nat) (w : WriteEntry) (rest : List WriteEntry), s.Still →
    s.job j = some x → x.kind = .package → x.step = .releasing .tagMatched → s.engine.lane = some j →
    s.slots.package = .closing since → since < s.time.milli →
    rightsStep s.custody (s.authority (pkgAuth x.input)) x.input = none → (pkgKind x.input).onHandle = true →
    (s.entry (pkgHandle x.input)).writeList = w :: rest → w.owner ≠ some j →
    exec (.wipeCompletion .package) s = .next ((((s.onSlots fun u => { u with package := .empty }).setJob j
      (some { x with step := .writeWait })).onEntry (pkgHandle x.input) fun e =>
        { e with writeList := e.writeList ++ [⟨some j, (pkgKind x.input).writeKind, pkgGen x.input⟩] }))) ∧
  (∀ (s : State) (j j' : JobId) (x y : Job) (since : Nat) (w : WriteEntry), s.OnlyJobs j x j' y → x.kind = .package →
    x.step = .releasing .wrapBad → s.engine.lane = some j → s.engine.laneWaiting = [] → s.slots.package = .closing since →
    since < s.time.milli → y.kind = .check → y.step = .confirmWait → y.handle = pkgHandle x.input →
    (∀ i, (s.slot i).list ⊆ [j']) → w.owner = some j →
    let e := s.entry y.handle
    let behind : WriteEntry := ⟨some j', .confirmByUse, y.gen⟩
    e.writeList = [w, behind] →
    let first := s.port.jobDone x .wrapBad []
    ((∀ g, e.staged = some g → g.gen = y.gen → g.deadline ≤ s.time.tt) → ∃ t, exec (.wipeCompletion .package) s = .next t ∧
      t.port = first.jobDone y .ok [y.gen] ∧ (∀ i, t.job i = none) ∧ (t.entry y.handle).writeList = []) ∧
    ∀ g, e.staged = some g → g.gen = y.gen → s.time.tt < g.deadline → s.store.fault = false →
      ∃ t, exec (.wipeCompletion .package) s = .next t ∧ t.port = first ∧ (t.entry y.handle).writeList = [behind] ∧
        (∀ i, t.job i = if i = j' then some { y with step := .confirmStore } else none) ∧
        t.store.queue = s.store.queue ++ [.owned (.confirmByUse (some j'))
          (.plain ⟨some g.authority, none⟩ (.confirm y.handle y.gen 0 (min 256 g.signLimit)))]) ∧
  ∀ (s : State) (j : JobId) (x : Job),
    let p := x.input
    let h := pkgHandle p
    let verdict := rightsStep s.custody (s.authority (pkgAuth p)) p
    let checks := stateChecks (s.entry h) s.time.tt p
    let transport := (s.authority (pkgAuth p)).transportHandle
    let go := exec (.wipeCompletion .package) s
    let released := s.onSlots fun u => { u with package := .empty }
    let joined := released.onEntry h fun e => { e with writeList := [⟨some j, (pkgKind p).writeKind, pkgGen p⟩] }
    let completes := fun (st : Status) => ∃ t, go = .next t ∧ t.port = s.port.jobDone x st [] ∧ (∀ j', t.job j' = none) ∧
      t.slots.package = .empty ∧ t.store = s.store ∧ t.authorities = s.authorities ∧ t.custody = s.custody ∧
      ∀ a, t.entry a = { s.entry a with writeList := (t.entry a).writeList }
    let asks := fun u : State => (u.setJob j (some { x with step := .recordStore })).onStore fun t =>
      { t with queue := t.queue ++ [.owned (.package (some j)) (s.packagePayload p x.material)] }
    let storeTakes := s.store.fault = false ∧ s.supply.activity = .active
    (s.ReleaseEnds j x .tagMatched →
      (∀ st, verdict = some st → completes st) ∧
      (verdict = none → (pkgKind p).onHandle = false → storeTakes → go = .next (asks released)) ∧
      (verdict = none → (pkgKind p).onHandle = true → (s.entry h).writeList = [] →
        (∀ st, checks = some st → completes st) ∧
        (checks = none → pkgKind p ≠ .stage → storeTakes → go = .next (asks joined)) ∧
        (checks = none → pkgKind p = .stage →
          (∀ c, (s.entry transport).role = some .authTransport → (s.entry transport).current = some c →
            go = .next ((joined.setJob j (some { x with step := .keyWait .transport c.gen })).onSlots fun u =>
              { u with package := .reading transport c.gen (s.readAsked transport c.gen) })) ∧
          (¬((s.entry transport).role = some .authTransport ∧ (s.entry transport).current.isSome = true) →
            completes .wrapBad)))) ∧
    (s.ReleaseEnds j x .keyUnwrapped → storeTakes → go = .next (asks released)) ∧
    (s.ReleaseEnds j x .wrapBad → completes .wrapBad)

/-- R98: the state checks of a STAGE, a CONFIRM, a CANCEL, a REVOKE and a RELEASE, each verdict with the exact condition that gives
it. -/
def Obligations.StateChecksComeInOrder : Prop :=
  ∀ (e : HandleEntry) (tt : Nat) (p : List Byte),
    let verdict := stateChecks e tt p
    let g := pkgGen p
    let staged := ∃ x, e.staged = some x ∧ tt < x.deadline
    let retiring := ∃ x, e.retiring = some x ∧ tt < x.graceEnd
    let present := e.current.isSome = true ∨ staged ∨ retiring
    let spent := 65535 ≤ e.highestGen
    let near := e.highestGen < g ∧ g ≤ e.highestGen + 16
    (pkgKind p = .stage →
      (verdict = some .genSpent ↔ spent) ∧ (verdict = some .genBad ↔ ¬spent ∧ ¬near) ∧
      (verdict = some .stageOpen ↔ ¬spent ∧ near ∧ staged) ∧
      (verdict = some .graceOpen ↔ ¬spent ∧ near ∧ ¬staged ∧ retiring) ∧
      (verdict = some .roleDenied ↔ ¬spent ∧ near ∧ ¬staged ∧ ¬retiring ∧ present ∧ e.role ≠ some (pkgRole p)) ∧
      (verdict = none ↔ ¬spent ∧ near ∧ ¬staged ∧ ¬retiring ∧ (present → e.role = some (pkgRole p)))) ∧
    (pkgKind p = .confirm ∨ pkgKind p = .cancel →
      (verdict = none ↔ ∃ x, e.staged = some x ∧ tt < x.deadline ∧ x.gen = g) ∧ (verdict = none ∨ verdict = some .notStaged)) ∧
    (pkgKind p = .revoke →
      (verdict = none ↔ present ∧ (g = 0 ∨ ∃ c, e.current = some c ∧ c.gen = g)) ∧
      (verdict = none ∨ verdict = some .genBad)) ∧
    (pkgKind p = .release →
      (verdict = none ↔ ∃ x, e.retiring = some x ∧ tt < x.graceEnd ∧ (g = 0 ∨ x.gen = g)) ∧
      (verdict = none ∨ verdict = some .genBad))

/-- R119: the rights that a package of each kind needs, and the custody lookup, each outcome with the exact condition that
gives it. -/
def Obligations.CustodyLookupDecides : Prop :=
  (∀ (p : List Byte) (b : Nat), b < 5 → ((rightsNeeded p).getLsbD b = true ↔
    (pkgKind p = .stage ∧ (b = 0 ∨ (b = 1 ∧ pkgImmediate p = true))) ∨ (pkgKind p = .confirm ∧ b = 1) ∨
    (pkgKind p = .cancel ∧ b = 2) ∨ (pkgKind p = .revoke ∧ b = 3) ∨ (pkgKind p = .release ∧ b = 4))) ∧
  ∀ (map : Vector CustodyEntry 8) (h : HandleNo) (k : AuthNo) (needed : BitVec 5),
    let verdict := custodyLookup map h k needed
    let entryOf := fun c : CustodyEntry => c ∈ map.toList ∧ c.first ≤ h.val ∧ h.val ≤ c.last ∧ c.mask.getLsbD k.val = true
    let conflict := ∃ c d q r, entryOf c ∧ entryOf d ∧ c.role = some q ∧ d.role = some r ∧ q ≠ r
    let granted := ∀ b, b < 5 → needed.getLsbD b = true → ∃ c, entryOf c ∧ c.rights.getLsbD b = true
    (verdict = .error .noCustody ↔ ¬∃ c, entryOf c) ∧
    (verdict = .error .custodyConflict ↔ conflict) ∧
    (verdict = .error .custodyDenied ↔ (∃ c, entryOf c) ∧ ¬conflict ∧ ¬granted) ∧
    (verdict = .ok none ↔ (∃ c, entryOf c) ∧ (∀ c, entryOf c → c.role = none) ∧ granted) ∧
    ∀ r, verdict = .ok (some r) ↔ (∃ c, entryOf c ∧ c.role = some r) ∧ ¬conflict ∧ granted

/-! ## The record store -/

/-- R126, R129, R130, R132, R66, R147, R153: the first queued append whose condition holds starts, in the HEAD at the append
position, with the next seq and the stamp TT; at seq 0FFFFFFFFh the store enters FAULT instead (R131). -/
def Obligations.QueuedAppendsStart : Prop :=
  ∀ (s : State) (before behind : List QueuedAppend) (q : QueuedAppend), s.StoreRuns → s.recentStarts < 4 →
    let may := fun r : QueuedAppend => match r with
      | .tamper _ => 13 ≤ s.store.erasedRows
      | .counter h => (s.entry h).counterFlight = none ∧ s.store.copying = false ∧
        (if s.supply.power = .reserve then 81 else 96) ≤ s.store.erasedRows
      | _ => s.store.copying = false ∧ 96 ≤ s.store.erasedRows
    s.store.queue = before ++ q :: behind → may q → (∀ r ∈ before, ¬may r) →
    let begun := fun (r : Requester) (p : Payload) => s.programBegun (before ++ behind) r p 0
    (s.store.nextSeq ≠ 0xFFFFFFFF →
      (∀ r p, q = .owned r p → exec .appendStart s = .next (begun r p)) ∧
      (∀ i, q = .tamper i → exec .appendStart s = .next ((begun (.tamper i)
        (.plain ⟨none, none⟩ (.tamper i (s.tamper.input i).latchTime))).onTamper fun t =>
          t.onInput i fun x => { x with mark := .inProgram })) ∧
      (q = .timeMark → exec .appendStart s = .next ((begun .timeMark (.plain ⟨none, none⟩ (.time none))).onTime fun t =>
        { t with timeMark := .inProgram })) ∧
      ∀ h c w, q = .counter h → (s.entry h).current = some c → (s.entry h).counterPending = some w →
        let ceiling := max c.txCeiling (w.ceiling.getD 0)
        let floor := if w.floor.isSome then w.floor else c.rxFloor
        exec .appendStart s = .next ((begun (.counter h) (.plain ⟨none, none⟩ (.counter h c.gen ceiling floor))).onEntry h
          fun e => { e with counterPending := none, counterFlight := some ⟨c.gen, ceiling, floor⟩ })) ∧
    (s.store.nextSeq = 0xFFFFFFFF → (∀ j, s.job j = none) →
      ∃ t, exec .appendStart s = .next t ∧ t.store.fault = true ∧ t.store.queue = [] ∧ t.store.program = none ∧
        t.store.array = s.store.array ∧ t.port.alert = s.port.alert ||| alertStoreFault)

/-- R130 to R132, R125: an abandoned row is TORN and nothing of it applies. Its record waits for a retry, which starts ahead of the
queue once the window permits; at the third abandonment, and where a retry finds 12 or fewer erased rows or seq 0FFFFFFFFh, the
store enters FAULT and the record is refused, here that of a package.
That seq 0FFFFFFFFh brings FAULT before the pump window permits the start is the model's choice (log entry 22). -/
def Obligations.AbandonedRecordsAreRetried : Prop :=
  ∀ s : State, s.store.fault = false →
    let refused := fun (t : State) (r : Requester) => t.store.fault = true ∧ t.store.queue = [] ∧ t.store.program = none ∧
      t.store.retry = none ∧ ∀ j x, r = .package (some j) → s.OnlyJob j x → (∀ j', t.job j' = none) ∧
        let shown : PageFigures := { s.port.figures with
          nextSeq := t.port.figures.nextSeq, erasedRows := t.port.figures.erasedRows }
        t.port = ({ s.port with figures := shown, alert := s.port.alert ||| alertStoreFault }).jobDone x .storeFault []
    (∀ p, s.store.program = some p →
      (p.failures + 1 < 3 → ∃ t, exec .appendAbandonment s = .next t ∧
        t = { s with port := { s.port with figures := s.figuresAfter }, store := t.store } ∧
        (∀ l, rowAt t.store.array l = if l = p.location then .torn else rowAt s.store.array l) ∧ t.store.program = none ∧
        t.store.retry = some ⟨p.requester, p.payload, p.failures + 1⟩ ∧ t.store.queue = s.store.queue ∧
        t.store.nextSeq = s.store.nextSeq ∧ t.store.history = s.store.history ∧ s.store.HeadMovesOn t.store) ∧
      (3 ≤ p.failures + 1 → s.store.retry = none → ∃ t, exec .appendAbandonment s = .next t ∧ refused t p.requester ∧
        rowAt t.store.array p.location = .torn)) ∧
    ∀ r, s.resetCtl.part = .ready → s.store.program = none → s.store.retry = some r →
      let bounded := s.store.erasedRows ≤ 12 ∨ s.store.nextSeq = 0xFFFFFFFF
      (¬bounded → s.recentStarts < 4 → exec .retryStart s = .next ((s.programBegun s.store.queue r.requester r.payload
        r.failures).onStore fun t => { t with retry := none })) ∧
      (¬bounded → 4 ≤ s.recentStarts → exec .retryStart s = .next s) ∧
      (bounded → ∃ t, exec .retryStart s = .next t ∧ refused t r.requester ∧ t.store.array = s.store.array)

/-- R131, R65, R67, R87, R100, R115, R147, R153: whatever brings FAULT while a record is in program or waits for its retry, the
record is refused and nothing of it is applied; only marks, pending counter writes and write lists follow the refusals. A package
or a confirm by use completes STORE_FAULT, the record of a lock TAG_BAD with AUTH_NOW_LOCKED, and a SIGN that waits for a counter
write STORE_FAULT; a mark is none again.
That a failed erase or fold read leaves the row then in program TORN (log entry 21), and that a retry at seq 0FFFFFFFFh brings
FAULT before the pump window permits its start (log entry 22), are the model's choice. -/
def Obligations.FaultGivesUpTheRecordInHand : Prop :=
  ∀ (c : Instr) (s : State) (q : Requester),
    let badFoldRead := ∃ (tail : BankNo) (w : CopyWalk) (h : HandleNo) (g : Nat) (l : Location) (crcOk : Bool), c = .foldReadEnd crcOk ∧
      s.store.reclaim = some ⟨tail, .copy { w with stage := .reading h g (some l) }, false⟩ ∧
      (crcOk = false ∨ ∀ d k, rowAt s.store.array l = .valid d → d.record ≠ .key h g k)
    s.store.fault = false → s.store.program = none ∨ s.store.retry = none → s.store.holdsRecordOf q →
    (∀ r p, .owned r p ∈ s.store.queue → ∃ j, r = .package j ∨ r = .confirmByUse j ∨ r = .lock j) →
    ((c = .appendAbandonment ∧ ∃ p, s.store.program = some p ∧ 2 ≤ p.failures) ∨
      (c = .retryStart ∧ s.resetCtl.part = .ready ∧ s.store.program = none ∧
        (s.store.erasedRows ≤ 12 ∨ s.store.nextSeq = 0xFFFFFFFF)) ∨
      (∃ b residue n, c = .eraseCompletion residue ∧ s.store.erase = some b ∧
        (rowAt s.store.array ⟨b, n⟩).after (residue.getD n.val .blank) ≠ .blank) ∨ badFoldRead) →
    let refused := fun t : State =>
      (t.store.fault = true ∧ t.store.queue = [] ∧ t.store.program = none ∧ t.store.retry = none) ∧
      (∀ p, s.store.program = some p → rowAt t.store.array p.location = .torn) ∧
      (t.authorities = s.authorities ∧ t.custody = s.custody ∧ t.settings = s.settings ∧ t.supply = s.supply) ∧
      t.store.nextSeq = s.store.nextSeq ∧ t.time = { s.time with timeMark := t.time.timeMark } ∧
      (∀ i, t.tamper.input i = { s.tamper.input i with mark := (t.tamper.input i).mark }) ∧
      ∀ h, t.entry h = { s.entry h with
        writeList := (t.entry h).writeList, counterPending := (t.entry h).counterPending
        counterFlight := (t.entry h).counterFlight }
    let shown := fun t : State =>
      let f : PageFigures := { s.port.figures with nextSeq := t.port.figures.nextSeq, erasedRows := t.port.figures.erasedRows }
      { s.port with alert := s.port.alert ||| alertStoreFault, figures := f }
    let completes := fun (y : Job) (st : Status) => ∃ t, exec c s = .next t ∧ refused t ∧
      t.port = (shown t).jobDone y st [] ∧ ∀ j, t.job j = none
    (∀ j x, s.OnlyJob j x →
      (q = .package (some j) ∨ q = .confirmByUse (some j) → completes x .storeFault) ∧
      (q = .lock (some j) → completes { x with notes := x.notes ||| noteAuthNowLocked } .tagBad) ∧
      ∀ h, q = .counter h → x.step = .counterWait → x.handle = h → completes x .storeFault) ∧
    ((∀ j, s.job j = none) → ∃ t, exec c s = .next t ∧ refused t ∧ t.port = shown t ∧
      (∀ i, (t.tamper.input i).mark = if q = .tamper i ∨ .tamper i ∈ s.store.queue then .none else (s.tamper.input i).mark) ∧
      t.time.timeMark = (if q = .timeMark ∨ .timeMark ∈ s.store.queue then .none else s.time.timeMark) ∧
      ∀ h, (t.entry h).counterFlight = (if q = .counter h then none else (s.entry h).counterFlight) ∧
        (t.entry h).counterPending = if .counter h ∈ s.store.queue then none else (s.entry h).counterPending)

/-- R100 to R108, R116, R126, R148: the row that a program writes for a package, with a seq and a stamp; the package's fields
stand where the layout of packages gives them, and `m` is a STAGE key wrapped afresh. -/
def Obligations.PackageRowsCarryThePackage : Prop :=
  ∀ (s : State) (p m : List Byte) (seq stamp : Nat) (k : AuthNo) (h : HandleNo),
    (byteAt p 3).toNat = k.val → (byteAt p 8).toNat = h.val →
    let kind := (byteAt p 2).toNat
    let e := s.entry h
    let counter := u32At p 4
    let gen := u16At p 10
    let tag : Tag := tagAt p 112
    let row := (s.packagePayload p m).row seq stamp
    let holds := fun r : Record => row = ⟨seq, stamp, ⟨some k, some (counter, tag)⟩, r⟩
    let tamper := fun i : Nat => (⟨bitAt p i 0, bitAt p (i + 1) 0, (byteAt p (i + 2)).toNat⟩ : TamperSetup)
    (∀ r, kind = 0x01 → roleOfCode (byteAt p 12).toNat = some r →
      let policy : Policy := ⟨bitAt p 13 0, bitAt p 13 1, bitAt p 13 2, bitAt p 13 3, bitAt p 13 4, bitAt p 14 0, bitAt p 14 1⟩
      let expiry := if u16At p 16 = 0 then 0xFFFFFFFF else min (stamp + u16At p 16 * 86400) 0xFFFFFFFF
      let limit := u32At p 18
      holds (.key h gen ⟨m, r, policy, expiry,
        if bitAt p 9 0 then .active stamp limit (min 256 limit) none (some (u16At p 24))
        else .staged stamp limit (min (stamp + u16At p 22 * 60) 0xFFFFFFFF) k, max e.highestGen gen⟩)) ∧
    (∀ y, kind = 0x02 → e.staged = some y → holds (.confirm h gen (u16At p 12) (min 256 y.signLimit))) ∧
    (kind = 0x03 → holds (.cancel h gen)) ∧
    (kind = 0x04 → holds (.revoke h gen e.highestGen e.role)) ∧
    (kind = 0x05 → holds (.release h gen)) ∧
    (kind = 0x10 → holds (.time (some (u32At p 12)))) ∧
    (kind = 0x11 → holds (.unlock (bitAt p 12 0) (bitAt p 12 1))) ∧
    (∀ (n : AuthNo) (c t : HandleNo), kind = 0x20 → (byteAt p 12).toNat = n.val → (byteAt p 14).toNat = c.val →
      (byteAt p 15).toNat = t.val →
      holds (.authority n ⟨bitAt p 13 0, c, t, bitAt p 16 0, bitAt p 16 1, if n = 0 then counter else (s.authority n).accepted,
        if n = 0 then some tag else (s.authority n).lastTag, 0⟩)) ∧
    (kind = 0x21 → ∃ map, holds (.custody map) ∧ ∀ i : Fin 8, map[i] =
      ⟨(byteAt p (12 + 5 * i.val)).toNat, (byteAt p (13 + 5 * i.val)).toNat, (byteAt p (14 + 5 * i.val)).setWidth 6,
        (byteAt p (15 + 5 * i.val)).setWidth 5, roleOfCode (byteAt p (16 + 5 * i.val)).toNat⟩) ∧
    (kind = 0x22 → holds (.setup (tamper 12) (tamper 15) false)) ∧
    (kind = 0x23 → holds (.setup s.tamper.cover.setup s.tamper.field.setup true))

/-- R130, R125, R126, R147: at the completion of a program, whoever asked for it, the row is in the array and no other row changes,
the append position moves on, past the last row to the first ERASED bank after the HEAD, the status page shows the next seq, and the
last recorded stamp is raised. -/
def Obligations.CompletionMakesTheRowDurable : Prop :=
  ∀ (s : State) (p : Program), s.store.program = some p →
    ∃ t, exec .appendCompletion s = .next t ∧ t.store.program = none ∧ t.store.nextSeq = s.store.nextSeq ∧
      t.store.retry = s.store.retry ∧ t.store.history = s.store.history ∧ t.store.erase = s.store.erase ∧
      (∀ l, rowAt t.store.array l = if l = p.location then .valid p.data else rowAt s.store.array l) ∧
      ((∀ b, p.requester ≠ .reclaimMark b) → s.store.HeadMovesOn t.store) ∧
      (s.store.appendPos + 1 < 64 → t.store.headBank = s.store.headBank ∧ t.store.appendPos = s.store.appendPos + 1) ∧
      t.port.figures.nextSeq = s.store.nextSeq ∧ t.time.lastStamp = max s.time.lastStamp p.data.stamp ∧
      t.settings = s.settings ∧ t.supply.power = s.supply.power ∧ t.port.windows = s.port.windows

/-- R100 to R105, R113, R67: a package's record for handle `h` becomes durable. Its authority takes counter and tag, the directory
changes as the record gives, counter writes become stale where the current generation changed, every other handle stands, and
the job completes OK, or NOT_STAGED for a CONFIRM stamped at or after its deadline. R71, R140: where a warm reset has aborted the
job, the record has the same effect, no card is completed, and the write it left in the write list leaves it. R67, R75: where
the current generation changes, a SIGN that waits for a counter write completes NOT_CURRENT if its generation is retiring now,
and NO_KEY with its slot wiped if it is not live.
That the package completes before the released SIGN is judged is the model's order (log entry 12). -/
def Obligations.PackageRecordsChangeTheDirectory : Prop :=
  (∀ (s : State) (j j' : JobId) (x y : Job) (n : Fin 4) (payload : Payload) (loc : Location) (d : RowData) (failures : Nat)
      (h : HandleNo) (k : AuthNo) (counter : Nat) (tag : Tag) (p : Policy) (m : List Byte) (c : CurrentGen),
    s.OnlyJobs j x j' y → s.ListsAre n [j'] →
    s.store.program = some ⟨.package (some j), payload, loc, d, failures⟩ → s.store.reclaim = none →
    d.header = ⟨some k, some (counter, tag)⟩ → x.kind = .package → x.step = .recordStore → s.engine.lane = some j →
    y.kind = .sign → y.step = .counterWait → y.handle = h → y.slotNo = n → y.genField = 0 ∨ y.genField = c.gen →
    (s.slot n).state = .opened h c.gen p m → (s.entry h).current = some c →
    let done := ({ s.port with figures := s.figuresAfter }).jobDone x .ok
      [pkgAuthByte x.input, pkgResultGen x.input, pkgCounter x.input]
    let ends := fun (port : Port) (wiped : Prop) => ∃ t, exec .appendCompletion s = .next t ∧ t.port = port ∧
      (∀ i, t.job i = none) ∧ (t.slot n).list = [] ∧ (wiped → (t.slot n).state = .closing s.time.milli) ∧
      (t.entry h).counterPending = none ∧ .counter h ∉ t.store.queue
    let released := fun grace : Nat =>
      (∀ r, c.superseded d.stamp grace = some r → s.time.tt < r.graceEnd → ends (done.jobDone y .notCurrent []) False) ∧
      ((∀ r, c.superseded d.stamp grace = some r → r.graceEnd ≤ s.time.tt) → ends (done.jobDone y .noKey []) True)
    (∀ g grace ceiling z, d.record = .confirm h g grace ceiling → (s.entry h).staged = some z → z.gen = g → g ≠ c.gen →
      d.stamp < z.deadline → released grace) ∧
    (∀ g r issued limit ceiling floor grace, d.record = .key h g r →
      r.state = .active issued limit ceiling floor (some grace) → g ≠ c.gen →
      (∀ z, (s.entry h).staged = some z → z.gen ≠ c.gen) → released grace) ∧
    ∀ g highest role, d.record = .revoke h g highest role →
      ends ((({ s.port with figures := s.figuresAfter }).jobDone y .noKey []).jobDone x .ok
        [pkgAuthByte x.input, pkgResultGen x.input, pkgCounter x.input]) True) ∧
  ∀ (s : State) (owner : Option (JobId × Job)) (loc : Location) (d : RowData) (h : HandleNo) (k : AuthNo) (c : Nat) (tag : Tag),
    s.RecordEnds owner loc d → d.header = ⟨some k, some (c, tag)⟩ →
    let e := s.entry h
    let staged := e.staged.filter fun g => decide (s.time.tt < g.deadline)
    let retiring := e.retiring.filter fun g => decide (s.time.tt < g.graceEnd)
    let role := fun r : Role =>
      if e.current.isSome = true ∨ staged.isSome = true ∨ retiring.isSome = true then e.role else some r
    let shown := { s.port with figures := s.figuresAfter }
    let after := fun (st : Status) (values : Job → List Nat) (f : HandleEntry → Prop) => ∃ t, exec .appendCompletion s = .next t ∧
      (∀ j x, owner = some (j, x) → t.port = shown.jobDone x st (values x)) ∧
      (owner = none → t.port = shown ∧ (t.entry h).writeList = e.writeList.filter fun w => w.owner.isSome) ∧
      (∀ j', t.job j' = none) ∧
      (∀ k', t.authority k' = if k' = k then { s.authority k with accepted := c, lastTag := some tag } else s.authority k') ∧
      (∀ h', h' ≠ h → t.entry h' = { s.entry h' with writeList := (t.entry h').writeList }) ∧
      f (t.entry h) ∧ t.custody = s.custody ∧ t.tamper = s.tamper
    let ok := after .ok fun x => [pkgAuthByte x.input, pkgResultGen x.input, pkgCounter x.input]
    (∀ g r issued limit deadline au, d.record = .key h g r → r.state = .staged issued limit deadline au → ok fun t =>
      t.staged = some ⟨g, loc, r.policy, issued, r.expiry, limit, ⟨none, 0⟩, au, deadline⟩ ∧ t.current = e.current ∧
      t.retiring = retiring ∧ t.highestGen = max e.highestGen r.highestGen ∧ t.lastRevoked = false ∧ t.role = role r.role ∧
      t.counterPending = e.counterPending) ∧
    (∀ g r issued limit ceiling floor grace, d.record = .key h g r → r.state = .active issued limit ceiling floor (some grace) →
      ok fun t => t.current = some ⟨g, loc, r.policy, issued, r.expiry, limit, 0, ceiling, ⟨none, 0⟩, floor⟩ ∧
      t.staged = staged ∧ t.retiring = (match e.current with
        | some p => p.superseded d.stamp grace
        | none => retiring) ∧
      t.highestGen = max e.highestGen r.highestGen ∧ t.lastRevoked = false ∧ t.role = role r.role ∧ t.counterPending = none) ∧
    (∀ g grace ceiling y, d.record = .confirm h g grace ceiling → e.staged = some y → y.gen = g → d.stamp < y.deadline →
      ok fun t =>
        t.current = some ⟨g, y.location, y.policy, y.issuedAt, y.expiry, y.signLimit, 0, ceiling, y.rx, none⟩ ∧
        t.staged = none ∧ t.retiring = (match e.current with
          | some p => p.superseded d.stamp grace
          | none => retiring) ∧
        t.highestGen = e.highestGen ∧ t.role = e.role ∧ t.counterPending = none) ∧
    (∀ g grace ceiling, d.record = .confirm h g grace ceiling → (∀ y, e.staged = some y → y.gen = g → y.deadline ≤ d.stamp) →
      after .notStaged (fun _ => []) fun t => t.current = e.current ∧ t.staged = staged ∧ t.retiring = retiring ∧
        t.highestGen = e.highestGen ∧ t.role = e.role ∧ t.counterPending = e.counterPending) ∧
    (∀ g, d.record = .cancel h g → ok fun t => t.current = e.current ∧ t.staged = staged.filter (fun y => decide (y.gen ≠ g)) ∧
      t.retiring = retiring ∧ t.highestGen = e.highestGen ∧ t.role = e.role ∧ t.counterPending = e.counterPending) ∧
    (∀ g, d.record = .release h g → ok fun t => t.current = e.current ∧ t.staged = staged ∧ t.retiring = none ∧
      t.highestGen = e.highestGen ∧ t.role = e.role ∧ t.counterPending = e.counterPending) ∧
    ∀ g highest r, d.record = .revoke h g highest r →
      (ok fun t => t.current = none ∧ t.staged = none ∧ t.retiring = none ∧ t.lastRevoked = true ∧
        t.highestGen = max e.highestGen highest ∧ t.role = (if r.isSome then r else e.role) ∧ t.counterPending = none) ∧
      ∃ t, exec .appendCompletion s = .next t ∧ ∀ i a g' p m, (s.slot i).state = .opened a g' p m →
        (t.slot i).state = if a = h then .closing s.time.milli else .opened a g' p m

/-- R106, R107, R121 to R124, R146, R154, R155, R113: the record of a device or provisioning package becomes durable. Its authority
takes counter and tag, the record acts, the directory stands, and the job completes OK. R140: where a warm reset has aborted the
job, the record has the same effect and no card is completed. -/
def Obligations.PackageRecordsChangeTheDevice : Prop :=
  ∀ (s : State) (owner : Option (JobId × Job)) (loc : Location) (d : RowData) (k : AuthNo) (c : Nat) (tag : Tag),
    s.RecordEnds owner loc d → d.header = ⟨some k, some (c, tag)⟩ →
    let stamped := { s.time with lastStamp := max s.time.lastStamp d.stamp }
    let unlocked := fun y : TamperState =>
      if y.latched = true ∧ y.mark = .none then { y with latched := false, debounceCount := 0 } else y
    let shown := { s.port with figures := s.figuresAfter }
    let accepts := fun (f : AuthNo → Authority) (k' : AuthNo) =>
      if k' = k then { f k' with accepted := c, lastTag := some tag } else f k'
    let after := fun (time : TimeBase) (tamper : Tamper) (custody : Custody) (f : AuthNo → Authority) =>
      ∃ t, exec .appendCompletion s = .next t ∧ t.time = time ∧ t.tamper = tamper ∧ t.custody = custody ∧
        (∀ k', t.authority k' = accepts f k') ∧
        (∀ j x, owner = some (j, x) → t.port = shown.jobDone x .ok [pkgAuthByte x.input, pkgResultGen x.input, pkgCounter x.input]) ∧
        (owner = none → t.port = shown) ∧ (∀ j', t.job j' = none) ∧
        ∀ h, t.entry h = { s.entry h with writeList := (t.entry h).writeList }
    (∀ offered, d.record = .time (some offered) →
      after { stamped with tt := if s.time.tt < offered then min offered 0xFFFFFFFE else s.time.tt, drift := s.time.stepMax }
        s.tamper s.custody s.authority) ∧
    (∀ a b, d.record = .unlock a b →
      after stamped ⟨if a then unlocked s.tamper.cover else s.tamper.cover, if b then unlocked s.tamper.field else s.tamper.field⟩
        s.custody s.authority) ∧
    (∀ m y, d.record = .authority m y → after stamped s.tamper s.custody fun k' =>
      if k' = m then { s.authority m with
        defined := y.defined, commandHandle := y.commandHandle, transportHandle := y.transportHandle
        timesetRight := y.timesetRight, unlockRight := y.unlockRight, failCount := 0, lockUntil := 0 }
      else s.authority k') ∧
    (∀ map, d.record = .custody map → after stamped s.tamper { s.custody with map := map } s.authority) ∧
    (∀ a b, d.record = .setup a b false → after stamped ⟨{ s.tamper.cover with setup := a, debounceCount := 0 },
      { s.tamper.field with setup := b, debounceCount := 0 }⟩ s.custody s.authority) ∧
    ∀ a b, d.record = .setup a b true → after stamped s.tamper { s.custody with final := true } s.authority

/-- R67, R87, R95, R105, R115, R134 to R138, R140, R147, R153: the completion of each mark and record that no package asked for:
TAMPER, TIME, COUNTER and RECLAIM marks, the rows of a COPY, the record of a lock, and the mark of a confirm by use, the last two
also where a warm reset has aborted their job. A COUNTER mark's completion makes the reservation check again, and a SIGN that waits
for it is judged again. After a row of a COPY the COPY goes on.
That a RECLAIM mark completing in RESERVE ends its reclaim (log entry 15), that the reservation check follows the completion of a
stale COUNTER write too (log entry 27), and that a COUNTER mark and a row of a fold clear no lapsed record (log entry 39) are the
model's choice. -/
def Obligations.OtherRecordsBecomeDurable : Prop :=
  ∀ (s : State) (q : Requester) (payload : Payload) (loc : Location) (d : RowData) (failures : Nat),
    s.store.program = some ⟨q, payload, loc, d, failures⟩ →
    let shown := { s.port with figures := s.figuresAfter }
    let ended := ((s.onPort fun _ => shown).onStore fun t =>
      { t.advanceHead with array := setRow t.array loc (.valid d), program := none }).onTime fun t =>
        { t with lastStamp := max t.lastStamp d.stamp }
    let go := exec .appendCompletion s
    let idle := (∀ j, s.job j = none) ∧ s.engine.lane = none
    (idle → s.store.reclaim = none →
      (∀ i, q = .tamper i → go = .next (ended.onTamper fun t => t.onInput i fun x => { x with mark := .none })) ∧
      (q = .timeMark → go = .next (ended.onTime fun t => { t with timeMark := .none })) ∧
      (q = .copyAsIs ∨ (∃ k, q = .rewrite k) ∨ q = .lock none → go = .next ended) ∧
      ∀ h g ceiling floor, q = .counter h → d.record = .counter h g ceiling floor → s.supply.activity = .active →
        let e := { s.entry h with
          current := (s.entry h).current.map fun c => if c.gen = g then { c with txCeiling := ceiling, rxFloor := floor } else c
          counterFlight := none }
        let applied := ended.onEntry h fun _ => e
        ((∀ c, e.current = some c → ¬e.raises c) → go = .next applied) ∧
        ∀ c, e.current = some c → e.raises c →
          go = .next (applied.raiseAsked h (some (min (c.txCeiling + 256) c.signLimit)) none)) ∧
    (∀ h g ceiling floor j x p key c, q = .counter h → d.record = .counter h g ceiling floor → s.store.reclaim = none →
      s.OnlyJob j x → x.kind = .sign → x.step = .counterWait → x.handle = h → x.genField = 0 ∨ x.genField = g →
      (s.slot x.slotNo).state = .opened h g p key → (s.slot x.slotNo).list = [j] →
      (∀ i, i ≠ x.slotNo → (s.slot i).list = []) → s.engine.laneWaiting = [] → s.cipher.running = none →
      (s.entry h).current = some c → c.gen = g → c.txNext + 65 < ceiling →
      (if x.card.val < 16 then c.policy.signM else c.policy.signC) = true → (x.option = true → c.policy.payload = true) →
      s.time.tt < c.expiry → c.txNext < c.signLimit →
      ∃ t y, go = .next t ∧ t.job j = some y ∧ y.step = .signRun ∧ y.counter = c.txNext ∧ y.card = x.card ∧
        t.cipher.running = some ⟨.sign j key, false⟩ ∧ t.port = shown ∧ (t.entry h).counterFlight = none ∧
        (t.entry h).current = some { c with txNext := c.txNext + 1, txCeiling := ceiling, rxFloor := floor }) ∧
    (∀ b tail w, (∀ j, s.job j = none) → q = .reclaimMark b → s.store.reclaim = some ⟨tail, .copy w, false⟩ →
      go = .next (ended.onStore fun t =>
        if s.supply.power = .mains then { t with banks := t.banks.set b .erasing, reclaim := some ⟨b, .erase, false⟩ }
        else { t with banks := t.banks.set b .needsErase, reclaim := none })) ∧
    (∀ tail w, idle → s.store.reclaim = some ⟨tail, .copy w, false⟩ → s.store.retry = none → s.store.fault = false →
      (∀ g rest, w.foldGens = g :: rest → ((s.entry w.foldHandle).locationOf g).isSome = true) →
      let goesOn := fun u : State => ∃ w', u.CopyGoesOn tail { w with stage := .idle } w' ∧
        go = .next (u.onStore fun t => { t with reclaim := some ⟨tail, .copy w', false⟩ })
      (q = .copyAsIs ∨ (∃ k, q = .rewrite k) → goesOn ended) ∧
      (∀ h g, q = .foldKey h g → ((s.entry h).locationOf g).isSome = true → ∃ u : State,
        u = { ended with directory := u.directory } ∧ (∀ h', h' ≠ h → u.entry h' = s.entry h') ∧
        (u.entry h).locationOf g = some loc ∧ (∀ g', g' ≠ g → (u.entry h).locationOf g' = (s.entry h).locationOf g') ∧
        (u.entry h).highestGen = (s.entry h).highestGen ∧ goesOn u) ∧
      ∀ h g highest role, q = .foldRevoke h → d.record = .revoke h g highest role → w.foldGens = [] →
        ∃ t, go = .next t ∧ t.port = shown ∧
          t.entry h = { s.entry h with
            current := none, staged := none, retiring := none, lastRevoked := true, counterPending := none
            highestGen := max (s.entry h).highestGen highest
            role := if role.isSome then role else (s.entry h).role } ∧
          (∀ h', h' ≠ h → t.entry h' = s.entry h') ∧
          ∀ i a g' p m, (s.slot i).state = .opened a g' p m →
            (t.slot i).state = if a = h then .closing s.time.milli else .opened a g' p m) ∧
    (∀ j x, s.OnlyJob j x → s.store.reclaim = none → q = .lock (some j) → ∃ t, go = .next t ∧
      t.port = shown.jobDone { x with notes := x.notes ||| noteAuthNowLocked } .tagBad [] ∧
      (∀ j', t.job j' = none) ∧ t.authorities = s.authorities) ∧
    ∀ (owner : Option (JobId × Job)) h g ceiling y, q = .confirmByUse (owner.map (·.1)) → s.store.reclaim = none →
      (match owner with
      | some (j, x) => s.OnlyJob j x ∧ x.kind = .check ∧ x.handle = h ∧ x.step = .confirmStore
      | none => idle) →
      d.record = .confirm h g 0 ceiling → (s.entry h).staged = some y → y.gen = g →
      ∃ t, go = .next t ∧ (∀ j', t.job j' = none) ∧
        (d.stamp < y.deadline → (t.entry h).staged = none ∧ (t.entry h).retiring = (match (s.entry h).current with
          | some _ => none
          | none => (s.entry h).retiring.filter fun r => decide (s.time.tt < r.graceEnd)) ∧
          (t.entry h).current = some ⟨g, y.location, y.policy, y.issuedAt, y.expiry, y.signLimit, 0, ceiling, y.rx, none⟩) ∧
        (y.deadline ≤ d.stamp → (t.entry h).current = (s.entry h).current ∧
          (t.entry h).staged = (s.entry h).staged.filter fun z => decide (s.time.tt < z.deadline)) ∧
        (∀ j x, owner = some (j, x) → t.port = shown.jobDone (if d.stamp < y.deadline then
          { x with notes := x.notes ||| noteConfirmedByUse } else x) .ok [x.gen]) ∧
        (owner = none → t.port = shown ∧ (t.entry h).writeList = (s.entry h).writeList.filter fun w => w.owner.isSome)

/-- R133 to R137, R126, R131, R132: a reclaim fixes its tail, the FULL bank of lowest seq, and its COPY goes on at once where the
program circuit is free; a readied COPY row starts with the content that the state gives it now, or brings FAULT at the lowest
bound; a fold's read readies its row, or brings FAULT.
That seq 0FFFFFFFFh brings FAULT before the pump window permits the start (log entry 22), the generation 0 of a fold's REVOKE mark
(log entry 41) and the floor taken from the tail's valid rows (log entry 42) are the model's choice. -/
def Obligations.ReclaimsCopyTheTail : Prop :=
  ∀ s : State,
    (s.resetCtl.part = .ready → s.resetCtl.warmReset = false → s.supply.activity = .active → s.supply.power = .mains →
      s.store.fault = false → s.store.erasedRows ≤ 95 → s.store.reclaim = none →
      (∀ b : BankNo, s.store.banks[b] ≠ .needsErase ∧ s.store.banks[b] ≠ .erasing) →
      (∃ b : BankNo, s.store.banks[b] = .full ∧ validRowsOf s.store.array b ≠ []) →
      ∃ (t : State) (b : BankNo) (w : CopyWalk), exec .reclaimStart s = .next t ∧ t = { s with store := { s.store with reclaim := some ⟨b, .copy w, false⟩ } } ∧
        s.store.banks[b] = .full ∧ (∃ r ∈ validRowsOf s.store.array b, ∀ b' : BankNo, s.store.banks[b'] = .full →
          ∀ r' ∈ validRowsOf s.store.array b', r.2.seq ≤ r'.2.seq) ∧
        (let start : CopyWalk := ⟨0, [], 0, [], 0, .idle⟩
          if s.store.program = none ∧ s.store.retry = none then s.CopyGoesOn b start w else w = start)) ∧
    (96 ≤ s.store.erasedRows ∨ s.supply.power = .reserve → exec .reclaimStart s = .next s) ∧
    ∀ (tail : BankNo) (w : CopyWalk), s.store.reclaim = some ⟨tail, .copy w, false⟩ →
      let staged := fun x : CopyStage => some (⟨tail, .copy { w with stage := x }, false⟩ : Reclaim)
      let begun := fun (q : Requester) (p : Payload) =>
        (s.programBegun s.store.queue q p 0).onStore fun t => { t with reclaim := staged .running }
      let mark := fun r : Record => Payload.plain ⟨none, none⟩ r
      let faulted := fun t : State => t.store.fault = true ∧ t.store.reclaim = none ∧ t.store.queue = [] ∧
        t.store.array = s.store.array ∧ t.store.banks = s.store.banks
      (∀ r, w.stage = .ready r → s.StoreRuns → (∀ i, .tamper i ∉ s.store.queue) →
        (12 < s.store.erasedRows → s.store.nextSeq ≠ 0xFFFFFFFF → s.recentStarts < 4 →
          let go := exec .copyRowStart s
          (∀ d, r = .asIs d → go = .next (begun .copyAsIs (.copy d))) ∧
          (∀ k, r = .rewrite k → let a := s.authority k
            go = .next (begun (.rewrite k) (.plain ⟨some k, none⟩ (.authority k ⟨a.defined, a.commandHandle, a.transportHandle,
              a.timesetRight, a.unlockRight, a.accepted, a.lastTag, a.lockUntil⟩)))) ∧
          (r = .reclaimMark →
            go = .next (begun (.reclaimMark tail) (mark (.reclaim tail (highestSeqOf s.store.array tail))))) ∧
          (∀ h, r = .foldRevoke h →
            go = .next (begun (.foldRevoke h) (mark (.revoke h 0 (s.entry h).highestGen (s.entry h).role)))) ∧
          ∀ h g m ro, r = .foldKey h g m → (s.entry h).role = some ro →
            let row := fun (p : Policy) (expiry : Nat) (st : KeyState) =>
              go = .next (begun (.foldKey h g) (mark (.key h g ⟨m, ro, p, expiry, st, (s.entry h).highestGen⟩)))
            (∀ c, (s.entry h).current = some c → c.gen = g →
              row c.policy c.expiry (.active c.issuedAt c.signLimit c.txCeiling c.rxFloor none)) ∧
            ((∀ c, (s.entry h).current = some c → c.gen ≠ g) →
              (∀ y, (s.entry h).staged = some y → y.gen = g →
                row y.policy y.expiry (.staged y.issuedAt y.signLimit y.deadline y.authority)) ∧
              ∀ y, (∀ z, (s.entry h).staged = some z → z.gen ≠ g) → (s.entry h).retiring = some y → y.gen = g →
                row y.policy y.expiry (.retiring y.graceEnd))) ∧
        (s.store.erasedRows ≤ 12 ∨ s.store.nextSeq = 0xFFFFFFFF → (∀ j, s.job j = none) →
          ∃ t, exec .copyRowStart s = .next t ∧ faulted t)) ∧
      ∀ h g l, w.stage = .reading h g (some l) →
        (∀ d k, rowAt s.store.array l = .valid d → d.record = .key h g k → exec (.foldReadEnd true) s =
          .next (s.onStore fun t => { t with reclaim := staged (.ready (.foldKey h g k.material)) })) ∧
        ∀ crcOk, crcOk = false ∨ (∀ d k, rowAt s.store.array l = .valid d → d.record ≠ .key h g k) →
          (∀ j, s.job j = none) → s.store.program = none → ∃ t, exec (.foldReadEnd crcOk) s = .next t ∧ faulted t

/-- R127, R134 to R137: which rows are live, what a tail row calls for at its turn, the generations that a fold carries, which
authorities a reclaim rewrites, and the floor of its RECLAIM mark.
That the floor is taken from the tail's valid rows alone is the model's choice (log entry 42). -/
def Obligations.RowsAreJudgedAtTheirTurn : Prop :=
  ∀ s : State, (∀ h, (s.entry h).Law) →
    let rows := countedRows s.store.array
    let staged := fun (h : HandleNo) (g : Nat) (at_ : Location → Prop) =>
      ∃ y, (s.entry h).staged = some y ∧ s.time.tt < y.deadline ∧ y.gen = g ∧ at_ y.location
    let current := fun (h : HandleNo) (g : Nat) (at_ : Location → Prop) =>
      ∃ y, (s.entry h).current = some y ∧ y.gen = g ∧ at_ y.location
    let retiring := fun (h : HandleNo) (g : Nat) (at_ : Location → Prop) =>
      ∃ y, (s.entry h).retiring = some y ∧ s.time.tt < y.graceEnd ∧ y.gen = g ∧ at_ y.location
    let anywhere := fun _ : Location => True
    (∀ r : PlacedRow,
      let later := fun p : Record → Prop => ∃ u ∈ rows, r.2.seq < u.2.seq ∧ p u.2.record
      let keyLater := fun (h : HandleNo) (g : Nat) => later fun x => ∃ k, x = .key h g k
      let live := match r.2.record with
        | .key h g _ => staged h g (· = r.1) ∨ current h g (· = r.1) ∨ retiring h g (· = r.1)
        | .confirm h g _ _ => (current h g anywhere ∨ retiring h g anywhere) ∧ ¬keyLater h g
        | .counter h g _ _ => current h g anywhere ∧ ¬keyLater h g ∧ ¬later fun x => ∃ c f, x = .counter h g c f
        | .revoke h _ _ _ => (s.entry h).lastRevoked = true ∧ ¬later fun x => ∃ g n k, x = .revoke h g n k
        | .custody _ => ¬later fun x => ∃ m, x = .custody m
        | .setup _ _ _ => ¬later fun x => ∃ a b f, x = .setup a b f
        | .tamper i _ => (¬later fun x => ∃ n, x = .tamper i n) ∧ ¬later fun x => ∃ c f, x = .unlock c f ∧ (match i with
          | .cover => c
          | .field => f) = true
        | .reclaim b _ => (s.store.banks[b] = .needsErase ∨ s.store.banks[b] = .erasing) ∧
            ¬later fun x => ∃ f, x = .reclaim b f
        | _ => False
      let carries := fun (h : HandleNo) (x : Record) => (∃ g k, x = .key h g k ∧ k.highestGen = (s.entry h).highestGen) ∨
        ∃ g k, x = .revoke h g (s.entry h).highestGen k
      (s.rowLive rows r = true ↔ live) ∧
      ∀ folded : List HandleNo,
        (∀ h, s.rowTurn rows folded r = .fold h ↔ r.2.record.handle? = some h ∧ h ∉ folded ∧
          (live ∨ (carries h r.2.record ∧ ¬later (carries h)))) ∧
        ∀ d, s.rowTurn rows folded r = .copy d ↔ d = r.2 ∧ live ∧
          ((∃ m, d.record = .custody m) ∨ (∃ a b f, d.record = .setup a b f) ∨ ∃ i n, d.record = .tamper i n)) ∧
    (∀ h, ((s.entry h).presentGens s.time.tt).Pairwise (· < ·) ∧ ∀ g, g ∈ (s.entry h).presentGens s.time.tt ↔
      staged h g anywhere ∨ current h g anywhere ∨ retiring h g anywhere) ∧
    ∀ tail : BankNo,
      (∀ k : AuthNo,
        let defines := fun d : RowData => ∃ a, d.record = .authority k a
        let carries := fun (d : RowData) (n : Nat) =>
          (∃ t, d.header = ⟨some k, some (n, t)⟩) ∨ ∃ a, d.record = .authority k a ∧ a.accepted = n
        needsRewrite rows tail k = true ↔
          (∃ r ∈ rows, r.1.bank = tail ∧ defines r.2 ∧ ∀ u ∈ rows, u.1.bank ≠ tail → defines u.2 → u.2.seq < r.2.seq) ∨
          ∃ r ∈ rows, r.1.bank = tail ∧ ∃ n, carries r.2 n ∧ ∀ u ∈ rows, u.1.bank ≠ tail → ∀ m, carries u.2 m → m < n) ∧
      (∀ r ∈ validRowsOf s.store.array tail, r.2.seq ≤ highestSeqOf s.store.array tail) ∧
      (validRowsOf s.store.array tail ≠ [] → ∃ r ∈ validRowsOf s.store.array tail, r.2.seq = highestSeqOf s.store.array tail)

/-- R128, R129, R131, R137, R139: which erase starts, and when; it waits for a read of its bank, for the window, and for a program
where the window permits one start. Its bank is ERASED where every row is left blank, which ends a reclaim that it belongs to;
otherwise it is NEEDS_ERASE and the store enters FAULT.
What becomes of a program in flight then is the model's choice (log entry 21). -/
def Obligations.ErasesStartAndEnd : Prop :=
  ∀ (s : State) (b : BankNo),
    (s.resetCtl.part = .ready → s.resetCtl.warmReset = false → s.supply.activity = .active → s.store.fault = false →
      s.store.erase = none →
      (s.store.banks[b] = .erasing ∧ ∀ b' : BankNo, b' < b → s.store.banks[b'] ≠ .erasing) ∨
        (s.supply.power = .mains ∧ (∀ b' : BankNo, s.store.banks[b'] ≠ .erasing) ∧ s.store.banks[b] = .needsErase ∧
          ∀ b' : BankNo, b' < b → s.store.banks[b'] ≠ .needsErase) →
      let waits := s.readInFlight b = true ∨ 4 ≤ s.recentStarts ∨ (s.recentStarts = 3 ∧ s.programReady = true)
      (¬waits → exec .eraseStart s =
        .next (s.onStore fun t => { t with erase := some b, history := pushStart t.history s.time.milli })) ∧
      (waits → exec .eraseStart s = .next s)) ∧
    (s.store.erase = some b → ∀ residue : List RowResidue,
      let left := fun l : Location =>
        if l.bank = b then (rowAt s.store.array l).after (residue.getD l.row.val .blank) else rowAt s.store.array l
      let own := ∃ ab, s.store.reclaim = some ⟨b, .erase, ab⟩
      ((∀ n, left ⟨b, n⟩ = .blank) → ∃ t, exec (.eraseCompletion residue) s = .next t ∧
        t = { s with store := t.store, port := { s.port with figures := t.port.figures } } ∧
        (∀ l, rowAt t.store.array l = left l) ∧ t.store.banks = s.store.banks.set b .erased ∧ t.store.erase = none ∧
        t.store.fault = s.store.fault ∧ t.store.program = s.store.program ∧ t.store.queue = s.store.queue ∧
        (own → t.store.reclaim = none ∧
          t.port.figures.reclaimsCompleted = min (s.port.figures.reclaimsCompleted + 1) 0xFFFFFFFF) ∧
        (¬own → t.store.reclaim = s.store.reclaim ∧
          t.port.figures.reclaimsCompleted = s.port.figures.reclaimsCompleted) ∧
        t.port.figures.erasedRows = t.store.erasedRows) ∧
      ((∃ n, left ⟨b, n⟩ ≠ .blank) → ∃ t, exec (.eraseCompletion residue) s = .next t ∧
        (∀ l, (∀ p, s.store.program = some p → p.location ≠ l) → rowAt t.store.array l = left l) ∧
        (s.store.program = none ∨ s.store.headBank ≠ b → t.store.banks[b] = .needsErase) ∧ t.store.erase = none ∧
        (t.store.fault = true ∧ t.store.queue = [] ∧ t.store.program = none ∧ t.store.retry = none) ∧
        t.port.figures.reclaimsCompleted = s.port.figures.reclaimsCompleted))

/-! ## Time, tamper and supply -/

/-- R49, R142 to R144, R147: a second that has come moves the idle timers of OPEN slots and, in READY, TT and the sub-count; a wrap
of the sub-count adds 1 to D up to step_max; a TIME mark falls due 21600 seconds past the last recorded stamp.
That seconds and wraps are counted until their own commands act on them is the model's choice (log entry 26). -/
def Obligations.SecondsCreditsAndTimeMarks : Prop :=
  ∀ s : State,
    (s.time.secondsDue = 0 → exec .timeBaseSecond s = .next s) ∧
    (0 < s.time.secondsDue → ∃ t, exec .timeBaseSecond s = .next t ∧
      t = { s with slots := { s.slots with host := t.slots.host }, time := t.time } ∧
      (∀ i, t.slot i = match (s.slot i).state with
        | .opened _ _ _ _ => { s.slot i with idle := min ((s.slot i).idle + 1) 3600 }
        | _ => s.slot i) ∧
      t.time = match s.resetCtl.part with
        | .starting => { s.time with secondsDue := s.time.secondsDue - 1 }
        | .ready => { s.time with
          secondsDue := s.time.secondsDue - 1
          tt := min (s.time.tt + 1) 0xFFFFFFFE
          subCount := if s.time.subCount < 63 then s.time.subCount + 1 else 0
          creditsDue := if s.time.subCount < 63 then s.time.creditsDue else s.time.creditsDue + 1 }) ∧
    (s.time.creditsDue = 0 → exec .driftCreditAccrual s = .next s) ∧
    (0 < s.time.creditsDue → exec .driftCreditAccrual s = .next { s with time := { s.time with
      creditsDue := s.time.creditsDue - 1, drift := min (s.time.drift + 1) s.time.stepMax } }) ∧
    let due := s.resetCtl.part = .ready ∧ s.time.lastStamp + 21600 ≤ s.time.tt ∧ s.time.timeMark = .none
    (¬due → exec .timeMarkDue s = .next s) ∧
    (due → s.store.fault = false → exec .timeMarkDue s = .next ((s.wake.onTime fun t => { t with timeMark := .waiting }).onStore
      fun t => { t with queue := t.queue ++ [.timeMark] })) ∧
    (due → s.store.fault = true → exec .timeMarkDue s = .next s.wake)

/-- R51, R132, R151 to R153, R160: a latch that is due sets, with TT as its time; OPEN slots with a TAMPER_LOCK key are wiped, and a
front use that needs the key completes TAMPER_LOCK; the TAMPER mark joins the queue behind the TAMPER marks at its front, or is
refused in FAULT; ALERT.TAMPER is set. A latch that is not due changes nothing.
That a use which the wipe ends keeps the notes it has gathered is the model's choice (log entry 20). -/
def Obligations.TamperLatchesSet : Prop :=
  ∀ (s : State) (i : TamperInput),
    let y := s.tamper.input i
    let due := s.resetCtl.part = .ready ∧ y.setup.enabled = true ∧ y.latched = false ∧ y.setup.debounce ≤ y.debounceCount
    let latched := fun m : MarkState => s.tamper.onInput i fun z =>
      { z with latched := true, latchTime := s.time.tt, mark := m }
    (¬due → exec (.tamperLatch i) s = .next s) ∧
    (due → (∀ j, s.job j = none) → ∃ t, exec (.tamperLatch i) s = .next t ∧
      (∀ n, t.slot n = match (s.slot n).state with
        | .opened h g p k => if p.tamperLock then { s.slot n with state := .closing s.time.milli, idle := 0 }
          else { s.slot n with state := .opened h g p k }
        | _ => s.slot n) ∧
      t.port = { s.port with alert := s.port.alert ||| alertTamper } ∧ t.supply.activity = .active ∧
      t.directory = s.directory ∧ t.time = s.time ∧
      (s.store.fault = false → t.tamper = latched .waiting ∧ ∃ front behind, s.store.queue = front ++ behind ∧
        (∀ q ∈ front, ∃ n, q = .tamper n) ∧ (∀ n, behind.head? ≠ some (.tamper n)) ∧
        t.store = { s.store with queue := front ++ .tamper i :: behind }) ∧
      (s.store.fault = true → t.tamper = latched .none ∧ t.store = s.store)) ∧
    ∀ n h g p k j x, due → (s.slot n).state = .opened h g p k → p.tamperLock = true → (s.slot n).list = [j] → s.OnlyJob j x →
      x.kind = .sign ∨ x.kind = .check → x.step.needsKey = true →
      ∃ t, exec (.tamperLatch i) s = .next t ∧ (∀ j', t.job j' = none) ∧ (t.slot n).state = .closing s.time.milli ∧
        t.port = { s.port.jobDone x .tamperLock [] with alert := (s.port.jobDone x .tamperLock []).alert ||| alertTamper }

/-- R48, R50, R51: the uses that a wipe from outside ends. At a durable REVOKE of a handle, a front use that needs its key completes
NO_KEY, its slot CLOSING, and an opening of the handle ends, its slot EMPTY, its request out of the arbiter and its unwrap in flight
discarded. At a tamper latch, a front use that needs the key and the uses before the first OPEN or CLOSE complete TAMPER_LOCK in
list order; a front CHECK that waits for its confirm record and the jobs from the first OPEN or CLOSE on keep their places.
That a use which the wipe ends keeps the notes it has gathered is the model's choice (log entry 20). -/
def Obligations.WipesCompleteTheUses : Prop :=
  (∀ (s : State) (j jy : JobId) (x y : Job) (n : Fin 4) (loc : Location) (d : RowData) (payload : Payload) (failures : Nat)
      (k : AuthNo) (c : Nat) (tag : Tag) (h : HandleNo) (g highest g' : Nat) (role : Option Role) (p : Policy) (m : List Byte),
    s.store.program = some ⟨.package (some j), payload, loc, d, failures⟩ → s.store.reclaim = none →
    d.header = ⟨some k, some (c, tag)⟩ → d.record = .revoke h g highest role →
    s.job j = some x → x.kind = .package → x.step = .recordStore → s.engine.lane = some j → s.engine.laneWaiting = [] →
    jy ≠ j → s.job jy = some y → (∀ i, i ≠ j → i ≠ jy → s.job i = none) →
    (s.slot n).list = [jy] → (∀ i, i ≠ n → (s.slot i).list = []) →
    let ends := fun f : State → Prop => ∃ t, exec .appendCompletion s = .next t ∧ (∀ i, t.job i = none) ∧ (t.slot n).list = [] ∧
      t.port = (({ s.port with figures := s.figuresAfter }).jobDone y .noKey []).jobDone x .ok
        [pkgAuthByte x.input, pkgResultGen x.input, pkgCounter x.input] ∧ f t
    ((s.slot n).state = .opened h g' p m → y.kind = .sign ∨ y.kind = .check → y.step.needsKey = true →
      ends fun t => (t.slot n).state = .closing s.time.milli ∧ (t.slot n).idle = 0) ∧
    ((∃ l, (s.slot n).state = .reading h g' l) ∨ (s.slot n).state = .unwrapping h g' p m →
      ends fun t => (t.slot n).state = .empty ∧ .slotUnwrap (.host n) ∉ t.cipher.waiting ∧
        ∀ r, s.cipher.running = some r → r.op = .slotUnwrap (.host n) m → t.cipher.running = some { r with discarded := true })) ∧
  ∀ (s : State) (i : TamperInput) (n : Fin 4) (h : HandleNo) (g : Nat) (p : Policy) (m : List Byte)
      (front uses kept : List JobId),
    let y := s.tamper.input i
    let isUse := fun j : JobId => ∃ x, s.job j = some x ∧ (x.kind = .sign ∨ x.kind = .check)
    s.resetCtl.part = .ready → y.setup.enabled = true → y.latched = false → y.setup.debounce ≤ y.debounceCount →
    (s.slot n).state = .opened h g p m → p.tamperLock = true → (s.slot n).list = front ++ (uses ++ kept) →
    (s.slot n).list.Nodup → (∀ k, k ≠ n → (s.slot k).list = []) → s.engine.lane = none → s.engine.laneWaiting = [] →
    (∀ j x, s.job j = some x → j ∈ (s.slot n).list) →
    (front = [] ∧ (∀ j x, uses.head? = some j → s.job j = some x → x.step.needsKey = true)) ∨
      (∃ f x, front = [f] ∧ s.job f = some x ∧ x.kind = .check ∧ x.step = .confirmStore) →
    (∀ j ∈ uses, isUse j) → (∀ j, kept.head? = some j → ¬isUse j) →
    (∀ j x, j ∈ kept → s.job j = some x → x.step = .slotQueue) →
    let done := uses.foldl (fun q j => match s.job j with
      | some x => q.jobDone x .tamperLock []
      | none => q) s.port
    ∃ t, exec (.tamperLatch i) s = .next t ∧ t.port = { done with alert := done.alert ||| alertTamper } ∧
      t.slot n = ⟨.closing s.time.milli, 0, front ++ kept⟩ ∧ ∀ j, t.job j = if j ∈ uses then none else s.job j

/-- R157, R158, R138: on four disagreeing samples the power state changes, and ALERT.SUPPLY is set in READY; the first four samples
set the power state and RESERVE_AT_RESET without an alert. At either, a change to RESERVE abandons the erase in flight and turns
ERASING banks NEEDS_ERASE. -/
def Obligations.PowerStateFollowsTheSupply : Prop :=
  ∀ s : State,
    let alert := if s.resetCtl.part = .ready then s.port.alert ||| alertSupply else s.port.alert
    let low := decide (s.supply.firstSamples = [false, false, false, false])
    let reset := { s.resetCtl with reserveAtReset := low }
    let abandons := fun t : State =>
      (let n := s.port.figures.erasesAbandoned
        let shown := { s.port.figures with erasesAbandoned := if s.store.erase.isSome then min (n + 1) 0xFFFFFFFF else n }
        t.port = { s.port with alert := t.port.alert, figures := shown }) ∧
      t.store.erase = none ∧ t.store.program = s.store.program ∧ t.store.retry = s.store.retry ∧
      t.store.queue = s.store.queue ∧ t.store.fault = s.store.fault ∧
      (∀ b : BankNo, t.store.banks[b] =
        if s.store.banks[b] = .erasing ∨ s.store.erase = some b then .needsErase else s.store.banks[b]) ∧
      (∀ l, s.store.erase ≠ some l.bank → rowAt t.store.array l = rowAt s.store.array l) ∧
      t.store.reclaim = (match s.store.reclaim with
        | some ⟨_, .erase, _⟩ => none
        | r => r) ∧
      (∀ j, t.job j = s.job j) ∧ t.slots = s.slots ∧ t.directory = s.directory ∧ t.time = s.time
    (s.supply.disagree < 4 → exec .powerStateChange s = .next s) ∧
    (4 ≤ s.supply.disagree → s.supply.power = .reserve → exec .powerStateChange s =
      .next { s with supply := { s.supply with power := .mains, disagree := 0 }, port := { s.port with alert := alert } }) ∧
    (4 ≤ s.supply.disagree → s.supply.power = .mains → ∃ t, exec .powerStateChange s = .next t ∧
      t.supply = { s.supply with power := .reserve, disagree := 0 } ∧ t.resetCtl = s.resetCtl ∧ t.port.alert = alert ∧
      abandons t) ∧
    (s.supply.powerSet = true ∨ s.supply.firstSamples.length < 4 → exec .initialPowerState s = .next s) ∧
    (s.supply.powerSet = false → s.supply.firstSamples.length = 4 →
      let set := { s.supply with power := if low then .reserve else .mains, powerSet := true, disagree := 0 }
      (low = false ∨ s.supply.power = .reserve →
        exec .initialPowerState s = .next { s with supply := set, resetCtl := reset }) ∧
      (low = true → s.supply.power = .mains → ∃ t, exec .initialPowerState s = .next t ∧ t.supply = set ∧
        t.resetCtl = reset ∧ t.port.alert = s.port.alert ∧ abandons t))

/-- R142, R151, R156 to R160: a milli-tick moves the second's prescaler, samples the enabled tamper inputs in READY and PFAIL_N, and
moves the standby count, which rises while the part is READY, ACTIVE and at rest, in the power state that its sample makes due.
At 64 the part enters standby; a change of sampled level there wakes it.
The model's choice: the entry judges its conditions again with the count held at 64 (log entry 29); a level not yet sampled makes
no change (log entry 32); a change is handed on to STANDBY_WAKE (log entry 26); a waiting retry keeps the part awake (log entry
43), and so does an erase that a fourth low sample is about to abandon (log entry 44); a change at the milli-tick which brings the
count to 64 does not wake the part (log entry 48). -/
def Obligations.MilliTicksAndStandby : Prop :=
  ∀ s : State,
    (∀ cover field pfail : Bool,
      let sampled := fun (y : TamperState) (level : Bool) =>
        if y.setup.enabled then { y with
          level := some level, debounceCount := if level = y.setup.activeHigh then min (y.debounceCount + 1) 255 else 0 }
        else { y with level := none, debounceCount := 0 }
      let changes := fun (y : TamperState) (level : Bool) => y.setup.enabled = true ∧ ∃ l, y.level = some l ∧ l ≠ level
      let moved := changes s.tamper.cover cover ∨ changes s.tamper.field field ∨ ∃ l, s.supply.pfailLevel = some l ∧ l ≠ pfail
      ∃ t, exec (.timeBaseMilliTick cover field pfail) s = .next t ∧
        t = { s with time := t.time, tamper := t.tamper, supply := t.supply } ∧
        t.time = { s.time with
          milli := s.time.milli + 1
          prescaler := if s.time.prescaler < 1023 then s.time.prescaler + 1 else 0
          secondsDue := if s.time.prescaler < 1023 then s.time.secondsDue else s.time.secondsDue + 1 } ∧
        t.tamper = (match s.resetCtl.part with
          | .starting => s.tamper
          | .ready => ⟨sampled s.tamper.cover cover, sampled s.tamper.field field⟩) ∧
        t.supply.power = s.supply.power ∧ t.supply.activity = s.supply.activity ∧ t.supply.powerSet = s.supply.powerSet ∧
        (s.supply.powerSet = true → t.supply.firstSamples = s.supply.firstSamples ∧
          t.supply.disagree = if decide (pfail = true ↔ s.supply.power = .mains) then 0 else min (s.supply.disagree + 1) 4) ∧
        (s.supply.powerSet = false → t.supply.disagree = s.supply.disagree ∧ t.supply.firstSamples =
          if s.supply.firstSamples.length < 4 then s.supply.firstSamples ++ [pfail] else s.supply.firstSamples) ∧
        (let due := if 4 ≤ t.supply.disagree then (if s.supply.power = .mains then .reserve else .mains)
            else if s.supply.powerSet = false ∧ t.supply.firstSamples.length = 4 then
              (if t.supply.firstSamples = [false, false, false, false] then .reserve else .mains)
            else s.supply.power
          let counts := s.resetCtl.part = .ready ∧ s.supply.activity = .active ∧ (s.onSupply fun q => { q with power := due }).AtRest
          (counts → t.supply.standbyCount = min (s.supply.standbyCount + 1) 64) ∧ (¬counts → t.supply.standbyCount = 0)) ∧
        (t.supply.levelChanged = true ↔ s.supply.levelChanged = true ∨ (s.supply.activity = .standby ∧ moved))) ∧
    let enters := s.resetCtl.part = .ready ∧ s.supply.activity = .active ∧ s.AtRest ∧ 64 ≤ s.supply.standbyCount
    (enters → exec .standbyEntry s =
      .next (s.onSupply fun p => { p with activity := .standby, standbyCount := 0, levelChanged := false })) ∧
    (¬enters → exec .standbyEntry s = .next s) ∧
    (s.supply.levelChanged = true → s.supply.activity = .standby → exec .standbyWake s =
      .next (s.onSupply fun p => { p with activity := .active, standbyCount := 0, levelChanged := false })) ∧
    (s.supply.levelChanged = false → exec .standbyWake s = .next s)
end

