-- ==== Sys2Proof/Laws/State.lean ====
section
/-!
SUPPORT. The small lemmas of the state's named updates: what each update gives for each block of the state, so that
no later proof unfolds a record update.
-/

namespace Sys2Proof.Machine

open Sys2Proof

set_option Elab.async false

/-! ## `State.onReset` -/

@[simp] theorem State.onReset_resetCtl (s : State) (f : ResetState → ResetState) : (s.onReset f).resetCtl = f s.resetCtl := rfl
@[simp] theorem State.onReset_port (s : State) (f : ResetState → ResetState) : (s.onReset f).port = s.port := rfl
@[simp] theorem State.onReset_settings (s : State) (f : ResetState → ResetState) : (s.onReset f).settings = s.settings := rfl
@[simp] theorem State.onReset_engine (s : State) (f : ResetState → ResetState) : (s.onReset f).engine = s.engine := rfl
@[simp] theorem State.onReset_cipher (s : State) (f : ResetState → ResetState) : (s.onReset f).cipher = s.cipher := rfl
@[simp] theorem State.onReset_slots (s : State) (f : ResetState → ResetState) : (s.onReset f).slots = s.slots := rfl
@[simp] theorem State.onReset_directory (s : State) (f : ResetState → ResetState) : (s.onReset f).directory = s.directory := rfl
@[simp] theorem State.onReset_authorities (s : State) (f : ResetState → ResetState) : (s.onReset f).authorities = s.authorities := rfl
@[simp] theorem State.onReset_custody (s : State) (f : ResetState → ResetState) : (s.onReset f).custody = s.custody := rfl
@[simp] theorem State.onReset_store (s : State) (f : ResetState → ResetState) : (s.onReset f).store = s.store := rfl
@[simp] theorem State.onReset_time (s : State) (f : ResetState → ResetState) : (s.onReset f).time = s.time := rfl
@[simp] theorem State.onReset_tamper (s : State) (f : ResetState → ResetState) : (s.onReset f).tamper = s.tamper := rfl
@[simp] theorem State.onReset_supply (s : State) (f : ResetState → ResetState) : (s.onReset f).supply = s.supply := rfl
@[simp] theorem State.onReset_pending (s : State) (f : ResetState → ResetState) : (s.onReset f).pending = s.pending := rfl
@[simp] theorem State.onReset_freeDraws (s : State) (f : ResetState → ResetState) : (s.onReset f).freeDraws = s.freeDraws := rfl

/-! ## `State.onPort` -/

@[simp] theorem State.onPort_resetCtl (s : State) (f : Port → Port) : (s.onPort f).resetCtl = s.resetCtl := rfl
@[simp] theorem State.onPort_port (s : State) (f : Port → Port) : (s.onPort f).port = f s.port := rfl
@[simp] theorem State.onPort_settings (s : State) (f : Port → Port) : (s.onPort f).settings = s.settings := rfl
@[simp] theorem State.onPort_engine (s : State) (f : Port → Port) : (s.onPort f).engine = s.engine := rfl
@[simp] theorem State.onPort_cipher (s : State) (f : Port → Port) : (s.onPort f).cipher = s.cipher := rfl
@[simp] theorem State.onPort_slots (s : State) (f : Port → Port) : (s.onPort f).slots = s.slots := rfl
@[simp] theorem State.onPort_directory (s : State) (f : Port → Port) : (s.onPort f).directory = s.directory := rfl
@[simp] theorem State.onPort_authorities (s : State) (f : Port → Port) : (s.onPort f).authorities = s.authorities := rfl
@[simp] theorem State.onPort_custody (s : State) (f : Port → Port) : (s.onPort f).custody = s.custody := rfl
@[simp] theorem State.onPort_store (s : State) (f : Port → Port) : (s.onPort f).store = s.store := rfl
@[simp] theorem State.onPort_time (s : State) (f : Port → Port) : (s.onPort f).time = s.time := rfl
@[simp] theorem State.onPort_tamper (s : State) (f : Port → Port) : (s.onPort f).tamper = s.tamper := rfl
@[simp] theorem State.onPort_supply (s : State) (f : Port → Port) : (s.onPort f).supply = s.supply := rfl
@[simp] theorem State.onPort_pending (s : State) (f : Port → Port) : (s.onPort f).pending = s.pending := rfl
@[simp] theorem State.onPort_freeDraws (s : State) (f : Port → Port) : (s.onPort f).freeDraws = s.freeDraws := rfl

/-! ## `State.onSettings` -/

@[simp] theorem State.onSettings_resetCtl (s : State) (f : Settings → Settings) : (s.onSettings f).resetCtl = s.resetCtl := rfl
@[simp] theorem State.onSettings_port (s : State) (f : Settings → Settings) : (s.onSettings f).port = s.port := rfl
@[simp] theorem State.onSettings_settings (s : State) (f : Settings → Settings) : (s.onSettings f).settings = f s.settings := rfl
@[simp] theorem State.onSettings_engine (s : State) (f : Settings → Settings) : (s.onSettings f).engine = s.engine := rfl
@[simp] theorem State.onSettings_cipher (s : State) (f : Settings → Settings) : (s.onSettings f).cipher = s.cipher := rfl
@[simp] theorem State.onSettings_slots (s : State) (f : Settings → Settings) : (s.onSettings f).slots = s.slots := rfl
@[simp] theorem State.onSettings_directory (s : State) (f : Settings → Settings) : (s.onSettings f).directory = s.directory := rfl
@[simp] theorem State.onSettings_authorities (s : State) (f : Settings → Settings) : (s.onSettings f).authorities = s.authorities := rfl
@[simp] theorem State.onSettings_custody (s : State) (f : Settings → Settings) : (s.onSettings f).custody = s.custody := rfl
@[simp] theorem State.onSettings_store (s : State) (f : Settings → Settings) : (s.onSettings f).store = s.store := rfl
@[simp] theorem State.onSettings_time (s : State) (f : Settings → Settings) : (s.onSettings f).time = s.time := rfl
@[simp] theorem State.onSettings_tamper (s : State) (f : Settings → Settings) : (s.onSettings f).tamper = s.tamper := rfl
@[simp] theorem State.onSettings_supply (s : State) (f : Settings → Settings) : (s.onSettings f).supply = s.supply := rfl
@[simp] theorem State.onSettings_pending (s : State) (f : Settings → Settings) : (s.onSettings f).pending = s.pending := rfl
@[simp] theorem State.onSettings_freeDraws (s : State) (f : Settings → Settings) : (s.onSettings f).freeDraws = s.freeDraws := rfl

/-! ## `State.onEngine` -/

@[simp] theorem State.onEngine_resetCtl (s : State) (f : Engine → Engine) : (s.onEngine f).resetCtl = s.resetCtl := rfl
@[simp] theorem State.onEngine_port (s : State) (f : Engine → Engine) : (s.onEngine f).port = s.port := rfl
@[simp] theorem State.onEngine_settings (s : State) (f : Engine → Engine) : (s.onEngine f).settings = s.settings := rfl
@[simp] theorem State.onEngine_engine (s : State) (f : Engine → Engine) : (s.onEngine f).engine = f s.engine := rfl
@[simp] theorem State.onEngine_cipher (s : State) (f : Engine → Engine) : (s.onEngine f).cipher = s.cipher := rfl
@[simp] theorem State.onEngine_slots (s : State) (f : Engine → Engine) : (s.onEngine f).slots = s.slots := rfl
@[simp] theorem State.onEngine_directory (s : State) (f : Engine → Engine) : (s.onEngine f).directory = s.directory := rfl
@[simp] theorem State.onEngine_authorities (s : State) (f : Engine → Engine) : (s.onEngine f).authorities = s.authorities := rfl
@[simp] theorem State.onEngine_custody (s : State) (f : Engine → Engine) : (s.onEngine f).custody = s.custody := rfl
@[simp] theorem State.onEngine_store (s : State) (f : Engine → Engine) : (s.onEngine f).store = s.store := rfl
@[simp] theorem State.onEngine_time (s : State) (f : Engine → Engine) : (s.onEngine f).time = s.time := rfl
@[simp] theorem State.onEngine_tamper (s : State) (f : Engine → Engine) : (s.onEngine f).tamper = s.tamper := rfl
@[simp] theorem State.onEngine_supply (s : State) (f : Engine → Engine) : (s.onEngine f).supply = s.supply := rfl
@[simp] theorem State.onEngine_pending (s : State) (f : Engine → Engine) : (s.onEngine f).pending = s.pending := rfl
@[simp] theorem State.onEngine_freeDraws (s : State) (f : Engine → Engine) : (s.onEngine f).freeDraws = s.freeDraws := rfl

/-! ## `State.onCipher` -/

@[simp] theorem State.onCipher_resetCtl (s : State) (f : Cipher → Cipher) : (s.onCipher f).resetCtl = s.resetCtl := rfl
@[simp] theorem State.onCipher_port (s : State) (f : Cipher → Cipher) : (s.onCipher f).port = s.port := rfl
@[simp] theorem State.onCipher_settings (s : State) (f : Cipher → Cipher) : (s.onCipher f).settings = s.settings := rfl
@[simp] theorem State.onCipher_engine (s : State) (f : Cipher → Cipher) : (s.onCipher f).engine = s.engine := rfl
@[simp] theorem State.onCipher_cipher (s : State) (f : Cipher → Cipher) : (s.onCipher f).cipher = f s.cipher := rfl
@[simp] theorem State.onCipher_slots (s : State) (f : Cipher → Cipher) : (s.onCipher f).slots = s.slots := rfl
@[simp] theorem State.onCipher_directory (s : State) (f : Cipher → Cipher) : (s.onCipher f).directory = s.directory := rfl
@[simp] theorem State.onCipher_authorities (s : State) (f : Cipher → Cipher) : (s.onCipher f).authorities = s.authorities := rfl
@[simp] theorem State.onCipher_custody (s : State) (f : Cipher → Cipher) : (s.onCipher f).custody = s.custody := rfl
@[simp] theorem State.onCipher_store (s : State) (f : Cipher → Cipher) : (s.onCipher f).store = s.store := rfl
@[simp] theorem State.onCipher_time (s : State) (f : Cipher → Cipher) : (s.onCipher f).time = s.time := rfl
@[simp] theorem State.onCipher_tamper (s : State) (f : Cipher → Cipher) : (s.onCipher f).tamper = s.tamper := rfl
@[simp] theorem State.onCipher_supply (s : State) (f : Cipher → Cipher) : (s.onCipher f).supply = s.supply := rfl
@[simp] theorem State.onCipher_pending (s : State) (f : Cipher → Cipher) : (s.onCipher f).pending = s.pending := rfl
@[simp] theorem State.onCipher_freeDraws (s : State) (f : Cipher → Cipher) : (s.onCipher f).freeDraws = s.freeDraws := rfl

/-! ## `State.onSlots` -/

@[simp] theorem State.onSlots_resetCtl (s : State) (f : Slots → Slots) : (s.onSlots f).resetCtl = s.resetCtl := rfl
@[simp] theorem State.onSlots_port (s : State) (f : Slots → Slots) : (s.onSlots f).port = s.port := rfl
@[simp] theorem State.onSlots_settings (s : State) (f : Slots → Slots) : (s.onSlots f).settings = s.settings := rfl
@[simp] theorem State.onSlots_engine (s : State) (f : Slots → Slots) : (s.onSlots f).engine = s.engine := rfl
@[simp] theorem State.onSlots_cipher (s : State) (f : Slots → Slots) : (s.onSlots f).cipher = s.cipher := rfl
@[simp] theorem State.onSlots_slots (s : State) (f : Slots → Slots) : (s.onSlots f).slots = f s.slots := rfl
@[simp] theorem State.onSlots_directory (s : State) (f : Slots → Slots) : (s.onSlots f).directory = s.directory := rfl
@[simp] theorem State.onSlots_authorities (s : State) (f : Slots → Slots) : (s.onSlots f).authorities = s.authorities := rfl
@[simp] theorem State.onSlots_custody (s : State) (f : Slots → Slots) : (s.onSlots f).custody = s.custody := rfl
@[simp] theorem State.onSlots_store (s : State) (f : Slots → Slots) : (s.onSlots f).store = s.store := rfl
@[simp] theorem State.onSlots_time (s : State) (f : Slots → Slots) : (s.onSlots f).time = s.time := rfl
@[simp] theorem State.onSlots_tamper (s : State) (f : Slots → Slots) : (s.onSlots f).tamper = s.tamper := rfl
@[simp] theorem State.onSlots_supply (s : State) (f : Slots → Slots) : (s.onSlots f).supply = s.supply := rfl
@[simp] theorem State.onSlots_pending (s : State) (f : Slots → Slots) : (s.onSlots f).pending = s.pending := rfl
@[simp] theorem State.onSlots_freeDraws (s : State) (f : Slots → Slots) : (s.onSlots f).freeDraws = s.freeDraws := rfl

/-! ## `State.onCustody` -/

@[simp] theorem State.onCustody_resetCtl (s : State) (f : Custody → Custody) : (s.onCustody f).resetCtl = s.resetCtl := rfl
@[simp] theorem State.onCustody_port (s : State) (f : Custody → Custody) : (s.onCustody f).port = s.port := rfl
@[simp] theorem State.onCustody_settings (s : State) (f : Custody → Custody) : (s.onCustody f).settings = s.settings := rfl
@[simp] theorem State.onCustody_engine (s : State) (f : Custody → Custody) : (s.onCustody f).engine = s.engine := rfl
@[simp] theorem State.onCustody_cipher (s : State) (f : Custody → Custody) : (s.onCustody f).cipher = s.cipher := rfl
@[simp] theorem State.onCustody_slots (s : State) (f : Custody → Custody) : (s.onCustody f).slots = s.slots := rfl
@[simp] theorem State.onCustody_directory (s : State) (f : Custody → Custody) : (s.onCustody f).directory = s.directory := rfl
@[simp] theorem State.onCustody_authorities (s : State) (f : Custody → Custody) : (s.onCustody f).authorities = s.authorities := rfl
@[simp] theorem State.onCustody_custody (s : State) (f : Custody → Custody) : (s.onCustody f).custody = f s.custody := rfl
@[simp] theorem State.onCustody_store (s : State) (f : Custody → Custody) : (s.onCustody f).store = s.store := rfl
@[simp] theorem State.onCustody_time (s : State) (f : Custody → Custody) : (s.onCustody f).time = s.time := rfl
@[simp] theorem State.onCustody_tamper (s : State) (f : Custody → Custody) : (s.onCustody f).tamper = s.tamper := rfl
@[simp] theorem State.onCustody_supply (s : State) (f : Custody → Custody) : (s.onCustody f).supply = s.supply := rfl
@[simp] theorem State.onCustody_pending (s : State) (f : Custody → Custody) : (s.onCustody f).pending = s.pending := rfl
@[simp] theorem State.onCustody_freeDraws (s : State) (f : Custody → Custody) : (s.onCustody f).freeDraws = s.freeDraws := rfl

/-! ## `State.onStore` -/

@[simp] theorem State.onStore_resetCtl (s : State) (f : Store → Store) : (s.onStore f).resetCtl = s.resetCtl := rfl
@[simp] theorem State.onStore_port (s : State) (f : Store → Store) : (s.onStore f).port = s.port := rfl
@[simp] theorem State.onStore_settings (s : State) (f : Store → Store) : (s.onStore f).settings = s.settings := rfl
@[simp] theorem State.onStore_engine (s : State) (f : Store → Store) : (s.onStore f).engine = s.engine := rfl
@[simp] theorem State.onStore_cipher (s : State) (f : Store → Store) : (s.onStore f).cipher = s.cipher := rfl
@[simp] theorem State.onStore_slots (s : State) (f : Store → Store) : (s.onStore f).slots = s.slots := rfl
@[simp] theorem State.onStore_directory (s : State) (f : Store → Store) : (s.onStore f).directory = s.directory := rfl
@[simp] theorem State.onStore_authorities (s : State) (f : Store → Store) : (s.onStore f).authorities = s.authorities := rfl
@[simp] theorem State.onStore_custody (s : State) (f : Store → Store) : (s.onStore f).custody = s.custody := rfl
@[simp] theorem State.onStore_store (s : State) (f : Store → Store) : (s.onStore f).store = f s.store := rfl
@[simp] theorem State.onStore_time (s : State) (f : Store → Store) : (s.onStore f).time = s.time := rfl
@[simp] theorem State.onStore_tamper (s : State) (f : Store → Store) : (s.onStore f).tamper = s.tamper := rfl
@[simp] theorem State.onStore_supply (s : State) (f : Store → Store) : (s.onStore f).supply = s.supply := rfl
@[simp] theorem State.onStore_pending (s : State) (f : Store → Store) : (s.onStore f).pending = s.pending := rfl
@[simp] theorem State.onStore_freeDraws (s : State) (f : Store → Store) : (s.onStore f).freeDraws = s.freeDraws := rfl

/-! ## `State.onTime` -/

@[simp] theorem State.onTime_resetCtl (s : State) (f : TimeBase → TimeBase) : (s.onTime f).resetCtl = s.resetCtl := rfl
@[simp] theorem State.onTime_port (s : State) (f : TimeBase → TimeBase) : (s.onTime f).port = s.port := rfl
@[simp] theorem State.onTime_settings (s : State) (f : TimeBase → TimeBase) : (s.onTime f).settings = s.settings := rfl
@[simp] theorem State.onTime_engine (s : State) (f : TimeBase → TimeBase) : (s.onTime f).engine = s.engine := rfl
@[simp] theorem State.onTime_cipher (s : State) (f : TimeBase → TimeBase) : (s.onTime f).cipher = s.cipher := rfl
@[simp] theorem State.onTime_slots (s : State) (f : TimeBase → TimeBase) : (s.onTime f).slots = s.slots := rfl
@[simp] theorem State.onTime_directory (s : State) (f : TimeBase → TimeBase) : (s.onTime f).directory = s.directory := rfl
@[simp] theorem State.onTime_authorities (s : State) (f : TimeBase → TimeBase) : (s.onTime f).authorities = s.authorities := rfl
@[simp] theorem State.onTime_custody (s : State) (f : TimeBase → TimeBase) : (s.onTime f).custody = s.custody := rfl
@[simp] theorem State.onTime_store (s : State) (f : TimeBase → TimeBase) : (s.onTime f).store = s.store := rfl
@[simp] theorem State.onTime_time (s : State) (f : TimeBase → TimeBase) : (s.onTime f).time = f s.time := rfl
@[simp] theorem State.onTime_tamper (s : State) (f : TimeBase → TimeBase) : (s.onTime f).tamper = s.tamper := rfl
@[simp] theorem State.onTime_supply (s : State) (f : TimeBase → TimeBase) : (s.onTime f).supply = s.supply := rfl
@[simp] theorem State.onTime_pending (s : State) (f : TimeBase → TimeBase) : (s.onTime f).pending = s.pending := rfl
@[simp] theorem State.onTime_freeDraws (s : State) (f : TimeBase → TimeBase) : (s.onTime f).freeDraws = s.freeDraws := rfl

/-! ## `State.onTamper` -/

@[simp] theorem State.onTamper_resetCtl (s : State) (f : Tamper → Tamper) : (s.onTamper f).resetCtl = s.resetCtl := rfl
@[simp] theorem State.onTamper_port (s : State) (f : Tamper → Tamper) : (s.onTamper f).port = s.port := rfl
@[simp] theorem State.onTamper_settings (s : State) (f : Tamper → Tamper) : (s.onTamper f).settings = s.settings := rfl
@[simp] theorem State.onTamper_engine (s : State) (f : Tamper → Tamper) : (s.onTamper f).engine = s.engine := rfl
@[simp] theorem State.onTamper_cipher (s : State) (f : Tamper → Tamper) : (s.onTamper f).cipher = s.cipher := rfl
@[simp] theorem State.onTamper_slots (s : State) (f : Tamper → Tamper) : (s.onTamper f).slots = s.slots := rfl
@[simp] theorem State.onTamper_directory (s : State) (f : Tamper → Tamper) : (s.onTamper f).directory = s.directory := rfl
@[simp] theorem State.onTamper_authorities (s : State) (f : Tamper → Tamper) : (s.onTamper f).authorities = s.authorities := rfl
@[simp] theorem State.onTamper_custody (s : State) (f : Tamper → Tamper) : (s.onTamper f).custody = s.custody := rfl
@[simp] theorem State.onTamper_store (s : State) (f : Tamper → Tamper) : (s.onTamper f).store = s.store := rfl
@[simp] theorem State.onTamper_time (s : State) (f : Tamper → Tamper) : (s.onTamper f).time = s.time := rfl
@[simp] theorem State.onTamper_tamper (s : State) (f : Tamper → Tamper) : (s.onTamper f).tamper = f s.tamper := rfl
@[simp] theorem State.onTamper_supply (s : State) (f : Tamper → Tamper) : (s.onTamper f).supply = s.supply := rfl
@[simp] theorem State.onTamper_pending (s : State) (f : Tamper → Tamper) : (s.onTamper f).pending = s.pending := rfl
@[simp] theorem State.onTamper_freeDraws (s : State) (f : Tamper → Tamper) : (s.onTamper f).freeDraws = s.freeDraws := rfl

/-! ## `State.onSupply` -/

@[simp] theorem State.onSupply_resetCtl (s : State) (f : Supply → Supply) : (s.onSupply f).resetCtl = s.resetCtl := rfl
@[simp] theorem State.onSupply_port (s : State) (f : Supply → Supply) : (s.onSupply f).port = s.port := rfl
@[simp] theorem State.onSupply_settings (s : State) (f : Supply → Supply) : (s.onSupply f).settings = s.settings := rfl
@[simp] theorem State.onSupply_engine (s : State) (f : Supply → Supply) : (s.onSupply f).engine = s.engine := rfl
@[simp] theorem State.onSupply_cipher (s : State) (f : Supply → Supply) : (s.onSupply f).cipher = s.cipher := rfl
@[simp] theorem State.onSupply_slots (s : State) (f : Supply → Supply) : (s.onSupply f).slots = s.slots := rfl
@[simp] theorem State.onSupply_directory (s : State) (f : Supply → Supply) : (s.onSupply f).directory = s.directory := rfl
@[simp] theorem State.onSupply_authorities (s : State) (f : Supply → Supply) : (s.onSupply f).authorities = s.authorities := rfl
@[simp] theorem State.onSupply_custody (s : State) (f : Supply → Supply) : (s.onSupply f).custody = s.custody := rfl
@[simp] theorem State.onSupply_store (s : State) (f : Supply → Supply) : (s.onSupply f).store = s.store := rfl
@[simp] theorem State.onSupply_time (s : State) (f : Supply → Supply) : (s.onSupply f).time = s.time := rfl
@[simp] theorem State.onSupply_tamper (s : State) (f : Supply → Supply) : (s.onSupply f).tamper = s.tamper := rfl
@[simp] theorem State.onSupply_supply (s : State) (f : Supply → Supply) : (s.onSupply f).supply = f s.supply := rfl
@[simp] theorem State.onSupply_pending (s : State) (f : Supply → Supply) : (s.onSupply f).pending = s.pending := rfl
@[simp] theorem State.onSupply_freeDraws (s : State) (f : Supply → Supply) : (s.onSupply f).freeDraws = s.freeDraws := rfl

/-! ## `State.onEntry` -/

@[simp] theorem State.onEntry_resetCtl (s : State) (h : HandleNo) (f : HandleEntry → HandleEntry) :
    (s.onEntry h f).resetCtl = s.resetCtl := rfl
@[simp] theorem State.onEntry_port (s : State) (h : HandleNo) (f : HandleEntry → HandleEntry) :
    (s.onEntry h f).port = s.port := rfl
@[simp] theorem State.onEntry_settings (s : State) (h : HandleNo) (f : HandleEntry → HandleEntry) :
    (s.onEntry h f).settings = s.settings := rfl
@[simp] theorem State.onEntry_engine (s : State) (h : HandleNo) (f : HandleEntry → HandleEntry) :
    (s.onEntry h f).engine = s.engine := rfl
@[simp] theorem State.onEntry_cipher (s : State) (h : HandleNo) (f : HandleEntry → HandleEntry) :
    (s.onEntry h f).cipher = s.cipher := rfl
@[simp] theorem State.onEntry_slots (s : State) (h : HandleNo) (f : HandleEntry → HandleEntry) :
    (s.onEntry h f).slots = s.slots := rfl
@[simp] theorem State.onEntry_directory (s : State) (h : HandleNo) (f : HandleEntry → HandleEntry) :
    (s.onEntry h f).directory = s.directory.set h (f s.directory[h]) := rfl
@[simp] theorem State.onEntry_authorities (s : State) (h : HandleNo) (f : HandleEntry → HandleEntry) :
    (s.onEntry h f).authorities = s.authorities := rfl
@[simp] theorem State.onEntry_custody (s : State) (h : HandleNo) (f : HandleEntry → HandleEntry) :
    (s.onEntry h f).custody = s.custody := rfl
@[simp] theorem State.onEntry_store (s : State) (h : HandleNo) (f : HandleEntry → HandleEntry) :
    (s.onEntry h f).store = s.store := rfl
@[simp] theorem State.onEntry_time (s : State) (h : HandleNo) (f : HandleEntry → HandleEntry) :
    (s.onEntry h f).time = s.time := rfl
@[simp] theorem State.onEntry_tamper (s : State) (h : HandleNo) (f : HandleEntry → HandleEntry) :
    (s.onEntry h f).tamper = s.tamper := rfl
@[simp] theorem State.onEntry_supply (s : State) (h : HandleNo) (f : HandleEntry → HandleEntry) :
    (s.onEntry h f).supply = s.supply := rfl
@[simp] theorem State.onEntry_pending (s : State) (h : HandleNo) (f : HandleEntry → HandleEntry) :
    (s.onEntry h f).pending = s.pending := rfl
@[simp] theorem State.onEntry_freeDraws (s : State) (h : HandleNo) (f : HandleEntry → HandleEntry) :
    (s.onEntry h f).freeDraws = s.freeDraws := rfl

/-! ## `State.onAuthority` -/

@[simp] theorem State.onAuthority_resetCtl (s : State) (k : AuthNo) (f : Authority → Authority) :
    (s.onAuthority k f).resetCtl = s.resetCtl := rfl
@[simp] theorem State.onAuthority_port (s : State) (k : AuthNo) (f : Authority → Authority) :
    (s.onAuthority k f).port = s.port := rfl
@[simp] theorem State.onAuthority_settings (s : State) (k : AuthNo) (f : Authority → Authority) :
    (s.onAuthority k f).settings = s.settings := rfl
@[simp] theorem State.onAuthority_engine (s : State) (k : AuthNo) (f : Authority → Authority) :
    (s.onAuthority k f).engine = s.engine := rfl
@[simp] theorem State.onAuthority_cipher (s : State) (k : AuthNo) (f : Authority → Authority) :
    (s.onAuthority k f).cipher = s.cipher := rfl
@[simp] theorem State.onAuthority_slots (s : State) (k : AuthNo) (f : Authority → Authority) :
    (s.onAuthority k f).slots = s.slots := rfl
@[simp] theorem State.onAuthority_directory (s : State) (k : AuthNo) (f : Authority → Authority) :
    (s.onAuthority k f).directory = s.directory := rfl
@[simp] theorem State.onAuthority_authorities (s : State) (k : AuthNo) (f : Authority → Authority) :
    (s.onAuthority k f).authorities = s.authorities.set k (f s.authorities[k]) := rfl
@[simp] theorem State.onAuthority_custody (s : State) (k : AuthNo) (f : Authority → Authority) :
    (s.onAuthority k f).custody = s.custody := rfl
@[simp] theorem State.onAuthority_store (s : State) (k : AuthNo) (f : Authority → Authority) :
    (s.onAuthority k f).store = s.store := rfl
@[simp] theorem State.onAuthority_time (s : State) (k : AuthNo) (f : Authority → Authority) :
    (s.onAuthority k f).time = s.time := rfl
@[simp] theorem State.onAuthority_tamper (s : State) (k : AuthNo) (f : Authority → Authority) :
    (s.onAuthority k f).tamper = s.tamper := rfl
@[simp] theorem State.onAuthority_supply (s : State) (k : AuthNo) (f : Authority → Authority) :
    (s.onAuthority k f).supply = s.supply := rfl
@[simp] theorem State.onAuthority_pending (s : State) (k : AuthNo) (f : Authority → Authority) :
    (s.onAuthority k f).pending = s.pending := rfl
@[simp] theorem State.onAuthority_freeDraws (s : State) (k : AuthNo) (f : Authority → Authority) :
    (s.onAuthority k f).freeDraws = s.freeDraws := rfl

/-! ## Reading a table after an update -/

theorem State.entry_onEntry (s : State) (h h' : HandleNo) (f : HandleEntry → HandleEntry) :
    (s.onEntry h f).entry h' = if h = h' then f (s.entry h) else s.entry h' := by
  simp only [State.entry, State.onEntry_directory, Fin.getElem_fin, Vector.getElem_set, Fin.ext_iff]

@[simp] theorem State.entry_onEntry_self (s : State) (h : HandleNo) (f : HandleEntry → HandleEntry) :
    (s.onEntry h f).entry h = f (s.entry h) := by simp [State.entry_onEntry]

theorem State.authority_onAuthority (s : State) (k k' : AuthNo) (f : Authority → Authority) :
    (s.onAuthority k f).authority k' = if k = k' then f (s.authority k) else s.authority k' := by
  simp only [State.authority, State.onAuthority_authorities, Fin.getElem_fin, Vector.getElem_set, Fin.ext_iff]

@[simp] theorem State.authority_onAuthority_self (s : State) (k : AuthNo) (f : Authority → Authority) :
    (s.onAuthority k f).authority k = f (s.authority k) := by simp [State.authority_onAuthority]

/-- An entry is read from the directory alone. -/
theorem State.entry_congr {s t : State} (hd : t.directory = s.directory) (h : HandleNo) : t.entry h = s.entry h := by
  rw [State.entry, State.entry, hd]

/-- A job is read from the engine alone. -/
theorem State.job_congr {s t : State} (hd : t.engine = s.engine) (j : JobId) : t.job j = s.job j := by
  rw [State.job, State.job, hd]

theorem State.job_setJob (s : State) (j j' : JobId) (x : Option Job) :
    (s.setJob j x).job j' = if j = j' then x else s.job j' := by
  simp only [State.job, State.setJob, State.onEngine_engine, Engine.setJob, Fin.getElem_fin, Vector.getElem_set,
    Fin.ext_iff]

@[simp] theorem State.job_setJob_self (s : State) (j : JobId) (x : Option Job) : (s.setJob j x).job j = x := by
  simp [State.job_setJob]

theorem State.slot_onSlot (s : State) (i i' : Fin 4) (f : Slot → Slot) :
    (s.onSlot i f).slot i' = if i = i' then f (s.slot i) else s.slot i' := by
  simp only [State.slot, State.onSlot, State.onSlots_slots, Fin.getElem_fin, Vector.getElem_set, Fin.ext_iff]

@[simp] theorem State.slot_onSlot_self (s : State) (i : Fin 4) (f : Slot → Slot) : (s.onSlot i f).slot i = f (s.slot i) := by
  simp [State.slot_onSlot]

/-- What a slot state reads after another slot, or the same one, is put into a state. -/
theorem State.slotState_setSlotState (s : State) (i i' : SlotId) (x : SlotState) :
    (s.setSlotState i x).slotState i' = if i = i' then x else s.slotState i' := by
  cases i with
  | host a =>
    cases i' with
    | host b =>
      simp only [State.setSlotState, State.slotState, State.slot_onSlot, SlotId.host.injEq]
      split <;> rfl
    | package => simp [State.setSlotState, State.slotState, State.onSlot]
  | package =>
    cases i' with
    | host b => simp [State.setSlotState, State.slotState, State.slot]
    | package => simp [State.setSlotState, State.slotState]

@[simp] theorem Tamper.input_onInput_self (t : Tamper) (i : TamperInput) (f : TamperState → TamperState) :
    (t.onInput i f).input i = f (t.input i) := by cases i <;> rfl

@[simp] theorem mapVector_getElem {α : Type} {n : Nat} (f : α → α) (v : Vector α n) (i : Nat) (h : i < n) :
    (mapVector f v)[i] = f v[i] := by
  simp [mapVector, Vector.getElem_toList]

end Sys2Proof.Machine
end

