-- ==== Sys2Proof/Laws/Memory.lean ====
section
/-!
SUPPORT. The laws of the exchange memory: a read after a write, and the canonical form, which every write keeps
(R1, R3).
-/

namespace Sys2Proof.Machine

open Sys2Proof

set_option Elab.async false

/-- The canonical form over a lower bound: every listed offset is at least `n`. -/
def Memory.above (n : Nat) (m : List Host.Cell) : Prop := ∀ c ∈ m, n ≤ c.1

@[simp] theorem Memory.wf_nil : Memory.wf [] = true := rfl

/-- The canonical form, cell by cell: no zero byte is listed, and what follows lies higher and is canonical. -/
theorem Memory.wf_cons {a : Nat} {b : Byte} {m : List Host.Cell} :
    Memory.wf ((a, b) :: m) = true ↔ b ≠ 0 ∧ Memory.above (a + 1) m ∧ Memory.wf m = true := by
  induction m generalizing a b with
  | nil => simp [Memory.wf, Memory.above]
  | cons c m ih =>
    obtain ⟨a', b'⟩ := c
    simp only [Memory.wf, Bool.and_eq_true, bne_iff_ne, ne_eq, decide_eq_true_eq]
    constructor
    · rintro ⟨⟨hb, ha⟩, h⟩
      refine ⟨hb, ?_, h⟩
      have hm := (ih.mp h).2.1
      intro x hx
      rcases List.mem_cons.mp hx with rfl | hx
      · exact ha
      · have := hm x hx
        omega
    · rintro ⟨hb, ha, h⟩
      exact ⟨⟨hb, ha (a', b') (by simp)⟩, h⟩

/-- Nothing is listed below the lower bound. -/
theorem Memory.read_below {m : List Host.Cell} {n x : Nat} (h : Memory.above n m) (hx : x < n) : Memory.read m x = 0 := by
  induction m with
  | nil => rfl
  | cons c m ih =>
    have hc := h c (by simp)
    simp only [Memory.read]
    rw [if_neg (by omega), ih fun y hy => h y (by simp [hy])]

theorem Memory.above_write {m : List Host.Cell} {n x : Nat} {v : Byte} (h : Memory.above n m) (hx : n ≤ x) :
    Memory.above n (Memory.write m x v) := by
  induction m with
  | nil =>
    simp only [Memory.write]
    split <;> simp [Memory.above, hx]
  | cons c m ih =>
    have hc : n ≤ c.1 := h c (by simp)
    have hm : Memory.above n m := fun y hy => h y (by simp [hy])
    have hi := ih hm
    simp only [Memory.write]
    intro y hy
    split at hy
    · split at hy <;> simp only [List.mem_cons] at hy
      · rcases hy with rfl | hy
        exacts [hc, hm y hy]
      · rcases hy with rfl | rfl | hy
        exacts [hx, hc, hm y hy]
    · split at hy
      · split at hy
        · exact hm y hy
        · rcases List.mem_cons.mp hy with rfl | hy
          exacts [hx, hm y hy]
      · rcases List.mem_cons.mp hy with rfl | hy
        exacts [hc, hi y hy]

/-- A store keeps the canonical form. -/
theorem Memory.wf_write {m : List Host.Cell} (x : Nat) (v : Byte) (h : Memory.wf m = true) :
    Memory.wf (Memory.write m x v) = true := by
  induction m with
  | nil =>
    simp only [Memory.write]
    split <;> simp_all [Memory.wf]
  | cons c m ih =>
    obtain ⟨a, b⟩ := c
    obtain ⟨hb, ha, hm⟩ := Memory.wf_cons.mp h
    simp only [Memory.write]
    split
    next hx =>
      split
      · exact h
      next hv => exact Memory.wf_cons.mpr ⟨hv, by
          intro y hy
          rcases List.mem_cons.mp hy with rfl | hy
          · exact hx
          · have := ha y hy
            omega, h⟩
    next hx =>
      split
      next hxa =>
        subst hxa
        split
        · exact hm
        next hv => exact Memory.wf_cons.mpr ⟨hv, ha, hm⟩
      next hxa => exact Memory.wf_cons.mpr ⟨hb, Memory.above_write ha (by omega), ih hm⟩

/-- A read after a store gives the byte stored, and leaves every other offset alone. -/
theorem Memory.read_write {m : List Host.Cell} (x y : Nat) (v : Byte) (h : Memory.wf m = true) :
    Memory.read (Memory.write m x v) y = if x = y then v else Memory.read m y := by
  induction m with
  | nil =>
    rw [Memory.write]
    split
    next hv => simp [Memory.read, hv]
    next hv => simp [Memory.read]
  | cons c m ih =>
    obtain ⟨a, b⟩ := c
    obtain ⟨hb, ha, hm⟩ := Memory.wf_cons.mp h
    simp only [Memory.write]
    split
    next hx =>
      by_cases hv : v = 0
      · by_cases hxy : x = y
        · subst hxy
          simp [hv, Memory.read, Memory.read_below ha (show x < a + 1 by omega), show ¬a = x by omega]
        · simp [hv, hxy]
      · rw [if_neg hv]
        simp [Memory.read]
    next hx =>
      split
      next hxa =>
        subst hxa
        by_cases hv : v = 0
        · by_cases hxy : x = y
          · subst hxy
            simp [hv, Memory.read_below ha (show x < x + 1 by omega)]
          · simp [hv, hxy, Memory.read]
        · rw [if_neg hv]
          by_cases hxy : x = y <;> simp [hxy, Memory.read]
      next hxa =>
        simp only [Memory.read, ih hm]
        by_cases hay : a = y
        · simp [hay, show ¬x = y by omega]
        · simp [hay]

theorem Memory.wf_writeBytes {m : List Host.Cell} (x : Nat) (bs : List Byte) (h : Memory.wf m = true) :
    Memory.wf (Memory.writeBytes m x bs) = true := by
  induction bs generalizing m x with
  | nil => exact h
  | cons b bs ih => exact ih _ (Memory.wf_write x b h)

/-- A read after bytes are stored from `x` upward. -/
theorem Memory.read_writeBytes {m : List Host.Cell} (x y : Nat) (bs : List Byte) (h : Memory.wf m = true) :
    Memory.read (Memory.writeBytes m x bs) y =
      if x ≤ y ∧ y < x + bs.length then bs.getD (y - x) 0 else Memory.read m y := by
  induction bs generalizing m x with
  | nil =>
    rw [if_neg (by simp)]
    rfl
  | cons b bs ih =>
    simp only [Memory.writeBytes, ih (x + 1) (Memory.wf_write x b h), Memory.read_write x y b h, List.length_cons]
    by_cases hxy : x = y
    · subst hxy
      simp
    · by_cases hin : x + 1 ≤ y ∧ y < x + 1 + bs.length
      · rw [if_pos hin, if_pos (by omega), show y - x = (y - (x + 1)) + 1 by omega, List.getD_cons_succ]
      · rw [if_neg hin, if_neg hxy, if_neg (by omega)]

/-- A completion keeps the canonical form of the exchange memory. -/
theorem completionMemory_wf {m : List Host.Cell} (n : CardNo) (fields : List (Nat × Nat)) (status : Status)
    (notes : BitVec 16) (values : List Nat) (outputAt : Nat) (output : List Byte) (h : Memory.wf m = true) :
    Memory.wf (completionMemory m n fields status notes values outputAt output) = true := by
  have hfold : ∀ (l : List (Nat × List Byte)) (m : List Host.Cell), Memory.wf m = true →
      Memory.wf (l.foldl (fun m f => Memory.writeBytes m (cardBase n + f.1) f.2) m) = true := by
    intro l
    induction l with
    | nil => exact fun _ h => h
    | cons f l ih => exact fun m h => ih _ (Memory.wf_writeBytes _ _ h)
  simp only [completionMemory]
  split
  · exact Memory.wf_writeBytes _ _ (hfold _ _ (Memory.wf_writeBytes _ _ h))
  · exact hfold _ _ (Memory.wf_writeBytes _ _ h)

/-- The canonical form holds at reset. -/
theorem reset_memory_wf : Memory.wf State.reset.port.memory = true := rfl

end Sys2Proof.Machine
end

