-- ==== Sys2Proof/Laws/Serve.lean ====
section
/-!
SUPPORT. What the part does inside an event, said once: `Served s t` holds where `t` is reached from `s` by the
service of jobs alone. Cards complete, records are freed, slots close, writes and appends are asked for; the record
store's rows, the trusted time, the latches, the settings, the windows, the custody map and the durable part of the
directory and of the authority table stand. One lemma per shared operation; settling is one of them.
-/

namespace Sys2Proof.Machine

open Sys2Proof

set_option Elab.async false

/-! ## The port and the job records -/

/-- The exchange port and the job records together. -/
abbrev Work := Port × Vector (Option Job) 6

/-- One move of the service on the port and the records: a job's record is edited, a job completes and its record is
freed, or ALERT bits are set. -/
inductive WorkMove : Work → Work → Prop
  | edit (p : Port) (js : Vector (Option Job) 6) (j : JobId) (f : Job → Job)
      (hf : ∀ x, (f x).card = x.card ∧ (f x).kind = x.kind) : WorkMove (p, js) (p, js.set j (js[j].map f))
  | finish (p : Port) (js : Vector (Option Job) 6) (j : JobId) (x : Job) (hx : js[j] = some x)
      (fields : List (Nat × Nat)) (notify : Bool) (status : Status) (notes event : BitVec 16) (values : List Nat)
      (outputAt : Nat) (output : List Byte) :
      WorkMove (p, js) (p.completed x.card fields notify status notes event values outputAt output, js.set j none)
  | alert (p : Port) (js : Vector (Option Job) 6) (bits : BitVec 16) :
      WorkMove (p, js) ({ p with alert := p.alert ||| bits }, js)

/-- Any number of such moves. -/
abbrev Works : Work → Work → Prop := Relation.ReflTransGen WorkMove

/-- The port and the records of a state. -/
def State.work (s : State) : Work := (s.port, s.engine.jobs)

/-! ## What stands -/

/-- The part of an entry that only a durable record, an accepted counter or the issue of a counter changes. -/
def HandleEntry.durablePart (e : HandleEntry) : HandleEntry :=
  { e with
    current := e.current.map fun c => { c with txNext := 0, rx := RxWindow.fresh }
    staged := e.staged.map fun g => { g with rx := RxWindow.fresh }
    retiring := e.retiring.map fun r => { r with rx := RxWindow.fresh }
    touched := false, writeList := [], counterPending := none, counterFlight := none }

/-- The part of an authority that only a durable record changes. -/
def Authority.durablePart (a : Authority) : Authority := { a with failCount := 0, lockUntil := 0 }

/-- A tamper input without its mark state. -/
def TamperState.unmarked (t : TamperState) : TamperState := { t with mark := .none }

/-- What the service of jobs leaves and may change. -/
structure Served (s t : State) : Prop where
  resetCtl : t.resetCtl = s.resetCtl := by rfl
  settings : t.settings = s.settings := by rfl
  custody : t.custody = s.custody := by rfl
  pending : t.pending = s.pending := by rfl
  freeDraws : t.freeDraws = s.freeDraws := by rfl
  clock : { t.time with timeMark := .none } = { s.time with timeMark := .none } := by rfl
  cover : t.tamper.cover.unmarked = s.tamper.cover.unmarked := by rfl
  field : t.tamper.field.unmarked = s.tamper.field.unmarked := by rfl
  store : { t.store with queue := [] } = { s.store with queue := [] } := by rfl
  supply : { t.supply with activity := .active, standbyCount := 0, levelChanged := false } =
    { s.supply with activity := .active, standbyCount := 0, levelChanged := false } := by rfl
  authorities : ∀ k, (t.authority k).durablePart = (s.authority k).durablePart := by exact fun _ => rfl
  entries : ∀ h, (t.entry h).durablePart = (s.entry h).durablePart := by exact fun _ => rfl
  slots : ∀ i h g p k, t.slotState i = .opened h g p k → s.slotState i = .opened h g p k := by
    exact fun _ _ _ _ _ h => h
  work : Works s.work t.work := by exact Relation.ReflTransGen.refl

theorem Served.refl (s : State) : Served s s := {}

theorem Served.trans {s t u : State} (h : Served s t) (k : Served t u) : Served s u where
  resetCtl := k.resetCtl.trans h.resetCtl
  settings := k.settings.trans h.settings
  custody := k.custody.trans h.custody
  pending := k.pending.trans h.pending
  freeDraws := k.freeDraws.trans h.freeDraws
  clock := k.clock.trans h.clock
  cover := k.cover.trans h.cover
  field := k.field.trans h.field
  store := k.store.trans h.store
  supply := k.supply.trans h.supply
  authorities a := (k.authorities a).trans (h.authorities a)
  entries a := (k.entries a).trans (h.entries a)
  slots i a g p m e := h.slots i a g p m (k.slots i a g p m e)
  work := h.work.trans k.work

/-! ## The named updates

Each lemma carries a service `Served s t` one operation further. -/

theorem Served.onEngine {s t : State} (h : Served s t) (f : Engine → Engine)
    (hf : ∀ e, (f e).jobs = e.jobs := by intro; rfl) : Served s (t.onEngine f) :=
  h.trans
    { work := by
        have : (t.onEngine f).work = t.work := by simp [State.work, hf]
        rw [this] }

theorem Served.onCipher {s t : State} (h : Served s t) (f : Cipher → Cipher) : Served s (t.onCipher f) := h.trans {}

theorem Served.onSlot {s t : State} (h : Served s t) (i : Fin 4) (f : Slot → Slot)
    (hf : ∀ u h g p k, (f u).state = .opened h g p k → u.state = .opened h g p k) : Served s (t.onSlot i f) :=
  h.trans
    { slots := by
        intro n h g p k
        cases n with
        | package => exact id
        | host a =>
          simp only [State.slotState, State.slot_onSlot]
          split
          next hi => subst hi; exact hf _ _ _ _ _
          next => exact id }

theorem Served.setSlotState {s t : State} (h : Served s t) (i : SlotId) (x : SlotState)
    (hx : ∀ h g p k, x ≠ .opened h g p k := by simp) : Served s (t.setSlotState i x) := by
  cases i with
  | host a =>
    refine h.onSlot a (fun t => { t with state := x, idle := 0 }) ?_
    intro u b g p k e
    exact absurd e (hx b g p k)
  | package =>
    exact h.trans
      { slots := by
          intro n h g p k
          cases n with
          | package => exact fun e => absurd e (hx h g p k)
          | host a => exact id }

theorem Served.onEntry {s t : State} (h : Served s t) (a : HandleNo) (f : HandleEntry → HandleEntry)
    (hf : (f (t.entry a)).durablePart = (t.entry a).durablePart := by simp only [HandleEntry.durablePart]) :
    Served s (t.onEntry a f) :=
  h.trans
    { entries := by
        intro b
        rw [State.entry_onEntry]
        split
        next hi => subst hi; exact hf
        next => rfl }

theorem Served.onAuthority {s t : State} (h : Served s t) (k : AuthNo) (f : Authority → Authority)
    (hf : (f (t.authority k)).durablePart = (t.authority k).durablePart := by simp only [Authority.durablePart]) :
    Served s (t.onAuthority k f) :=
  h.trans
    { authorities := by
        intro a
        rw [State.authority_onAuthority]
        split
        next hi => subst hi; exact hf
        next => rfl }

theorem Served.onJob {s t : State} (h : Served s t) (j : JobId) (f : Job → Job)
    (hf : ∀ x, (f x).card = x.card ∧ (f x).kind = x.kind := by intro; exact ⟨rfl, rfl⟩) :
    Served s (t.onJob j f) :=
  h.trans { work := .single (.edit t.port t.engine.jobs j f hf) }

theorem Served.setStep {s t : State} (h : Served s t) (j : JobId) (x : JobStep) : Served s (t.setStep j x) := h.onJob j _

theorem Served.addNotes {s t : State} (h : Served s t) (j : JobId) (n : BitVec 16) : Served s (t.addNotes j n) :=
  h.onJob j _

theorem Served.raise {s t : State} (h : Served s t) (bits : BitVec 16) : Served s (t.raise bits) :=
  h.trans { work := .single (.alert t.port t.engine.jobs bits) }

theorem Served.resetIdle {s t : State} (h : Served s t) (i : Fin 4) : Served s (t.resetIdle i) :=
  h.onSlot i _ fun _ _ _ _ _ e => e

theorem Served.joinWriteList {s t : State} (h : Served s t) (a : HandleNo) (w : WriteEntry) :
    Served s (t.joinWriteList a w) := h.onEntry a _

/-- A fold of services is a service. -/
theorem Served.foldl {α : Type} {f : State → α → State} (hf : ∀ s a, Served s (f s a)) {s t : State} (h : Served s t)
    (l : List α) : Served s (l.foldl f t) := by
  induction l generalizing t with
  | nil => exact h
  | cons a l ih => exact ih (h.trans (hf t a))

/-! ## Completion -/

/-- A completion is one update of the port (R10). -/
theorem completeCard_eq (s : State) (n : CardNo) (fields : List (Nat × Nat)) (notify : Bool) (status : Status)
    (notes event : BitVec 16) (values : List Nat) (outputAt : Nat) (output : List Byte) :
    s.completeCard n fields notify status notes event values outputAt output =
      s.onPort fun p => p.completed n fields notify status notes event values outputAt output := rfl

/-- What the release of record `j` does: the blocks other than the engine, the slots' lists, the cipher core and the
write lists stand. -/
theorem freeRecord_blocks (s : State) (j : JobId) (x : Job) :
    (s.freeRecord j x).resetCtl = s.resetCtl ∧ (s.freeRecord j x).port = s.port ∧
    (s.freeRecord j x).settings = s.settings ∧ (s.freeRecord j x).authorities = s.authorities ∧
    (s.freeRecord j x).custody = s.custody ∧ (s.freeRecord j x).store = s.store ∧
    (s.freeRecord j x).time = s.time ∧ (s.freeRecord j x).tamper = s.tamper ∧
    (s.freeRecord j x).supply = s.supply ∧ (s.freeRecord j x).pending = s.pending ∧
    (s.freeRecord j x).freeDraws = s.freeDraws ∧ (s.freeRecord j x).engine.jobs = s.engine.jobs.set j none ∧
    (s.freeRecord j x).slots.package = s.slots.package := by
  unfold State.freeRecord
  dsimp only
  split <;> exact ⟨rfl, rfl, rfl, rfl, rfl, rfl, rfl, rfl, rfl, rfl, rfl, rfl, rfl⟩

/-- The release of a record leaves every slot's state and idle timer. -/
theorem freeRecord_slot (s : State) (j : JobId) (x : Job) (i : Fin 4) :
    (s.freeRecord j x).slot i = { s.slot i with list := (s.slot i).list.filter (· != j) } := by
  have h : ∀ (t : State), t.slots.host = mapVector (fun u => { u with list := u.list.filter (· != j) }) s.slots.host →
      t.slot i = { s.slot i with list := (s.slot i).list.filter (· != j) } := by
    intro t ht
    simp only [State.slot, ht, Fin.getElem_fin, mapVector_getElem]
  apply h
  unfold State.freeRecord
  dsimp only
  split <;> rfl

/-- The release of a record touches an entry in its write list alone. -/
theorem freeRecord_entry (s : State) (j : JobId) (x : Job) (h : HandleNo) :
    (s.freeRecord j x).entry h = s.entry h ∨
      (s.freeRecord j x).entry h =
        { s.entry h with writeList := (s.entry h).writeList.filter fun w => w.owner != some j } := by
  unfold State.freeRecord
  dsimp only
  split
  · rw [State.entry_onEntry]
    split
    next hi => subst hi; exact .inr rfl
    next => exact .inl rfl
  · exact .inl rfl

theorem Served.freeRecord {s t : State} (h : Served s t) (j : JobId) (x : Job) (hx : t.job j = some x)
    (fields : List (Nat × Nat)) (notify : Bool) (status : Status) (notes event : BitVec 16) (values : List Nat)
    (outputAt : Nat) (output : List Byte) :
    Served s ((t.completeCard x.card fields notify status notes event values outputAt output).freeRecord j x) := by
  obtain ⟨h1, h2, h3, h4, h5, h6, h7, h8, h9, h10, h11, h12, h13⟩ :=
    freeRecord_blocks (t.completeCard x.card fields notify status notes event values outputAt output) j x
  refine h.trans
    { resetCtl := by rw [h1]; rfl, settings := by rw [h3]; rfl, custody := by rw [h5]; rfl
      pending := by rw [h10]; rfl, freeDraws := by rw [h11]; rfl, clock := by rw [h7]; rfl
      cover := by rw [h8]; rfl, field := by rw [h8]; rfl, store := by rw [h6]; rfl, supply := by rw [h9]; rfl
      authorities := ?_, entries := ?_, slots := ?_, work := ?_ }
  · intro k
    simp only [State.authority, h4]
    rfl
  · intro a
    rcases freeRecord_entry (t.completeCard x.card fields notify status notes event values outputAt output) j x a with
      e | e <;> rw [e] <;> rfl
  · intro i a g p k
    cases i with
    | package =>
      simp only [State.slotState, h13]
      exact id
    | host i =>
      simp only [State.slotState, freeRecord_slot]
      exact id
  · simp only [State.work, h2, h12]
    exact .single (.finish t.port t.engine.jobs j x hx _ _ _ _ _ _ _ _)

theorem Served.finishJob {s t : State} (h : Served s t) (j : JobId) (status : Status) (values : List Nat) :
    Served s (t.finishJob j status values) := by
  unfold State.finishJob
  split
  · exact h
  next x hx => exact h.freeRecord j x hx _ _ _ _ _ _ _ _

theorem Served.wake {s t : State} (h : Served s t) : Served s t.wake := by
  unfold State.wake
  split
  · exact h.trans {}
  · exact h

theorem Served.wipe {s t : State} (h : Served s t) (i : SlotId) : Served s (t.wipe i) := by
  unfold State.wipe
  split
  · exact h.setSlotState i _
  · exact h

theorem Served.finishUse {s t : State} (h : Served s t) (j : JobId) (status : Status) (values : List Nat) :
    Served s (t.finishUse j status values) := by
  unfold State.finishUse
  split
  · exact h
  next x hx =>
    have h1 := h.finishJob j status values
    have h2 : Served s (if status = .ok then
        (t.finishJob j status values).onEntry x.handle fun e => { e with touched := true }
        else t.finishJob j status values) := by
      split
      · exact h1.onEntry _ _
      · exact h1
    dsimp only
    split
    · split
      · exact (h2.resetIdle _).wipe _
      · exact h2.resetIdle _
    · exact h2

theorem Served.failFrontUse {s t : State} (h : Served s t) (i : Fin 4) (status : Status) :
    Served s (t.failFrontUse i status) := by
  unfold State.failFrontUse
  repeat' split
  all_goals first | with_reducible exact h | with_reducible exact h.finishUse _ _ _

/-! ## The cipher core -/

theorem Served.runCore {s t : State} (h : Served s t) (op : CoreOp) : Served s (t.runCore op) := h.onCipher _

theorem Served.grantUse {s t : State} (h : Served s t) (j : JobId) (x : Job) : Served s (t.grantUse j x) := by
  unfold State.grantUse
  have h1 := h.onCipher fun c => { c with lastGroup := x.group }
  dsimp only
  split
  · exact (h1.runCore _).setStep _ _
  · exact (h1.runCore _).setStep _ _
  · exact (h1.runCore _).setStep _ _
  · exact h1

theorem Served.grant {s t : State} (h : Served s t) (r : Request) : Served s (t.grant r) := by
  unfold State.grant
  repeat' split
  all_goals first
    | with_reducible exact h
    | with_reducible exact h.runCore _
    | with_reducible exact (h.runCore _).setStep _ _
    | with_reducible exact h.grantUse _ _

theorem Served.requestCore {s t : State} (h : Served s t) (r : Request) : Served s (t.requestCore r) := by
  unfold State.requestCore
  split
  · exact h.grant r
  · exact h.onCipher _

theorem Served.coreIdle {s t : State} (h : Served s t) : Served s t.coreIdle := by
  unfold State.coreIdle
  dsimp only
  split
  · exact h.onCipher _
  · exact ((h.onCipher _).onCipher _).grant _

/-! ## The append queue -/

theorem Served.failCounterWaiters {s t : State} (h : Served s t) (a : HandleNo) : Served s (t.failCounterWaiters a) := by
  unfold State.failCounterWaiters
  refine Served.foldl ?_ h _
  intro s j
  repeat' split
  all_goals first
    | with_reducible exact .refl s
    | with_reducible exact (Served.refl s).finishUse _ _ _

theorem Served.releaseCounterWaiters {s t : State} (h : Served s t) (a : HandleNo) :
    Served s (t.releaseCounterWaiters a) := by
  unfold State.releaseCounterWaiters
  refine Served.foldl ?_ h _
  intro s j
  repeat' split
  all_goals first
    | with_reducible exact .refl s
    | with_reducible exact (Served.refl s).setStep _ _

theorem Served.dropOrphan {s t : State} (h : Served s t) (a : Option HandleNo) : Served s (t.dropOrphan a) := by
  unfold State.dropOrphan
  split
  · exact h
  · exact h.onEntry _ _

theorem Served.unmark {s t : State} (h : Served s t) (i : TamperInput) :
    Served s (t.onTamper fun m => m.onInput i fun x => { x with mark := .none }) :=
  h.trans { cover := by cases i <;> rfl, field := by cases i <;> rfl }

theorem Served.refuse {s t : State} (h : Served s t) (r : Requester) (a : Option HandleNo) : Served s (t.refuse r a) := by
  unfold State.refuse
  split
  · exact h.finishJob _ _ _
  · exact h.finishUse _ _ _
  · exact (h.addNotes _ _).finishJob _ _ _
  · exact h.dropOrphan _
  · exact h.dropOrphan _
  · exact h
  · exact (h.onEntry _ _).failCounterWaiters _
  · exact h.unmark _
  · exact h.trans {}
  all_goals exact h

theorem Served.refuseQueued {s t : State} (h : Served s t) (q : QueuedAppend) : Served s (t.refuseQueued q) := by
  unfold State.refuseQueued
  split
  · exact h.refuse _ _
  · exact h.refuse _ _
  · exact (h.onEntry _ _).failCounterWaiters _
  · exact h.refuse _ _

theorem Served.askAppend {s t : State} (h : Served s t) (q : QueuedAppend) : Served s (t.askAppend q) := by
  unfold State.askAppend
  dsimp only
  split
  · exact h.wake.refuseQueued _
  · exact h.wake.trans {}

theorem Served.askCounter {s t : State} (h : Served s t) (a : HandleNo) (ceiling floor : Option Nat) :
    Served s (t.askCounter a ceiling floor) := by
  unfold State.askCounter
  split
  · exact (h.onEntry _ _).askAppend _
  · exact h.onEntry _ _

theorem Served.reservationCheck {s t : State} (h : Served s t) (a : HandleNo) : Served s (t.reservationCheck a) := by
  unfold State.reservationCheck
  split
  · exact h
  · exact h.askCounter _ _ _

theorem Served.floorCheck {s t : State} (h : Served s t) (a : HandleNo) : Served s (t.floorCheck a) := by
  unfold State.floorCheck
  split
  · exact h
  · exact h.askCounter _ _ _

theorem Served.staleCounters {s t : State} (h : Served s t) (a : HandleNo) : Served s (t.staleCounters a) := by
  have h1 : Served s (t.onEntry a fun e => { e with counterPending := none }) := h.onEntry _ _
  have h2 : Served s ((t.onEntry a fun e => { e with counterPending := none }).onStore fun u =>
      { u with queue := u.queue.filter fun q => q != .counter a }) := h1.trans {}
  exact h2.releaseCounterWaiters _

/-! ## Slots -/

theorem Served.startRead {s t : State} (h : Served s t) (i : SlotId) : Served s (t.startRead i) := by
  unfold State.startRead
  repeat' split
  all_goals first | with_reducible exact h | exact h.setSlotState _ _

theorem Served.startOpening {s t : State} (h : Served s t) (i : SlotId) (a : HandleNo) (gen : Nat) :
    Served s (t.startOpening i a gen) := (h.setSlotState _ _).startRead _

theorem Served.failOpening {s t : State} (h : Served s t) (i : SlotId) (status : Status) :
    Served s (t.failOpening i status) := by
  unfold State.failOpening
  have h1 : Served s (t.setSlotState i .empty) := h.setSlotState _ _
  dsimp only
  split
  · exact h1
  · exact h1.finishJob _ _ _

theorem Served.serveOpen {s t : State} (h : Served s t) (i : Fin 4) (j : JobId) (x : Job) :
    Served s (t.serveOpen i j x) := by
  unfold State.serveOpen
  dsimp only
  split
  · exact h.finishJob _ _ _
  · split
    · split
      · exact ((h.addNotes _ _).finishJob _ _ _).resetIdle _
      · exact h.finishJob _ _ _
    · exact (h.setStep _ _).startOpening _ _ _

theorem Served.issueCounter {s t : State} (h : Served s t) (j : JobId) (a : HandleNo) (c : CurrentGen)
    (hc : (t.entry a).current = some c) : Served s (t.issueCounter j a c) := by
  have h1 : Served s (t.onEntry a fun e => { e with current := some { c with txNext := c.txNext + 1 } }) :=
    h.onEntry _ _ (by simp [HandleEntry.durablePart, hc])
  have h2 : Served s ((t.onEntry a fun e => { e with current := some { c with txNext := c.txNext + 1 } }).onJob j
      fun x => { x with counter := c.txNext, notes := x.notes ||| issueNotes c (c.txNext + 1) t.time.tt
                        step := .signWait }) := h1.onJob _ _
  exact (h2.reservationCheck _).requestCore _

/-- A SIGN that is judged usable signs with the entry's current generation (R73). -/
theorem judgeSign_ok {e : HandleEntry} {tt gen : Nat} {g : Group} {b : Bool} {c : CurrentGen}
    (h : judgeSign e tt gen g b = .ok c) : e.current = some c := by
  unfold judgeSign at h
  repeat' split at h
  all_goals simp_all

theorem Served.serveSign {s t : State} (h : Served s t) (j : JobId) (x : Job) (gen : Nat) :
    Served s (t.serveSign j x gen) := by
  unfold State.serveSign
  split
  · exact h.finishUse _ _ _
  next c hc =>
    split
    · exact h.issueCounter _ _ _ (judgeSign_ok hc)
    · exact (h.setStep _ _).reservationCheck _

theorem Served.serveCheck {s t : State} (h : Served s t) (j : JobId) (x : Job) (st : Standing) :
    Served s (t.serveCheck j x st) := by
  unfold State.serveCheck
  dsimp only
  split
  · exact h.finishUse _ _ _
  · exact (h.setStep _ _).requestCore _

theorem Served.serveUse {s t : State} (h : Served s t) (i : Fin 4) (j : JobId) (x : Job) (a : HandleNo) (gen : Nat) :
    Served s (t.serveUse i j x a gen) := by
  unfold State.serveUse
  split
  · exact h.finishUse _ _ _
  · have h1 : Served s (t.onJob j fun x => { x with matched := true, gen := gen }) := h.onJob _ _
    dsimp only
    split
    · exact (h1.wipe _).finishUse _ _ _
    · split
      · exact h1.serveSign _ _ _
      · exact h1.serveCheck _ _ _

theorem Served.serveFront {s t u : State} (h : Served s t) {i : Fin 4} (hu : t.serveFront i = some u) : Served s u := by
  unfold State.serveFront at hu
  repeat' split at hu
  all_goals first
    | (obtain rfl := Option.some.inj hu
       first
         | with_reducible exact h.serveOpen _ _ _
         | with_reducible exact h.finishJob _ _ _
         | with_reducible exact h.wipe _
         | with_reducible exact h.finishUse _ _ _
         | with_reducible exact h.serveUse _ _ _ _ _)
    | cases hu

theorem Served.latchWipe {s t : State} (h : Served s t) (i : Fin 4) : Served s (t.latchWipe i) := by
  unfold State.latchWipe
  split
  · split
    · exact Served.foldl (fun s j => (Served.refl s).finishUse j _ _) (h.wipe _) _
    · exact h
  · exact h

theorem Served.latchWipes {s t : State} (h : Served s t) : Served s t.latchWipes := by
  unfold State.latchWipes
  have h1 := Served.foldl (f := State.latchWipe) (fun s i => (Served.refl s).latchWipe i) h allSlots
  dsimp only
  split
  · split
    · exact h1.wipe _
    · exact h1
  · exact h1

theorem Served.revokeWipe {s t : State} (h : Served s t) (a : HandleNo) (i : Fin 4) : Served s (t.revokeWipe a i) := by
  unfold State.revokeWipe
  repeat' split
  all_goals first
    | with_reducible exact h
    | with_reducible exact (h.wipe _).failFrontUse _ _
    | with_reducible exact (h.onCipher _).failOpening _ _

theorem Served.revokeWipes {s t : State} (h : Served s t) (a : HandleNo) : Served s (t.revokeWipes a) := by
  unfold State.revokeWipes
  have h1 := Served.foldl (f := State.revokeWipe a) (fun s i => (Served.refl s).revokeWipe a i) h allSlots
  dsimp only
  split
  · split
    · exact h1.wipe _
    · exact h1
  · exact h1

/-! ## The package lane -/

theorem Served.askPackage {s t : State} (h : Served s t) (j : JobId) (x : Job) : Served s (t.askPackage j x) :=
  (h.setStep _ _).askAppend _

theorem Served.laneEnter {s t : State} (h : Served s t) (j : JobId) (x : Job) : Served s (t.laneEnter j x) := by
  unfold State.laneEnter
  have h1 : Served s (t.onEngine fun e => { e with lane := some j, laneWaiting := e.laneWaiting.filter (· != j) }) :=
    h.onEngine _
  dsimp only
  split
  · exact h1.finishJob _ _ _
  · split
    · exact h1.setStep _ _
    · exact h1.finishJob _ _ _

theorem Served.tagFailure {s t : State} (h : Served s t) (j : JobId) (x : Job) : Served s (t.tagFailure j x) := by
  unfold State.tagFailure
  have h1 : Served s (t.onAuthority (pkgAuth x.input) fun a =>
      { a with failCount := min ((t.authority (pkgAuth x.input)).failCount + 1) 255 }) := h.onAuthority _ _
  dsimp only
  split
  · exact ((h1.onAuthority _ _).setStep _ _).askAppend _
  · exact h1.finishJob _ _ _

theorem Served.laneRights {s t : State} (h : Served s t) (j : JobId) (x : Job) : Served s (t.laneRights j x) := by
  unfold State.laneRights
  dsimp only
  split
  · exact h.finishJob _ _ _
  · split
    · exact (h.setStep _ _).joinWriteList _ _
    · exact h.askPackage _ _

theorem Served.afterRelease {s t : State} (h : Served s t) (j : JobId) (x : Job) (next : AfterRelease) :
    Served s (t.afterRelease j x next) := by
  unfold State.afterRelease
  split
  · exact h.laneRights _ _
  · split
    · exact h.setStep _ _
    · exact h.tagFailure _ _
  · exact h.askPackage _ _
  · exact h.finishJob _ _ _

theorem Served.packageFront {s t : State} (h : Served s t) (j : JobId) (x : Job) : Served s (t.packageFront j x) := by
  unfold State.packageFront
  dsimp only
  split
  · exact h.finishJob _ _ _
  · split
    · split
      · exact h.setStep _ _
      · exact h.finishJob _ _ _
    · exact h.askPackage _ _

theorem Served.confirmFront {s t : State} (h : Served s t) (j : JobId) (x : Job) : Served s (t.confirmFront j x) := by
  unfold State.confirmFront
  split
  · exact (h.setStep _ _).askAppend _
  · exact h.finishUse _ _ _

/-! ## Settling -/

theorem Served.writeFront {s t u : State} (h : Served s t) {j : JobId} (hu : t.writeFront j = some u) : Served s u := by
  unfold State.writeFront at hu
  repeat' split at hu
  all_goals first
    | (obtain rfl := Option.some.inj hu
       first
         | with_reducible exact h.packageFront _ _
         | with_reducible exact h.confirmFront _ _)
    | cases hu

theorem Served.laneStep {s t u : State} (h : Served s t) (hu : t.laneStep = some u) : Served s u := by
  unfold State.laneStep at hu
  repeat' split at hu
  all_goals first
    | (obtain rfl := Option.some.inj hu
       first
         | with_reducible exact h.afterRelease _ _ _
         | with_reducible exact h.startOpening _ _ _
         | with_reducible exact h.laneEnter _ _)
    | cases hu

/-- Every move that the part makes by itself is a service of jobs. -/
theorem Served.internalStep {s t u : State} (h : Served s t) (hu : t.internalStep = some u) : Served s u := by
  unfold State.internalStep at hu
  simp only [Option.or_eq_some_iff] at hu
  rcases hu with (hu | ⟨-, hu⟩) | ⟨-, hu⟩
  · obtain ⟨j, -, hj⟩ := List.exists_of_findSome?_eq_some hu
    exact h.writeFront hj
  · exact h.laneStep hu
  · obtain ⟨i, -, hi⟩ := List.exists_of_findSome?_eq_some hu
    exact h.serveFront hi

theorem Served.settleFor {s t : State} (h : Served s t) (n : Nat) : Served s (State.settleFor n t) := by
  induction n generalizing t with
  | zero => exact h
  | succ n ih =>
    unfold State.settleFor
    split
    · exact h
    next u hu => exact ih (h.internalStep hu)

/-- Settling is a service of jobs. -/
theorem Served.settle {s t : State} (h : Served s t) : Served s t.settle := h.settleFor 64

/-- Where no move is open, settling changes nothing. -/
theorem settle_of_internalStep_none {s : State} (h : s.internalStep = none) : s.settle = s := by
  unfold State.settle State.settleFor
  rw [h]

/-- Without a job in any record no move is open. -/
theorem internalStep_of_no_jobs {s : State} (h : ∀ j, s.job j = none) : s.internalStep = none := by
  have h1 : ∀ j, s.writeFront j = none := fun j => by simp [State.writeFront, h j]
  have h2 : s.laneStep = none := by
    unfold State.laneStep
    repeat' split
    all_goals simp_all
  have h3 : ∀ i, s.serveFront i = none := by
    intro i
    unfold State.serveFront
    repeat' split
    all_goals simp_all
  have h4 : allJobs.findSome? s.writeFront = none := List.findSome?_eq_none_iff.mpr fun j _ => h1 j
  have h5 : allSlots.findSome? s.serveFront = none := List.findSome?_eq_none_iff.mpr fun i _ => h3 i
  rw [State.internalStep, h4, h2, h5]
  rfl

/-- Without a job in any record settling changes nothing. -/
theorem settle_of_no_jobs {s : State} (h : ∀ j, s.job j = none) : s.settle = s :=
  settle_of_internalStep_none (internalStep_of_no_jobs h)

end Sys2Proof.Machine
end

