-- ==== Sys2Proof/Laws/Steps.lean ====
section
/-!
SUPPORT. What a command can do, said once: `Stepped s t` holds of every command but a cold start and the end of a scan.
Trusted time and the drift credit keep their bounds, trusted time does not go back, FINAL stays, no highest_gen falls, the part state and the queue of commands stand, and
the port and the job records move only by the moves of `PartMove`.
-/

namespace Sys2Proof.Machine

open Sys2Proof

set_option Elab.async false

/-! ## The moves of the port and the records -/

/-- One move of a command on the port and the job records. -/
inductive PartMove : Work → Work → Prop
  | service {a b : Work} (h : WorkMove a b) : PartMove a b
  | take (p : Port) (js : Vector (Option Job) 6) (n : CardNo) (j : JobId) (x : Job) (hn : n ∈ p.arrival)
      (hj : js[j] = none) (hx : x.card = n) : PartMove (p, js) (p.take n, js.set j (some x))
  | refuse (p : Port) (js : Vector (Option Job) 6) (n : CardNo) (hn : n ∈ p.arrival) (notify : Bool) :
      PartMove (p, js) ((p.take n).completed n [] notify .kindUnknown 0 0 [] 0 [], js)
  | post (p : Port) (js : Vector (Option Job) 6) (n : CardNo) (hn : p.cards[n] = .free) : PartMove (p, js) (p.post n, js)
  | withdraw (p : Port) (js : Vector (Option Job) 6) (n : CardNo) (hn : p.cards[n] = .posted) :
      PartMove (p, js) (p.withdraw n, js)
  | giveBack (p : Port) (js : Vector (Option Job) 6) (n : CardNo) (hn : p.cards[n] = .done) :
      PartMove (p, js) (p.giveBack n, js)
  | store (p : Port) (js : Vector (Option Job) 6) (a : Nat) (v : Byte) : PartMove (p, js) (p.storeByte a v, js)
  | shown (p : Port) (js : Vector (Option Job) 6) (f : PageFigures) (bits : BitVec 16) :
      PartMove (p, js) ({ p with figures := f, alert := bits }, js)
  | windows (p : Port) (js : Vector (Option Job) 6) (w : Vector Window 8) : PartMove (p, js) ({ p with windows := w }, js)
  | rebuild (p : Port) (js : Vector (Option Job) 6) : PartMove (p, js) ({ p with arrival := p.postedCards }, js)
  | aborted (p : Port) (js : Vector (Option Job) 6) (j : JobId) (x : Job) (hx : js[j] = some x) :
      PartMove (p, js)
        (p.completed x.card (resultFields x.kind) x.notify .abortedByReset 0 0 [] 0 [], js.set j none)

/-- Any number of such moves. -/
abbrev PartMoves : Work → Work → Prop := Relation.ReflTransGen PartMove

theorem Works.moves {a b : Work} (h : Works a b) : PartMoves a b :=
  Relation.ReflTransGen.mono (fun _ _ k => PartMove.service k) a b h

/-- What every command but a cold start and the end of a scan leaves and may change. -/
structure Stepped (s t : State) : Prop where
  part : t.resetCtl.part = s.resetCtl.part := by rfl
  pending : t.pending = s.pending := by rfl
  tt : s.time.tt ≤ ttMax → s.time.tt ≤ t.time.tt ∧ t.time.tt ≤ ttMax := by exact fun h => ⟨Nat.le_refl _, h⟩
  drift : s.time.drift ≤ s.time.stepMax → t.time.drift ≤ t.time.stepMax := by exact fun h => h
  subCount : s.time.subCount < 64 → t.time.subCount < 64 := by exact fun h => h
  final : s.custody.final = true → t.custody.final = true := by exact fun h => h
  highest : ∀ h, (s.entry h).highestGen ≤ (t.entry h).highestGen := by exact fun _ => Nat.le_refl _
  moves : PartMoves s.work t.work := by exact Relation.ReflTransGen.refl

theorem Stepped.refl (s : State) : Stepped s s := {}

theorem Stepped.trans {s t u : State} (h : Stepped s t) (k : Stepped t u) : Stepped s u where
  part := k.part.trans h.part
  pending := k.pending.trans h.pending
  tt e := ⟨(h.tt e).1.trans (k.tt (h.tt e).2).1, (k.tt (h.tt e).2).2⟩
  drift e := k.drift (h.drift e)
  subCount e := k.subCount (h.subCount e)
  final e := k.final (h.final e)
  highest a := (h.highest a).trans (k.highest a)
  moves := h.moves.trans k.moves

theorem Served.tt_eq {s t : State} (h : Served s t) : t.time.tt = s.time.tt := by
  have k := congrArg TimeBase.tt h.clock
  exact k

theorem Served.drift_eq {s t : State} (h : Served s t) :
    t.time.drift = s.time.drift ∧ t.time.stepMax = s.time.stepMax ∧ t.time.subCount = s.time.subCount := by
  have k1 := congrArg TimeBase.drift h.clock
  have k2 := congrArg TimeBase.stepMax h.clock
  have k3 := congrArg TimeBase.subCount h.clock
  exact ⟨k1, k2, k3⟩

theorem Served.highest_eq {s t : State} (h : Served s t) (a : HandleNo) :
    (t.entry a).highestGen = (s.entry a).highestGen := by
  have k := congrArg HandleEntry.highestGen (h.entries a)
  exact k

/-- A service of jobs is a step. -/
theorem Served.stepped {s t : State} (h : Served s t) : Stepped s t where
  part := by rw [h.resetCtl]
  pending := h.pending
  tt e := by rw [h.tt_eq]; exact ⟨Nat.le_refl _, e⟩
  drift e := by rw [h.drift_eq.1, h.drift_eq.2.1]; exact e
  subCount e := by rw [h.drift_eq.2.2]; exact e
  final e := by rw [h.custody]; exact e
  highest a := (h.highest_eq a).ge
  moves := h.work.moves

/-- A step goes on with a service. -/
theorem Stepped.serve {s t u : State} (h : Stepped s t) (k : Served t u) : Stepped s u := h.trans k.stepped

theorem Stepped.settle {s t : State} (h : Stepped s t) : Stepped s t.settle := h.serve (Served.refl t).settle

theorem Stepped.onStore {s t : State} (h : Stepped s t) (f : Store → Store) : Stepped s (t.onStore f) := h.trans {}

theorem Stepped.onTamper {s t : State} (h : Stepped s t) (f : Tamper → Tamper) : Stepped s (t.onTamper f) := h.trans {}

theorem Stepped.onSupply {s t : State} (h : Stepped s t) (f : Supply → Supply) : Stepped s (t.onSupply f) := h.trans {}

theorem Stepped.onSlots {s t : State} (h : Stepped s t) (f : Slots → Slots) : Stepped s (t.onSlots f) := h.trans {}

theorem Stepped.onCipher {s t : State} (h : Stepped s t) (f : Cipher → Cipher) : Stepped s (t.onCipher f) := h.trans {}

theorem Stepped.onSettings {s t : State} (h : Stepped s t) (f : Settings → Settings) : Stepped s (t.onSettings f) :=
  h.trans {}

theorem Stepped.onAuthority {s t : State} (h : Stepped s t) (k : AuthNo) (f : Authority → Authority) :
    Stepped s (t.onAuthority k f) := h.trans {}

theorem Stepped.onReset {s t : State} (h : Stepped s t) (f : ResetState → ResetState)
    (hf : ∀ r, (f r).part = r.part := by intro; rfl) : Stepped s (t.onReset f) := h.trans { part := hf _ }

theorem Stepped.onTime {s t : State} (h : Stepped s t) (f : TimeBase → TimeBase)
    (h1 : t.time.tt ≤ ttMax → t.time.tt ≤ (f t.time).tt ∧ (f t.time).tt ≤ ttMax)
    (h2 : t.time.drift ≤ t.time.stepMax → (f t.time).drift ≤ (f t.time).stepMax)
    (h3 : t.time.subCount < 64 → (f t.time).subCount < 64) : Stepped s (t.onTime f) :=
  h.trans { tt := h1, drift := h2, subCount := h3 }

theorem Stepped.onCustody {s t : State} (h : Stepped s t) (f : Custody → Custody)
    (hf : t.custody.final = true → (f t.custody).final = true) : Stepped s (t.onCustody f) := h.trans { final := hf }

theorem Stepped.onEntry {s t : State} (h : Stepped s t) (a : HandleNo) (f : HandleEntry → HandleEntry)
    (hf : (t.entry a).highestGen ≤ (f (t.entry a)).highestGen) : Stepped s (t.onEntry a f) :=
  h.trans
    { highest := by
        intro b
        rw [State.entry_onEntry]
        split
        next hi => subst hi; exact hf
        next => exact Nat.le_refl _ }

theorem Stepped.setSlotState {s t : State} (h : Stepped s t) (i : SlotId) (x : SlotState) :
    Stepped s (t.setSlotState i x) := by cases i <;> exact h.trans {}

theorem Stepped.shown {s t : State} (h : Stepped s t) (f : Port → PageFigures) (g : Port → BitVec 16) :
    Stepped s (t.onPort fun p => { p with figures := f p, alert := g p }) :=
  h.trans { moves := .single (.shown t.port t.engine.jobs _ _) }

theorem Stepped.foldl {α : Type} {f : State → α → State} (hf : ∀ s a, Stepped s (f s a)) {s t : State} (h : Stepped s t)
    (l : List α) : Stepped s (l.foldl f t) := by
  induction l generalizing t with
  | nil => exact h
  | cons a l ih => exact ih (h.trans (hf t a))

/-! ## Erases, resets and FAULT -/

theorem Stepped.abandonErases {s t : State} (h : Stepped s t) : Stepped s t.abandonErases := by
  unfold State.abandonErases
  refine Stepped.onStore ?_ _
  unfold State.abandonErase
  split
  · exact h
  next b hb =>
    have h1 := (h.onStore fun u =>
      { u with array := eraseRows u.array b (Config.abandonedEraseRow t.freeDraws)
               banks := u.banks.set b .needsErase, erase := none }).shown
        (fun p => { p.figures with erasesAbandoned := bump32 p.figures.erasesAbandoned }) (fun p => p.alert)
    exact h1.trans {}

theorem Stepped.setPower {s t : State} (h : Stepped s t) (p : Power) : Stepped s (t.setPower p) := by
  unfold State.setPower
  split
  · exact (h.onSupply _).abandonErases
  · exact h.onSupply _

theorem Stepped.refreshFigures {s t : State} (h : Stepped s t) : Stepped s t.refreshFigures :=
  h.shown (fun p => { p.figures with nextSeq := t.store.nextSeq, erasedRows := t.store.erasedRows }) (fun p => p.alert)

theorem Stepped.endProgram {s t : State} (h : Stepped s t) (loc : Location) (row : Row) : Stepped s (t.endProgram loc row) :=
  (h.onStore _).refreshFigures

theorem Stepped.giveUpProgram {s t : State} (h : Stepped s t) : Stepped s t.giveUpProgram := by
  unfold State.giveUpProgram
  split
  · exact h
  · exact h.endProgram _ _

theorem Stepped.enterFault {s t : State} (h : Stepped s t) : Stepped s t.enterFault := by
  unfold State.enterFault
  dsimp only
  have h1 : Stepped s (if t.store.fault then t else t.raise alertStoreFault) := by
    split
    · exact h
    · exact h.serve ((Served.refl t).raise _)
  have h2 := h1.giveUpProgram.onStore fun u => { u.stopReclaim with fault := true, queue := [], retry := none }
  have h3 := Stepped.foldl (f := fun u (r : Requester × Option HandleNo) => u.refuse r.1 r.2)
    (fun u r => ((Served.refl u).refuse r.1 r.2).stepped) h2 t.store.recordsInHand
  exact Stepped.foldl (fun u q => ((Served.refl u).refuseQueued q).stepped) h3 _

/-- The completions of the aborted jobs, with every record freed after them (R12, R36). -/
theorem abortAll_moves (s : State) :
    PartMoves s.work ((allJobs.foldl State.abortJob s).port, Vector.replicate 6 none) := by
  have key : ∀ (l : List JobId) (s : State) (js : Vector (Option Job) 6), l.Nodup →
      (∀ j, js[j] = if j ∈ l then s.job j else none) →
      PartMoves (s.port, js) ((l.foldl State.abortJob s).port, Vector.replicate 6 none) := by
    intro l
    induction l with
    | nil =>
      intro s js _ hjs
      have : js = Vector.replicate 6 none := by
        apply Vector.ext
        intro i hi
        have := hjs ⟨i, hi⟩
        simpa using this
      rw [this]
      exact .refl
    | cons j l ih =>
      intro s js hl hjs
      obtain ⟨hj, hl⟩ := List.nodup_cons.mp hl
      have hset : ∀ i : JobId, (js.set j none)[i] = if i ∈ l then (s.abortJob j).job i else none := by
        intro i
        have he : (s.abortJob j).job i = s.job i := by
          unfold State.abortJob
          split <;> rfl
        rw [he]
        have hi := hjs i
        simp only [Fin.getElem_fin, Vector.getElem_set, Fin.val_inj] at hi ⊢
        by_cases hij : j = i
        · subst hij
          simp [hj]
        · have : i ≠ j := fun e => hij e.symm
          simp only [hij, if_false, hi, List.mem_cons, this, false_or]
      rw [List.foldl_cons]
      refine Relation.ReflTransGen.trans ?_ (ih (s.abortJob j) (js.set j none) hl hset)
      have hjj : js[j] = s.job j := by
        rw [hjs j]
        simp
      cases hx : s.job j with
      | none =>
        have e1 : s.abortJob j = s := by simp [State.abortJob, hx]
        have e2 : js.set j none = js := by
          rw [hx] at hjj
          apply Vector.ext
          intro i hi
          rw [Vector.getElem_set]
          split
          next e =>
            subst e
            exact hjj.symm
          next => rfl
        rw [e1, e2]
      | some x =>
        have e1 : (s.abortJob j).port =
            s.port.completed x.card (resultFields x.kind) x.notify .abortedByReset 0 0 [] 0 [] := by
          simp [State.abortJob, hx, completeCard_eq]
        rw [e1]
        exact .single (.aborted s.port js j x (by rw [hjj, hx]))
  refine key allJobs s s.engine.jobs (by decide) ?_
  intro j
  rw [if_pos (by revert j; decide)]
  rfl

/-- The blocks of the state at the arrival of a warm reset, from the state once the jobs are aborted and the erases
abandoned. -/
theorem beginWarmReset_blocks (s : State) (cause : ResetCause) :
    (s.beginWarmReset cause).resetCtl.part = (allJobs.foldl State.abortJob s).abandonErases.resetCtl.part ∧
    (s.beginWarmReset cause).pending = (allJobs.foldl State.abortJob s).abandonErases.pending ∧
    (s.beginWarmReset cause).time = (allJobs.foldl State.abortJob s).abandonErases.time ∧
    (s.beginWarmReset cause).custody = (allJobs.foldl State.abortJob s).abandonErases.custody ∧
    (∀ h, ((s.beginWarmReset cause).entry h).highestGen =
      ((allJobs.foldl State.abortJob s).abandonErases.entry h).highestGen) ∧
    (s.beginWarmReset cause).port =
      { (allJobs.foldl State.abortJob s).abandonErases.port with
        arrival := (allJobs.foldl State.abortJob s).abandonErases.port.postedCards } ∧
    (s.beginWarmReset cause).engine.jobs = Vector.replicate 6 none := by
  unfold State.beginWarmReset
  generalize allJobs.foldl State.abortJob s = u
  simp [State.entry, HandleEntry.afterReset]

/-- The blocks that aborting the jobs leaves. -/
theorem abortAll_blocks (s : State) :
    (allJobs.foldl State.abortJob s).resetCtl = s.resetCtl ∧ (allJobs.foldl State.abortJob s).pending = s.pending ∧
    (allJobs.foldl State.abortJob s).time = s.time ∧ (allJobs.foldl State.abortJob s).custody = s.custody ∧
    (allJobs.foldl State.abortJob s).directory = s.directory := by
  generalize allJobs = l
  induction l generalizing s with
  | nil => exact ⟨rfl, rfl, rfl, rfl, rfl⟩
  | cons j l ih =>
    have e : (s.abortJob j).resetCtl = s.resetCtl ∧ (s.abortJob j).pending = s.pending ∧ (s.abortJob j).time = s.time ∧
        (s.abortJob j).custody = s.custody ∧ (s.abortJob j).directory = s.directory := by
      unfold State.abortJob
      split <;> exact ⟨rfl, rfl, rfl, rfl, rfl⟩
    obtain ⟨a1, a2, a3, a4, a5⟩ := ih (s.abortJob j)
    obtain ⟨b1, b2, b3, b4, b5⟩ := e
    exact ⟨a1.trans b1, a2.trans b2, a3.trans b3, a4.trans b4, a5.trans b5⟩

/-- Abandoning the erases moves the port by the counter of erases abandoned alone. -/
theorem abandonErases_moves (s : State) (js : Vector (Option Job) 6) :
    PartMoves (s.port, js) (s.abandonErases.port, js) := by
  unfold State.abandonErases State.abandonErase
  split
  · exact .refl
  · exact .single (.shown _ _ _ _)

theorem Stepped.beginWarmReset {s t : State} (h : Stepped s t) (cause : ResetCause) :
    Stepped s (t.beginWarmReset cause) := by
  obtain ⟨k1, k2, k3, k4, k5⟩ := abortAll_blocks t
  obtain ⟨b1, b2, b3, b4, b5, b6, b7⟩ := beginWarmReset_blocks t cause
  have hm := (abortAll_moves t).trans (abandonErases_moves (allJobs.foldl State.abortJob t) (Vector.replicate 6 none))
  have hab := (Stepped.refl (allJobs.foldl State.abortJob t)).abandonErases
  generalize allJobs.foldl State.abortJob t = u at *
  refine h.trans
    { part := by rw [b1, hab.part, k1], pending := by rw [b2, hab.pending, k2]
      tt := by rw [b3, ← k3]; exact hab.tt, drift := by rw [b3, ← k3]; exact hab.drift
      subCount := by rw [b3, ← k3]; exact hab.subCount, final := by rw [b4, ← k4]; exact hab.final
      highest := fun a => by rw [b5, ← State.entry_congr k5 a]; exact hab.highest a, moves := ?_ }
  rw [State.work, State.work, b6, b7]
  exact hm.trans (.single (.rebuild _ _))

end Sys2Proof.Machine
end

