-- ==== Sys2Proof/Laws/Commands.lean ====
section
/-!
SUPPORT. Every command but a cold start and the end of a scan is a step in the sense of `Stepped`: one lemma per
command, and `stepped_exec` over them all.
-/

namespace Sys2Proof.Machine

open Sys2Proof

set_option Elab.async false

/-! ## Host writes -/

theorem stateByteOutcome_posted {v : Byte} {c : CardState} (h : stateByteOutcome v c = .posted) : c = .free := by
  unfold stateByteOutcome at h
  repeat' split at h
  all_goals first | rfl | exact nomatch h

theorem stateByteOutcome_withdrawn {v : Byte} {c : CardState} (h : stateByteOutcome v c = .withdrawn) : c = .posted := by
  unfold stateByteOutcome at h
  repeat' split at h
  all_goals first | rfl | exact nomatch h

theorem stateByteOutcome_returned {v : Byte} {c : CardState} (h : stateByteOutcome v c = .returned) : c = .done := by
  unfold stateByteOutcome at h
  repeat' split at h
  all_goals first | rfl | exact nomatch h

@[simp] theorem wake_port (s : State) : s.wake.port = s.port := by
  unfold State.wake
  split <;> rfl

@[simp] theorem wake_engine (s : State) : s.wake.engine = s.engine := by
  unfold State.wake
  split <;> rfl

theorem Stepped.judgeStateByte {s t : State} (h : Stepped s t) (n : CardNo) (v : Byte) :
    Stepped s (t.judgeStateByte n v) := by
  refine (h.serve (Served.refl t).wake).trans { moves := ?_ }
  unfold State.judgeStateByte
  simp only [State.work, State.onPort_port, State.onPort_engine, wake_port, wake_engine]
  split
  next e => exact .single (.post _ _ _ (stateByteOutcome_posted e))
  next e => exact .single (.withdraw _ _ _ (stateByteOutcome_withdrawn e))
  next e => exact .single (.giveBack _ _ _ (stateByteOutcome_returned e))
  · exact .refl
  · exact .single (.shown _ _ _ _)

theorem Stepped.judgeBytes {s t : State} (h : Stepped s t) (a : Nat) (bytes : List Byte) :
    Stepped s (t.judgeBytes a bytes) := by
  induction bytes generalizing t a with
  | nil => exact h
  | cons v vs ih =>
    unfold State.judgeBytes
    apply ih
    split
    · exact h.judgeStateByte _ _
    · exact h

theorem storeBytes_moves (p : Port) (js : Vector (Option Job) 6) (a : Nat) (bytes : List Byte) :
    PartMoves (p, js) (p.storeBytes a bytes, js) := by
  induction bytes generalizing p a with
  | nil => exact .refl
  | cons v vs ih => exact .head (.store p js a v) (ih _ _)

theorem Stepped.hostWrite {s t : State} (h : Stepped s t) (a : Nat) (bytes : List Byte) :
    Stepped s (t.hostWrite a bytes) := by
  unfold State.hostWrite
  have h1 : Stepped s (t.onPort fun p => p.storeBytes a bytes) := h.trans { moves := storeBytes_moves _ _ _ _ }
  have h2 := h1.judgeBytes a bytes
  dsimp only
  split
  · exact h2.beginWarmReset _
  · exact h2

/-! ## Intake -/

/-- What intake takes next is POSTED in the arrival list, and the record that is to hold it is free (R24, R27). -/
theorem nextTake_some {s : State} {n : CardNo} {j : JobId} (h : s.nextTake = some (n, j)) :
    n ∈ s.port.arrival ∧ s.takable n = true ∧ s.job j = none ∧ s.intakeRuns = true := by
  unfold State.nextTake at h
  split at h
  next hr =>
    split at h
    next a b ha hb =>
      simp only [Option.some.injEq, Prod.mk.injEq] at h
      obtain ⟨rfl, rfl⟩ := h
      refine ⟨List.mem_of_find?_eq_some ha, List.find?_some ha, ?_, hr⟩
      have := List.find?_some hb
      simpa using this
    next => exact nomatch h
  next => exact nomatch h

theorem snapshot_card (s : State) (n : CardNo) (k : Kind) : (s.snapshot n k).card = n := by
  unfold State.snapshot
  dsimp only
  split <;> rfl

theorem Stepped.takeCard {s t : State} (h : Stepped s t) (n : CardNo) (j : JobId) (x : Job) (course : State → State)
    (hn : n ∈ t.port.arrival) (hj : t.job j = none) (hx : x.card = n) (hc : ∀ u, Stepped u (course u)) :
    Stepped s (t.takeCard n j x course) := by
  unfold State.takeCard
  have h1 : Stepped s ((t.onPort fun p => p.take n).setJob j (some x)) :=
    h.trans { moves := .single (.take t.port t.engine.jobs n j x hn hj hx) }
  dsimp only
  split
  · exact h1.serve ((Served.refl _).finishJob _ _ _)
  · exact h1.trans (hc _)

theorem Stepped.takeKind {s t : State} (h : Stepped s t) (k : Kind) (course : JobId → Job → State → State)
    (hc : ∀ j x u, Stepped u (course j x u)) : Stepped s (t.takeKind k course) := by
  unfold State.takeKind
  split
  · exact h
  next n j e =>
    obtain ⟨hn, -, hj, -⟩ := nextTake_some e
    split
    · exact h.takeCard n j _ _ hn hj (snapshot_card t n k) (hc _ _)
    · exact h

theorem Stepped.finishJob {s t : State} (h : Stepped s t) (j : JobId) (st : Status) (values : List Nat) :
    Stepped s (t.finishJob j st values) := h.serve ((Served.refl t).finishJob j st values)

theorem stepped_joinSlot (j : JobId) (x : Job) (u : State) : Stepped u (u.joinSlot j x).settle :=
  ((Stepped.refl u).onSlots _).settle

theorem stepped_servePackage (j : JobId) (x : Job) (u : State) : Stepped u (u.servePackage j x) := by
  unfold State.servePackage
  split
  · exact Served.stepped (((Served.refl u).setStep _ _).onEngine _).settle
  · exact (Stepped.refl u).finishJob _ _ _

theorem stepped_serveQuery (j : JobId) (x : Job) (u : State) : Stepped u (u.serveQuery j x) := by
  unfold State.serveQuery
  dsimp only
  have h := (Stepped.refl u).finishJob j .ok ((u.entry x.handle).queryValues u.time.tt)
  split
  · exact h.onEntry _ _ (Nat.le_refl _)
  · exact h

/-- An offer keeps the bounds of trusted time and of the drift credit, and never moves trusted time back (R145). -/
theorem Stepped.offer {s t : State} (h : Stepped s t) (offered : Nat) : Stepped s (t.onTime fun _ => t.time.offer offered) := by
  refine h.onTime _ ?_ ?_ ?_
  all_goals
    unfold TimeBase.offer
    intro e
    repeat' split
    all_goals
      try dsimp only
      omega

theorem stepped_serveTime (j : JobId) (x : Job) (u : State) : Stepped u (u.serveTime j x) := by
  unfold State.serveTime
  exact (((Stepped.refl u).offer _).serve ((Served.refl _).addNotes _ _)).finishJob _ _ _

theorem stepped_serveSettings (j : JobId) (x : Job) (u : State) : Stepped u (u.serveSettings j x) := by
  unfold State.serveSettings
  refine (Stepped.onTime ((Stepped.refl u).onSettings _) _ ?_ ?_ ?_).finishJob _ _ _
  · exact fun e => ⟨Nat.le_refl _, e⟩
  · exact fun _ => Nat.min_le_right _ _
  · exact fun e => e

theorem stepped_serveWindows (j : JobId) (x : Job) (u : State) : Stepped u (u.serveWindows j x) := by
  have h : Stepped u (u.onPort fun p => { p with windows := x.windows }) :=
    { moves := .single (.windows u.port u.engine.jobs _) }
  exact h.finishJob _ _ _

theorem Stepped.refuseUnknown {s t : State} (h : Stepped s t) (n : CardNo) (hn : n ∈ t.port.arrival) :
    Stepped s (t.refuseUnknown n) :=
  h.trans { moves := .single (.refuse t.port t.engine.jobs n hn _) }

/-! ## The cipher core and the slots -/

theorem Stepped.slotReadStart {s t : State} (h : Stepped s t) (i : SlotId) : Stepped s (t.slotReadStart i) := by
  unfold State.slotReadStart
  repeat' split
  all_goals first
    | with_reducible exact h
    | with_reducible exact h.serve ((Served.refl t).failOpening _ _).settle
    | with_reducible exact h.serve ((Served.refl t).startRead _)

theorem Stepped.foldReadStart {s t : State} (h : Stepped s t) : Stepped s t.foldReadStart := by
  unfold State.foldReadStart
  repeat' split
  all_goals first
    | with_reducible exact h
    | with_reducible exact h.enterFault.settle
    | with_reducible exact h.onStore _

theorem Stepped.keyRowRead {s t : State} (h : Stepped s t) (i : SlotId) (crcOk : Bool) : Stepped s (t.keyRowRead i crcOk) := by
  unfold State.keyRowRead
  repeat' split
  all_goals first
    | with_reducible exact h
    | with_reducible exact h.serve ((Served.refl t).failOpening _ _).settle
    | with_reducible exact h.serve (((Served.refl t).setSlotState _ _).requestCore _)

theorem Served.laneKeyOpen {s t : State} (h : Served s t) : Served s t.laneKeyOpen := by
  unfold State.laneKeyOpen
  repeat' split
  all_goals first
    | with_reducible exact h
    | with_reducible exact (h.setStep _ _).requestCore _

theorem Stepped.hostOpened {s t : State} (h : Stepped s t) (i : Fin 4) (a : HandleNo) (gen : Nat) (p : Policy)
    (key : List Byte) : Stepped s (t.hostOpened i a gen p key) := by
  unfold State.hostOpened
  dsimp only
  repeat' split
  all_goals first
    | exact h.setSlotState _ _
    | exact (h.setSlotState _ _).finishJob _ _ _

theorem Stepped.unwrapped {s t : State} (h : Stepped s t) (i : SlotId) (m : List Byte) : Stepped s (t.unwrapped i m) := by
  unfold State.unwrapped
  repeat' split
  all_goals first
    | with_reducible exact h
    | with_reducible exact h.serve ((Served.refl t).failOpening _ _)
    | with_reducible exact h.hostOpened _ _ _ _ _
    | with_reducible exact (h.setSlotState _ _).serve (Served.refl _).laneKeyOpen

theorem Served.signDone {s t : State} (h : Served s t) (j : JobId) (key : List Byte) : Served s (t.signDone j key) := by
  unfold State.signDone
  split
  · exact h
  · exact Served.finishUse (h.onJob _ _) _ _ _

theorem Served.checkAccepted {s t : State} (h : Served s t) (j : JobId) : Served s (t.checkAccepted j) := by
  unfold State.checkAccepted
  repeat' split
  all_goals first
    | with_reducible exact h
    | with_reducible exact (h.setStep _ _).joinWriteList _ _
    | with_reducible exact h.finishUse _ _ _

theorem setWindow_durablePart (e : HandleEntry) (st : Standing) (w : RxWindow) :
    (e.setWindow st w).durablePart = e.durablePart := by
  cases st <;> simp [HandleEntry.setWindow, HandleEntry.durablePart, Function.comp_def]

theorem Served.acceptCounter {s t : State} (h : Served s t) (j : JobId) (x : Job) (st : Standing) (w : RxWindow) :
    Served s (t.acceptCounter j x st w) := by
  unfold State.acceptCounter
  have h1 := h.onEntry x.handle (fun e => e.setWindow st w) (setWindow_durablePart _ _ _)
  have h2 : Served s (if st = .current then (t.onEntry x.handle fun e => e.setWindow st w).floorCheck x.handle
      else t.onEntry x.handle fun e => e.setWindow st w) := by
    split
    · exact h1.floorCheck _
    · exact h1
  dsimp only
  split
  · exact (h2.setStep _ _).requestCore _
  · exact h2.checkAccepted _

theorem Served.compared {s t : State} (h : Served s t) (j : JobId) (key : List Byte) : Served s (t.compared j key) := by
  unfold State.compared
  dsimp only
  repeat' split
  all_goals first
    | with_reducible exact h
    | with_reducible exact (h.wipe _).finishUse _ _ _
    | with_reducible exact (h.addNotes _ _).finishUse _ _ _
    | with_reducible exact (h.addNotes _ _).acceptCounter _ _ _ _

theorem Served.deciphered {s t : State} (h : Served s t) (j : JobId) (key : List Byte) : Served s (t.deciphered j key) := by
  unfold State.deciphered
  split
  · exact h
  · exact Served.checkAccepted (h.onJob _ _) _

theorem Served.packageCompared {s t : State} (h : Served s t) (j : JobId) (key : List Byte) :
    Served s (t.packageCompared j key) := by
  unfold State.packageCompared
  split
  · exact h
  · split
    · split
      · have h1 := h.onAuthority (pkgAuth (by assumption : Job).input) (fun a => { a with failCount := 0 })
        dsimp only
        split
        · exact Served.wipe (Served.setStep (Served.addNotes (h.onAuthority _ _) _ _) _ _) _
        · exact Served.wipe (Served.setStep (h.onAuthority _ _) _ _) _
      · exact (h.setStep _ _).wipe _
    · exact h

theorem Served.stageUnwrapped {s t : State} (h : Served s t) (j : JobId) (key : List Byte) :
    Served s (t.stageUnwrapped j key) := by
  unfold State.stageUnwrapped
  repeat' split
  all_goals first
    | with_reducible exact h
    | exact (h.setStep _ _).wipe _
    | exact Served.wipe (h.onJob _ _) _

/-! ## Durable rows -/

theorem anyPresent_noteKey_highest (e : HandleEntry) (now : Nat) (r : Role) (n : Nat) :
    (e.noteKey now r n).highestGen = max e.highestGen n := rfl

/-- What a durable row changes: every package record is a step. -/
theorem Stepped.applyPackageRecord {s t : State} (h : Stepped s t) (loc : Location) (stamp : Nat) (r : Record) :
    Stepped s (t.applyPackageRecord loc stamp r) := by
  unfold State.applyPackageRecord
  dsimp only
  split
  · split
    · exact h.onEntry _ _ (by simp [HandleEntry.applyStaged, HandleEntry.noteKey, HandleEntry.clearLapsed])
    · exact (h.onEntry _ _ (by simp [HandleEntry.applyActive, HandleEntry.noteKey, HandleEntry.clearLapsed])).serve
        ((Served.refl _).staleCounters _)
    · exact h
  next a gen grace ceiling =>
    have h1 : Stepped s (t.onEntry a fun e => e.applyConfirm t.time.tt stamp gen grace ceiling) := by
      refine h.onEntry _ _ ?_
      unfold HandleEntry.applyConfirm
      split <;> exact Nat.le_refl _
    split
    · exact h1.serve ((Served.refl _).staleCounters _)
    · exact h1
  · exact h.onEntry _ _ (Nat.le_refl _)
  · exact h.onEntry _ _ (Nat.le_refl _)
  next a gen highest role =>
    have h1 : Stepped s (t.onEntry a fun e => e.applyRevoke highest role) := h.onEntry _ _ (Nat.le_max_left _ _)
    exact (h1.serve ((Served.refl _).revokeWipes _)).serve ((Served.refl _).staleCounters _)
  · exact h.onAuthority _ _
  · exact h.onCustody _ fun e => e
  · split
    · exact h.onCustody _ fun _ => rfl
    · exact h.onTamper _
  · exact h.onTamper _
  · refine h.onTime _ ?_ ?_ ?_
    · unfold TimeBase.timeset
      intro e
      dsimp only
      split <;> omega
    · exact fun _ => Nat.le_refl _
    · exact fun e => e
  all_goals exact h

theorem Stepped.acceptPackage {s t : State} (h : Stepped s t) (header : RowHeader) : Stepped s (t.acceptPackage header) := by
  unfold State.acceptPackage
  split
  · exact h.onAuthority _ _
  · exact h

theorem Stepped.completeCounter {s t : State} (h : Stepped s t) (a : HandleNo) (r : Record) :
    Stepped s (t.completeCounter a r) := by
  unfold State.completeCounter
  refine Stepped.serve (Stepped.onEntry h _ _ ?_) (((Served.refl _).releaseCounterWaiters _).reservationCheck _)
  split <;> exact Nat.le_refl _

theorem Stepped.applyDurable {s t : State} (h : Stepped s t) (r : Requester) (loc : Location) (d : RowData) :
    Stepped s (t.applyDurable r loc d) := by
  unfold State.applyDurable
  split
  · have h1 := (h.applyPackageRecord loc d.stamp d.record).acceptPackage d.header
    dsimp only
    split
    · unfold State.completePackage
      repeat' split
      all_goals first
        | exact h1
        | exact h1.finishJob _ _ _
    · exact h1.serve ((Served.refl _).dropOrphan _)
  · have h1 := h.applyPackageRecord loc d.stamp d.record
    dsimp only
    split
    · unfold State.completeConfirm
      split
      · exact h1
      · split
        · exact h1.serve ((Served.refl _).finishUse _ _ _)
        · exact h1.serve (((Served.refl _).addNotes _ _).finishUse _ _ _)
    · exact h1.serve ((Served.refl _).dropOrphan _)
  · exact h.serve (((Served.refl _).addNotes _ _).finishJob _ _ _)
  · exact h
  · exact h.completeCounter _ _
  · exact h.onTamper _
  · exact h.onTime _ (fun e => ⟨Nat.le_refl _, e⟩) (fun e => e) fun e => e
  · exact h.onEntry _ _ (Nat.le_refl _)
  · exact h.applyPackageRecord _ _ _
  · exact h
  · exact h
  · unfold State.completeReclaimMark
    split <;> exact h.onStore _

theorem Stepped.copyAdvance {s t : State} (h : Stepped s t) : Stepped s t.copyAdvance := by
  unfold State.copyAdvance
  split
  · split
    · exact (h.onStore _).foldReadStart
    · exact h
  · exact h

/-! ## Every command -/

theorem Stepped.startProgram {s t : State} (h : Stepped s t) (r : Requester) (p : Payload) (n : Nat) :
    Stepped s (t.startProgram r p n) := h.onStore _

theorem Stepped.startQueued {s t : State} (h : Stepped s t) (q : QueuedAppend) : Stepped s (t.startQueued q) := by
  unfold State.startQueued
  have h1 := h.onStore fun u => { u with queue := u.queue.erase q }
  dsimp only
  split
  · exact (h1.onTamper _).startProgram _ _ _
  · exact (h1.onTime _ (fun e => ⟨Nat.le_refl _, e⟩) (fun e => e) fun e => e).startProgram _ _ _
  · split
    · exact h1
    · exact (h1.onEntry _ _ (Nat.le_refl _)).startProgram _ _ _
  · exact h1.startProgram _ _ _

theorem Stepped.dropAbandoned {s t : State} (h : Stepped s t) : Stepped s (t.onStore Store.dropAbandoned) := h.onStore _

/-- The part can make no step on the port and the records but those of `Stepped` (all commands but a cold start and the
end of a scan). -/
theorem stepped_exec (c : Instr) (hc : ∀ a b, c ≠ .coldStart a b) (hs : c ≠ .scanEnd) (s t : State)
    (h : exec c s = .next t) : Stepped s t := by
  have r := Stepped.refl s
  have v := Served.refl s
  cases c <;> simp only [exec] at h
  case coldStart a b => exact absurd rfl (hc a b)
  case scanEnd => exact absurd rfl hs
  case post => obtain rfl := Host.Outcome.next.inj h; exact r.hostWrite _ _
  case withdraw => obtain rfl := Host.Outcome.next.inj h; exact r.hostWrite _ _
  case returnCard => obtain rfl := Host.Outcome.next.inj h; exact r.hostWrite _ _
  case cardFault => obtain rfl := Host.Outcome.next.inj h; exact r.hostWrite _ _
  case hostMemoryWrite => obtain rfl := Host.Outcome.next.inj h; exact r.hostWrite _ _
  case controlWrite => obtain rfl := Host.Outcome.next.inj h; exact r.hostWrite _ _
  case softReset => obtain rfl := Host.Outcome.next.inj h; exact r.hostWrite _ _
  case alertClear => obtain rfl := Host.Outcome.next.inj h; exact r.hostWrite _ _
  case registerWriteDiscarded => obtain rfl := Host.Outcome.next.inj h; exact r.hostWrite _ _
  case takeOpen => obtain rfl := Host.Outcome.next.inj h; exact r.takeKind _ _ stepped_joinSlot
  case takeClose => obtain rfl := Host.Outcome.next.inj h; exact r.takeKind _ _ stepped_joinSlot
  case takeSign => obtain rfl := Host.Outcome.next.inj h; exact r.takeKind _ _ stepped_joinSlot
  case takeCheck => obtain rfl := Host.Outcome.next.inj h; exact r.takeKind _ _ stepped_joinSlot
  case takeQuery => obtain rfl := Host.Outcome.next.inj h; exact r.takeKind _ _ stepped_serveQuery
  case takePackage => obtain rfl := Host.Outcome.next.inj h; exact r.takeKind _ _ stepped_servePackage
  case takeTime => obtain rfl := Host.Outcome.next.inj h; exact r.takeKind _ _ stepped_serveTime
  case takeSettings => obtain rfl := Host.Outcome.next.inj h; exact r.takeKind _ _ stepped_serveSettings
  case takeWindows => obtain rfl := Host.Outcome.next.inj h; exact r.takeKind _ _ stepped_serveWindows
  case kindUnknownRefusal =>
    obtain rfl := Host.Outcome.next.inj h
    split
    · exact r
    next n j e =>
      split
      · exact r.refuseUnknown _ (nextTake_some e).1
      · exact r
  case rowReadStart =>
    obtain rfl := Host.Outcome.next.inj h
    split
    · exact r.slotReadStart _
    · exact r.foldReadStart
  case keyRowReadEnd => obtain rfl := Host.Outcome.next.inj h; exact r.keyRowRead _ _
  case slotUnwrapEnd =>
    obtain rfl := Host.Outcome.next.inj h
    split
    · have h1 := r.serve v.coreIdle
      split
      · exact h1.settle
      · exact (h1.unwrapped _ _).settle
    · exact r
  case signOperationEnd =>
    obtain rfl := Host.Outcome.next.inj h
    split
    · split
      · exact v.coreIdle.settle.stepped
      · exact (v.coreIdle.signDone _ _).settle.stepped
    · exact r
  case tagComparisonEnd =>
    obtain rfl := Host.Outcome.next.inj h
    split
    · split
      · exact v.coreIdle.settle.stepped
      · exact (v.coreIdle.compared _ _).settle.stepped
    · exact r
  case decipherEnd =>
    obtain rfl := Host.Outcome.next.inj h
    split
    · split
      · exact v.coreIdle.settle.stepped
      · exact (v.coreIdle.deciphered _ _).settle.stepped
    · exact r
  case wipeCompletion =>
    obtain rfl := Host.Outcome.next.inj h
    split
    · split
      · exact (r.setSlotState _ _).settle
      · exact r
    · exact r
  case idleClose =>
    obtain rfl := Host.Outcome.next.inj h
    split
    · exact (v.wipe _).stepped
    · exact r
  case packageTagCheckEnd =>
    obtain rfl := Host.Outcome.next.inj h
    split
    · split
      · exact v.coreIdle.settle.stepped
      · exact (v.coreIdle.packageCompared _ _).settle.stepped
    · exact r
  case stageUnwrapEnd =>
    obtain rfl := Host.Outcome.next.inj h
    split
    · split
      · exact v.coreIdle.settle.stepped
      · exact (v.coreIdle.stageUnwrapped _ _).settle.stepped
    · exact r
  case appendStart =>
    obtain rfl := Host.Outcome.next.inj h
    split
    · split
      · exact r
      · split
        · exact r.enterFault.settle
        · exact r.startQueued _
    · exact r
  case retryStart =>
    obtain rfl := Host.Outcome.next.inj h
    split
    · split
      · exact r
      · split
        · exact r.enterFault.settle
        · split
          · exact (r.onStore _).startProgram _ _ _
          · exact r
    · exact r
  case appendCompletion =>
    obtain rfl := Host.Outcome.next.inj h
    split
    · exact r
    next p hp =>
      have h1 := (r.endProgram p.location (.valid p.data)).onTime
        (fun t => { t with lastStamp := max t.lastStamp p.data.stamp }) (fun e => ⟨Nat.le_refl _, e⟩) (fun e => e)
        fun e => e
      have h2 := h1.applyDurable p.requester p.location p.data
      refine Stepped.copyAdvance (Stepped.settle (Stepped.dropAbandoned ?_))
      unfold State.copyRowDone
      split
      · exact h2.onStore _
      · exact h2
  case appendAbandonment =>
    obtain rfl := Host.Outcome.next.inj h
    split
    · exact r
    next p hp =>
      split
      · exact (r.endProgram p.location .torn).onStore _
      · exact r.enterFault.settle
  case reclaimStart =>
    obtain rfl := Host.Outcome.next.inj h
    split
    · split
      · exact r
      · exact (r.onStore _).copyAdvance
    · exact r
  case copyRowStart =>
    obtain rfl := Host.Outcome.next.inj h
    split
    · split
      · split
        · exact r.enterFault.settle
        · split
          · unfold State.startCopyRow
            split
            · exact (r.onStore _).copyAdvance
            · exact (r.onStore _).startProgram _ _ _
          · exact r
      · exact r
    · exact r
  case foldReadEnd =>
    obtain rfl := Host.Outcome.next.inj h
    split
    · split
      · exact r.onStore _
      · exact r.enterFault.settle
    · exact r
  case eraseStart =>
    obtain rfl := Host.Outcome.next.inj h
    split
    · exact r
    · split
      · exact r.onStore _
      · exact r
  case eraseCompletion residue =>
    obtain rfl := Host.Outcome.next.inj h
    split
    · exact r
    next b hb =>
      have h1 := r.onStore fun t => { t with array := eraseRows t.array b fun n => residue.getD n .blank, erase := none }
      dsimp only
      split
      · unfold State.erasePassed
        dsimp only
        refine Stepped.refreshFigures ?_
        split
        · exact (h1.onStore _).shown
            (fun p => { p.figures with reclaimsCompleted := bump32 p.figures.reclaimsCompleted }) (fun p => p.alert)
        · exact h1.onStore _
      · exact (h1.onStore _).refreshFigures.enterFault.settle
  case timeBaseSecond =>
    obtain rfl := Host.Outcome.next.inj h
    split
    · refine (r.onSlots _).onTime _ ?_ ?_ ?_
      all_goals
        intro e
        unfold TimeBase.second
        dsimp only at e ⊢
        repeat' split
        all_goals (simp only [State.onSlots_time, State.onSlots_resetCtl] at *; omega)
    · exact r
  case driftCreditAccrual =>
    obtain rfl := Host.Outcome.next.inj h
    split
    · exact r.onTime _ (fun e => ⟨Nat.le_refl _, e⟩) (fun _ => Nat.min_le_right _ _) fun e => e
    · exact r
  case timeMarkDue =>
    obtain rfl := Host.Outcome.next.inj h
    split
    · exact (r.onTime _ (fun e => ⟨Nat.le_refl _, e⟩) (fun e => e) fun e => e).serve ((Served.refl _).askAppend _)
    · exact r
  case tamperLatch =>
    obtain rfl := Host.Outcome.next.inj h
    split
    · exact (r.onTamper _).serve (((Served.refl _).latchWipes.askAppend _).raise _).settle
    · exact r
  case powerStateChange =>
    obtain rfl := Host.Outcome.next.inj h
    split
    · refine Stepped.setPower ?_ _
      split
      · exact r.serve ((Served.refl _).raise alertSupply)
      · exact r
    · exact r
  case initialPowerState =>
    obtain rfl := Host.Outcome.next.inj h
    split
    · exact ((r.onSupply _).setPower _).onReset _
    · exact r
  case standbyEntry =>
    obtain rfl := Host.Outcome.next.inj h
    split
    · exact r.onSupply _
    · exact r
  case standbyWake =>
    obtain rfl := Host.Outcome.next.inj h
    split
    · exact v.wake.stepped
    · exact r
  case rstNLow =>
    obtain rfl := Host.Outcome.next.inj h
    split
    · exact (r.onReset _).beginWarmReset _
    · exact r.onReset _
  case warmResetEnd =>
    obtain rfl := Host.Outcome.next.inj h
    split
    · refine Stepped.foldl (fun u a => ?_) (Stepped.serve (Stepped.onStore (Stepped.onReset (r.onReset _) _) _)
        ((Served.refl _).raise _)) _
      unfold State.askAgain
      split
      · exact ((Served.refl u).askAppend _).stepped
      · exact .refl u
    · exact r.onReset _
  case timeBaseMilliTick =>
    obtain rfl := Host.Outcome.next.inj h
    dsimp only
    have h1 := r.onTime TimeBase.tick (by
      unfold TimeBase.tick
      split <;> exact fun e => ⟨Nat.le_refl _, e⟩) (by
      unfold TimeBase.tick
      split <;> exact fun e => e) (by
      unfold TimeBase.tick
      split <;> exact fun e => e)
    split
    · exact (h1.onTamper _).onSupply _
    · exact h1.onSupply _

end Sys2Proof.Machine
end

