-- ==== Sys2Proof/Laws/PerInstr.lean ====
section
/-!
SUPPORT. What every well-formed command is, constructor by constructor: a host row's transaction has a first byte, and
that byte lies in the exchange memory for the rows on cards and memory, and in the registers for the others (section
1.1).
-/

namespace Sys2Proof.Laws.Shape

open Sys2Proof

set_option Elab.async false

/-- The command is a host row on a card or on the exchange memory. -/
def onMemory : Instr → Bool
  | .post _ _ | .withdraw _ _ | .returnCard _ _ | .cardFault _ _ _ | .hostMemoryWrite _ _ => true
  | _ => false

/-- The transaction of a well-formed command has a first byte, below 4000h exactly for the rows on memory. -/
def Statement (i : Instr) : Prop :=
  i.wellFormed = true → ∀ x, i.transaction = some x → x.2 ≠ [] ∧ (x.1 < 0x4000 ↔ onMemory i = true)

theorem post (card : CardNo) (rest : List Byte) : Statement (.post card rest) := by
  intro _ x h
  obtain rfl := Option.some.inj h
  exact ⟨List.cons_ne_nil _ _, by simp [onMemory]; omega⟩

theorem withdraw (card : CardNo) (rest : List Byte) : Statement (.withdraw card rest) := by
  intro _ x h
  obtain rfl := Option.some.inj h
  exact ⟨List.cons_ne_nil _ _, by simp [onMemory]; omega⟩

theorem returnCard (card : CardNo) (rest : List Byte) : Statement (.returnCard card rest) := by
  intro _ x h
  obtain rfl := Option.some.inj h
  exact ⟨List.cons_ne_nil _ _, by simp [onMemory]; omega⟩

theorem cardFault (card : CardNo) (value : Byte) (rest : List Byte) : Statement (.cardFault card value rest) := by
  intro _ x h
  obtain rfl := Option.some.inj h
  exact ⟨List.cons_ne_nil _ _, by simp [onMemory]; omega⟩

theorem hostMemoryWrite (offset : Nat) (bytes : List Byte) : Statement (.hostMemoryWrite offset bytes) := by
  intro w x h
  obtain rfl := Option.some.inj h
  simp_all [Instr.wellFormed, memoryWriteOk, onMemory]

theorem controlWrite (start : Fin 4) (bytes : List Byte) : Statement (.controlWrite start bytes) := by
  intro w x h
  obtain rfl := Option.some.inj h
  simp_all [Instr.wellFormed, controlWriteOk, onMemory]
  omega

theorem softReset (low : Byte) (rest : List Byte) : Statement (.softReset low rest) := by
  intro _ x h
  obtain rfl := Option.some.inj h
  simp [onMemory]

theorem alertClear (start : Fin 4) (bytes : List Byte) : Statement (.alertClear start bytes) := by
  intro w x h
  obtain rfl := Option.some.inj h
  simp_all [Instr.wellFormed, alertClearOk, onMemory]
  omega

theorem registerWriteDiscarded (offset : Nat) (bytes : List Byte)
    : Statement (.registerWriteDiscarded offset bytes) := by
  intro w x h
  obtain rfl := Option.some.inj h
  cases bytes with
  | nil => simp [Instr.wellFormed, discardedWriteOk] at w
  | cons b bs =>
    simp only [Instr.wellFormed, discardedWriteOk, Bool.and_eq_true, List.all_eq_true] at w
    have := w.2 0 (by simp)
    simp [discardedOffset] at this
    simp [onMemory]
    omega

theorem takeOpen : Statement .takeOpen := by
  intro _ x h
  cases h

theorem takeClose : Statement .takeClose := by
  intro _ x h
  cases h

theorem takeSign : Statement .takeSign := by
  intro _ x h
  cases h

theorem takeCheck : Statement .takeCheck := by
  intro _ x h
  cases h

theorem takeQuery : Statement .takeQuery := by
  intro _ x h
  cases h

theorem takePackage : Statement .takePackage := by
  intro _ x h
  cases h

theorem takeTime : Statement .takeTime := by
  intro _ x h
  cases h

theorem takeSettings : Statement .takeSettings := by
  intro _ x h
  cases h

theorem takeWindows : Statement .takeWindows := by
  intro _ x h
  cases h

theorem kindUnknownRefusal : Statement .kindUnknownRefusal := by
  intro _ x h
  cases h

theorem rowReadStart (reader : Reader) : Statement (.rowReadStart reader) := by
  intro _ x h
  cases h

theorem keyRowReadEnd (slot : SlotId) (crcOk : Bool) : Statement (.keyRowReadEnd slot crcOk) := by
  intro _ x h
  cases h

theorem slotUnwrapEnd : Statement .slotUnwrapEnd := by
  intro _ x h
  cases h

theorem signOperationEnd : Statement .signOperationEnd := by
  intro _ x h
  cases h

theorem tagComparisonEnd : Statement .tagComparisonEnd := by
  intro _ x h
  cases h

theorem decipherEnd : Statement .decipherEnd := by
  intro _ x h
  cases h

theorem wipeCompletion (slot : SlotId) : Statement (.wipeCompletion slot) := by
  intro _ x h
  cases h

theorem idleClose (slot : Fin 4) : Statement (.idleClose slot) := by
  intro _ x h
  cases h

theorem packageTagCheckEnd : Statement .packageTagCheckEnd := by
  intro _ x h
  cases h

theorem stageUnwrapEnd : Statement .stageUnwrapEnd := by
  intro _ x h
  cases h

theorem appendStart : Statement .appendStart := by
  intro _ x h
  cases h

theorem retryStart : Statement .retryStart := by
  intro _ x h
  cases h

theorem appendCompletion : Statement .appendCompletion := by
  intro _ x h
  cases h

theorem appendAbandonment : Statement .appendAbandonment := by
  intro _ x h
  cases h

theorem reclaimStart : Statement .reclaimStart := by
  intro _ x h
  cases h

theorem copyRowStart : Statement .copyRowStart := by
  intro _ x h
  cases h

theorem foldReadEnd (crcOk : Bool) : Statement (.foldReadEnd crcOk) := by
  intro _ x h
  cases h

theorem eraseStart : Statement .eraseStart := by
  intro _ x h
  cases h

theorem eraseCompletion (residue : List RowResidue) : Statement (.eraseCompletion residue) := by
  intro _ x h
  cases h

theorem timeBaseSecond : Statement .timeBaseSecond := by
  intro _ x h
  cases h

theorem driftCreditAccrual : Statement .driftCreditAccrual := by
  intro _ x h
  cases h

theorem timeMarkDue : Statement .timeMarkDue := by
  intro _ x h
  cases h

theorem tamperLatch (input : TamperInput) : Statement (.tamperLatch input) := by
  intro _ x h
  cases h

theorem powerStateChange : Statement .powerStateChange := by
  intro _ x h
  cases h

theorem initialPowerState : Statement .initialPowerState := by
  intro _ x h
  cases h

theorem standbyEntry : Statement .standbyEntry := by
  intro _ x h
  cases h

theorem standbyWake : Statement .standbyWake := by
  intro _ x h
  cases h

theorem coldStart (cause : ColdCause) (residue : ProgramResidue) : Statement (.coldStart cause residue) := by
  intro _ x h
  cases h

theorem scanEnd : Statement .scanEnd := by
  intro _ x h
  cases h

theorem rstNLow : Statement .rstNLow := by
  intro _ x h
  cases h

theorem warmResetEnd (rstHigh : Bool) : Statement (.warmResetEnd rstHigh) := by
  intro _ x h
  cases h

theorem timeBaseMilliTick (cover field pfail : Bool) : Statement (.timeBaseMilliTick cover field pfail) := by
  intro _ x h
  cases h

end Sys2Proof.Laws.Shape
end

