-- ==== Sys2Proof/Tests/Slice0.lean ====
section
/-!
SUPPORT. Small tests: a term that each check of WellFormed refuses, figures that the manual works out, and for every
statement of Certificates/Slice0/Obligations.lean that has hypotheses concrete states that meet them.
-/

namespace Sys2Proof.Tests

open Sys2Proof Sys2Proof.Machine

-- One theorem after the other: a hundred kernel evaluations at once would each ask for a thread's stack.
set_option Elab.async false

/-! ## Well-formedness: each check refuses an ill-formed term -/

theorem test_cardFault_refuses_post : Instr.wellFormed (.cardFault 0 0x5A []) = false := by decide
theorem test_memoryWrite_refuses_register : Instr.wellFormed (.hostMemoryWrite 0x4000 [1]) = false := by decide
theorem test_memoryWrite_refuses_nothing : Instr.wellFormed (.hostMemoryWrite 0x2000 []) = false := by decide
theorem test_controlWrite_refuses_softReset : Instr.wellFormed (.controlWrite 0 [0x80]) = false := by decide
theorem test_softReset_refuses_bit_clear : Instr.wellFormed (.softReset 0x7F []) = false := by decide
theorem test_alertClear_refuses_nothing : Instr.wellFormed (.alertClear 0 []) = false := by decide
theorem test_discarded_refuses_control : Instr.wellFormed (.registerWriteDiscarded 0x4000 [0, 0, 0, 0, 0]) = false := by
  decide
theorem test_eraseCompletion_refuses_65_rows :
    Instr.wellFormed (.eraseCompletion (List.replicate 65 .blank)) = false := by decide

/-! ## States to test on -/

/-- An array without a written row. -/
def blankArray : RowArray := Vector.replicate 8 (Vector.replicate 64 .blank)

/-- A READY part with a blank store: B0 is the HEAD, the other banks are ERASED. -/
def ready : State :=
  { State.cold .powerOn blankArray [] 0 with
    resetCtl := ⟨.ready, .powerOn, false, false, true⟩
    store := { Store.cold blankArray with banks := (Vector.replicate 8 .erased).set 0 .head } }

/-- The part with card 0 POSTED, its memory as given. -/
def posted (s : State) (memory : List Host.Cell) : State :=
  { s with port := { s.port with memory := memory, cards := s.port.cards.set 0 .posted, arrival := [0] } }

/-- A policy with every use right. -/
def allRights : Policy := ⟨true, true, true, true, true, false, false⟩

/-- A generation 1 in its 6th sign. -/
def gen1 : CurrentGen := ⟨1, ⟨1, 3⟩, allRights, 0, 0xFFFFFFFF, 100000, 5, 256, ⟨none, 0⟩, none⟩

/-- The part with generation 1 current in handle 5. -/
def keyed (s : State) : State :=
  s.onEntry 5 fun e => { e with role := some .wanFrame, current := some gen1, highestGen := 1 }

/-- The part with slot 2 in the state given. -/
def slotted (s : State) (x : SlotState) : State := s.onSlot 2 fun u => { u with state := x }

/-- A job on card 0, of a kind and at a step. -/
def job (kind : Kind) (step : JobStep) : Job :=
  { card := 0, kind := kind, header := [0, 0, 0, 2, 5], body := [], input := [], step := step, notes := 0
    matched := true, gen := 1, counter := 5, material := [], output := [] }

/-- The part with one job in record 0. -/
def holding (s : State) (x : Job) : State := s.setJob 0 (some x)

/-- The part with an operation in the cipher core. -/
def computing (s : State) (op : CoreOp) : State := s.onCipher fun c => { c with running := some ⟨op, false⟩ }

/-- A staged generation 2 of handle 5, with CONFIRM_ON_USE. -/
def staged2 : StagedGen :=
  ⟨2, ⟨1, 4⟩, { allRights with confirmOnUse := true }, 0, 0xFFFFFFFF, 9, ⟨some 1, 0⟩, 0, 100⟩

/-- A package of A0 with counter 1, as bytes of a job's snapshot. -/
def pkg (kind handle gen : Byte) (body : List Byte) : List Byte :=
  [0x31, 0x5A, kind, 0, 1, 0, 0, 0, handle, 0, gen, 0] ++ body

/-- A row in program at B0, row 0, for a requester. -/
def programming (s : State) (r : Requester) (d : RowData) : State :=
  s.onStore fun t => { t with program := some ⟨r, .plain d.header d.record, ⟨0, 0⟩, d, 0⟩, nextSeq := 1 }

/-- A TIME mark's row. -/
def timeRow : RowData := ⟨0, 7, ⟨none, none⟩, .time none⟩

/-- An abandoned record waits for its retry. -/
def retrying (s : State) : State :=
  s.onStore fun t => { t with retry := some ⟨.package (some 0), .plain ⟨none, none⟩ (.time none), 2⟩ }

/-- A0 as the factory defines it, its command key current in handle 0 and its transport key in handle 1. -/
def commissioned (s : State) : State :=
  ((s.onAuthority 0 fun a => { a with defined := true, transportHandle := 1, timesetRight := true, unlockRight := true }).onEntry
    0 fun e => { e with role := some .authCmd, current := some gen1, highestGen := 1 }).onEntry 1 fun e =>
      { e with role := some .authTransport, current := some gen1, highestGen := 1 }

/-- The lane job of a package at a step, with P OPEN under handle 0's key. -/
def laned (step : JobStep) (p : List Byte) : Job := { job .package step with input := p }

/-- The part with a lane job and P in a state. -/
def inLane (s : State) (x : Job) (p : SlotState) : State :=
  ((holding s x).onEngine fun e => { e with lane := some 0 }).onSlots fun u => { u with package := p }

/-- A reclaim in its COPY of bank 7, its next row at a stage. -/
def copying (s : State) (stage : CopyStage) : State :=
  s.onStore fun t => { t with reclaim := some ⟨7, .copy ⟨1, [5], 5, [], 0, stage⟩, false⟩ }

/-- The KEY row of handle 5's generation 1. -/
def keyRow : RowData :=
  ⟨9, 0, ⟨none, none⟩, .key 5 1 ⟨[4], .wanFrame, allRights, 0xFFFFFFFF, .active 0 100000 256 none none, 1⟩⟩

/-- The part with the KEY row in its place. -/
def stored (s : State) : State := s.onStore fun t => { t with array := setRow t.array ⟨1, 3⟩ (.valid keyRow) }

/-! ## Figures of the manual -/

/-- R112: after the first cold start the next seq is 5, the erased-row count 507, TT 0, and A0 is defined. -/
theorem test_first_scan :
    let t := State.reset.rebuilt
    t.store.nextSeq = 5 ∧ t.store.erasedRows = 507 ∧ t.time.tt = 0 ∧ (t.authority 0).defined = true ∧
      (t.authority 1).defined = false ∧ t.custody.final = false := by decide +kernel

/-- R145: TT 0FFFFFFFAh, D 10, an offer of 0FFFFFFFFh takes TT to 0FFFFFFFEh and leaves D at 5. -/
theorem test_time_saturates :
    let t := ({ ready.time with tt := 0xFFFFFFFA, drift := 10 } : TimeBase).offer 0xFFFFFFFF
    t.tt = 0xFFFFFFFE ∧ t.drift = 5 := by decide

/-- Section 9.7: an offer 60 seconds ahead with D at 20 is clamped to TT + 20. -/
theorem test_time_clamps :
    let b : TimeBase := { ready.time with tt := 1000640, drift := 20 }
    (b.offer 1000700).tt = 1000660 ∧ (b.offer 1000700).drift = 0 ∧ b.offerNotes 1000700 = noteClockClamped := by decide

/-- Section 6.8: life_days 365 from 2,000,005 expires at 33,536,005. -/
theorem test_expiry : expiryOf 2000005 365 = 33536005 := by decide

/-- Section 6.8: generation 3 superseded at 2,050,000 with grace 720 retires until 2,093,200. -/
theorem test_grace :
    (({ gen1 with gen := 3, expiry := 40000000 } : CurrentGen).retire 2050000 720).map (·.graceEnd) = some 2093200 := by
  decide

/-- Section 7.5, the map of the example: A1 on handle 11 meets a conflict, A2 may not stage on 5, no entry covers 20. -/
theorem test_custody_example :
    let map : Vector CustodyEntry 8 := ⟨#[⟨0, 1, 1, 31, none⟩, ⟨2, 11, 2, 23, some .wanFrame⟩, ⟨2, 11, 6, 8, none⟩,
      ⟨12, 19, 4, 31, some .hanFrame⟩, ⟨10, 15, 10, 1, some .serviceFrame⟩, .empty, .empty, .empty], rfl⟩
    custodyLookup map 5 1 1 = .ok (some .wanFrame) ∧ custodyLookup map 5 2 1 = .error .custodyDenied ∧
      custodyLookup map 5 2 8 = .ok none ∧ custodyLookup map 11 1 8 = .error .custodyConflict ∧
      custodyLookup map 14 3 3 = .error .custodyDenied ∧ custodyLookup map 20 1 8 = .error .noCustody := by decide

/-- R81: with rx_high 40, the counter 8 lies 32 below it and is accepted once, the counter 7 is too old. -/
theorem test_window_edges :
    let w : RxWindow := ⟨some 40, 0⟩
    w.judge 7 = .tooOld ∧ w.judge 40 = .replay ∧ w.judge 8 = .accepted ⟨some 40, 1 <<< 31⟩ ∧
      (⟨some 40, 1 <<< 31⟩ : RxWindow).judge 8 = .replay := by decide

/-- R7, R6: a post of a FREE card joins the arrival list; a second post changes nothing. -/
theorem test_post :
    ready.hostWrite 0x300 [0x5A] = ready.onPort (fun p => p.post 3) ∧
      (ready.onPort fun p => p.post 3).hostWrite 0x300 [0x5A] = ready.onPort fun p => p.post 3 := by decide +kernel

/-- R19: IDENT reads family 3Bh, revision 01h, 20h cards and 30h handles. -/
theorem test_ident : (List.range 4).map (fun k => ready.hostRead (0x4000 + k)) = [0x3B, 0x01, 0x20, 0x30] := by decide

/-- R115: the eighth failure in a row at TT 5,000,020 locks until 5,003,620. -/
theorem test_lock :
    let s := holding (ready.onAuthority 0 fun a => { a with failCount := 7 }) (job .package .laneWait)
    let t := (s.onTime fun b => { b with tt := 5000020 }).tagFailure 0 (job .package .laneWait)
    (t.authority 0).failCount = 8 ∧ (t.authority 0).lockUntil = 5003620 ∧ t.store.queue.length = 1 := by decide +kernel

/-! ## Witnesses: states that meet the hypotheses of each statement -/

theorem witness_stepRunsTheFrontCommand :
    ({ ready with pending := [.rstNLow, .scanEnd] } : State).pending = .rstNLow :: [.scanEnd] ∧ ready.pending = [] := by
  decide

/-- Card 0 is TAKEN by record 0, card 1 is POSTED, card 2 is DONE with its done-map bit. -/
def mixed : State :=
  { holding ready (job .sign .signWait) with
    port := { ready.port with
      cards := ((ready.port.cards.set 0 .taken).set 1 .posted).set 2 .done, arrival := [1], doneMap := 4 }
    pending := [.withdraw 1 []] }

theorem mixed_jobs (j : JobId) (x : Job) : mixed.job j = some x ↔ j = 0 ∧ x = job .sign .signWait := by
  have h0 : mixed.job 0 = some (job .sign .signWait) := by decide +kernel
  have h : ∀ j, j ≠ 0 → mixed.job j = none := by decide +kernel
  by_cases hj : j = 0
  · subst hj; simp [h0, eq_comm]
  · simp [h j hj, hj]

theorem witness_exchangeLaw : mixed.ExchangeLaw ∧ ∃ t, step mixed = .next t := by
  refine ⟨⟨⟨by decide +kernel, by decide +kernel⟩, by unfold State.DoneMapLaw; decide +kernel, ?_, ?_⟩, _, rfl⟩
  · have h : ∀ n : CardNo, mixed.port.cards[n] = .taken ↔ n = 0 := by decide +kernel
    intro n
    rw [h n]
    simp only [mixed_jobs]
    constructor
    · rintro rfl; exact ⟨0, _, ⟨rfl, rfl⟩, rfl⟩
    · rintro ⟨j, x, ⟨rfl, rfl⟩, rfl⟩; rfl
  · simp only [mixed_jobs]
    rintro j j' x x' ⟨rfl, -⟩ ⟨rfl, -⟩ -
    rfl

theorem witness_memoryLaw :
    let s := { posted ready [(1, 3), (0x3DFF, 7)] with pending := [.hostMemoryWrite 0x2000 [0, 1]] }
    s.MemoryLaw ∧ ∃ t, step s = .next t :=
  ⟨by unfold State.MemoryLaw; decide +kernel, _, rfl⟩

theorem witness_timeLaw :
    let s := ready.onTime fun b => { b with tt := 0xFFFFFFFE, drift := 900, subCount := 63 }
    s.TimeLaw ∧ (∃ t, exec .timeBaseSecond s = .next t) ∧ State.reset.TimeLaw ∧
      (∀ n ∈ State.reset.rowStamps, n ≤ 0xFFFFFFFE) ∧ ∃ t, exec .scanEnd State.reset = .next t :=
  ⟨by unfold State.TimeLaw; decide +kernel, ⟨_, rfl⟩, by unfold State.TimeLaw; decide +kernel, by decide +kernel, _, rfl⟩

/-- COVER is latched; slot 2 is OPEN with a key without TAMPER_LOCK. -/
def latched : State :=
  (slotted (keyed ready) (.opened 5 1 allRights [1])).onTamper fun t => { t with cover := { t.cover with latched := true } }

theorem witness_tamperLaw : latched.TamperLaw ∧ latched.anyLatch = true ∧
    (∃ t, exec .takeOpen latched = .next t) ∧ State.reset.TamperLaw ∧ ∀ i, (State.reset.slot i).state = .empty := by
  have h : ∀ i : Fin 4, (latched.slot i).state = .empty ∨ (latched.slot i).state = .opened 5 1 allRights [1] := by
    decide +kernel
  refine ⟨?_, by decide +kernel, ⟨_, rfl⟩, ?_, by decide +kernel⟩
  · intro _ i a g p k e
    rcases h i with h | h
    · rw [h] at e; cases e
    · rw [h] at e; cases e; rfl
  · intro h
    exact absurd h (by decide +kernel)

theorem witness_timeProvisioningAndGen :
    let s := (keyed ready).onCustody fun c => { c with final := true }
    s.custody.final = true ∧ 0 < (s.entry 5).highestGen ∧ ∃ t, exec .eraseStart s = .next t :=
  ⟨by decide +kernel, by decide +kernel, _, rfl⟩

theorem keyed_entry (h : HandleNo) : (keyed ready).entry h =
    if h = 5 then { HandleEntry.vacant with role := some .wanFrame, current := some gen1, highestGen := 1 }
    else HandleEntry.vacant := by
  revert h; decide +kernel

theorem keyed_law (h : HandleNo) : ((keyed ready).entry h).Law := by
  rw [keyed_entry]
  split <;> simp [HandleEntry.Law, HandleEntry.vacant, gen1]

/-- A CONFIRM mark of the staged generation 2 of handle 5 in program. -/
def confirming : State :=
  programming ((keyed ready).onEntry 5 fun e => { e with staged := some staged2, highestGen := 2 }) (.package none)
    ⟨0, 7, ⟨some 0, some (1, 7)⟩, .confirm 5 2 1 9⟩

theorem confirming_fits : confirming.ProgramFits := by
  intro p h e hh _
  obtain rfl := Option.some.inj e
  obtain rfl := Option.some.inj hh
  intro y hy _
  obtain rfl : staged2 = y := Option.some.inj hy
  decide

theorem witness_directoryLaw : (keyed ready).DirectoryLaw ∧ (∃ t, exec .takeOpen (keyed ready) = .next t) ∧
    confirming.ProgramFits ∧ (∃ p, confirming.store.program = some p) ∧
    (let p := pkg 0x04 5 0 [];
      (pkgKind p).onHandle = true ∧ pkgHandle p = 5 ∧ stateChecks ((keyed ready).entry 5) 0 p = none) := by
  refine ⟨⟨keyed_law, ?_, by decide +kernel, ?_⟩, ⟨_, rfl⟩, confirming_fits, ⟨_, rfl⟩, by decide +kernel⟩
  · rintro h (⟨p, e, -⟩ | ⟨p, e, -⟩) <;> cases e
  · intro r p e; cases e

theorem witness_storeLaw : ready.StoreLaw ∧ ready.resetCtl.part = .ready ∧ ∃ t, exec .reclaimStart ready = .next t := by
  have hb : (∀ b : BankNo, ready.store.banks[b] = .head ↔ b = ready.store.headBank) ∧ ready.store.appendPos < 64 ∧
      12 ≤ ready.store.erasedRows := by decide +kernel
  refine ⟨fun _ => ⟨hb.1, hb.2.1, hb.2.2, ?_, ?_, ?_, ?_, ?_, ?_⟩, rfl, _, rfl⟩
  · intro e; cases e
  · intro e; cases e
  · intro b e; cases e
  · intro c e; cases e
  · rintro b (⟨p, e, -⟩ | ⟨p, e, -⟩) <;> cases e
  · intro r p e; cases e

theorem witness_rowsChange :
    (∃ t, exec .appendCompletion (programming ready .timeMark timeRow) = .next t) ∧
      (∃ p, (programming ready .timeMark timeRow).store.program = some p ∧ p.location = ⟨0, 0⟩) ∧
      ∃ t, exec (.eraseCompletion [.torn]) (ready.onStore fun t => { t with erase := some 7 }) = .next t :=
  ⟨⟨_, rfl⟩, ⟨_, rfl, rfl⟩, _, rfl⟩

theorem witness_hostReads : State.reset.resetCtl.part = .starting ∧ ready.noteLow = false := by decide +kernel

/-- A transaction over the end of card 0 and the state byte of card 1, and one at CONTROL during a warm reset. -/
theorem witness_writeTransactions :
    ¬(requestsSoftReset 0xFF [1, 0x5A] = true ∧ ready.mayWarmReset = true) ∧ ready.MemoryLaw ∧
      requestsSoftReset 0x3FFF [0, 0, 0, 0, 0, 0x80] = true ∧ State.reset.mayWarmReset = false := by
  unfold State.MemoryLaw; decide +kernel

theorem witness_stateByteCommands :
    (List.replicate 255 (1 : Byte)).length ≤ 255 ∧ cardFaultValueOk 0x7E = true ∧ cardFaultValueOk 0xC3 = true ∧
      cardFaultValueOk 0x01 = true ∧ (∀ c ∈ [CardState.free, .posted, .taken, .done],
        (mixed.port.cards[0] = c ∨ mixed.port.cards[1] = c ∨ mixed.port.cards[2] = c ∨ mixed.port.cards[3] = c)) := by
  decide +kernel

theorem witness_hostWrites :
    (0x3FFE + [(1 : Byte), 2].length ≤ 0x4000 ∧ ∀ k, k < 2 → ¬(0x3FFE + k < 0x2000 ∧ (0x3FFE + k) % 256 = 0)) ∧
      (0x1FFF + [(1 : Byte), 2].length ≤ 0x4000 ∧ ∀ k, k < 2 → ¬(0x1FFF + k < 0x2000 ∧ (0x1FFF + k) % 256 = 0)) ∧
      discardedWriteOk 0x4003 [1] = true ∧ discardedWriteOk 0x400C [1, 2, 3, 4, 5] = true ∧
      controlWriteOk 0 [0x7F, 1, 2, 3] = true ∧ (0 : Fin 4).val + 4 ≤ 4 ∧ controlWriteOk 3 [0x80] = true ∧
      (3 : Fin 4).val + 1 ≤ 4 ∧ alertClearOk [0xFF, 0xFF, 0xFF, 0xFF] = true := by decide

theorem witness_warmResetArrives :
    softResetOk 0x83 = true ∧ [(0 : Byte), 0xFF, 0xFF].length ≤ 3 ∧ ready.resetCtl.part = .ready ∧
      ready.resetCtl.warmReset = false ∧ State.reset.resetCtl.part = .starting := by decide +kernel

theorem witness_warmResetEmpties : mixed.RecordLaw ∧ mixed.MemoryLaw ∧ mixed.store.program = none :=
  ⟨witness_exchangeLaw.1.2.2, by unfold State.MemoryLaw; decide +kernel, rfl⟩

/-- A warm reset is carried out; handle 5 keeps a pending counter write. -/
def resetting : State :=
  ((keyed ready).onEntry 5 fun e => { e with counterPending := some ⟨some 512, none⟩ }).onReset fun r =>
    { r with warmReset := true }

/-- It ends, ends in FAULT, and waits for a program and for a retry. -/
theorem witness_warmResetEnds :
    let fault := resetting.onStore fun t => { t with fault := true };
    (resetting.resetCtl.warmReset = true ∧ resetting.store.program = none ∧ resetting.store.retry = none ∧
      resetting.supply.activity = .active ∧ resetting.store.fault = false ∧
      (resetting.entry 5).counterPending.isSome = true) ∧
    (fault.resetCtl.warmReset = true ∧ fault.store.program = none ∧ fault.store.retry = none ∧ fault.store.fault = true ∧
      (∀ h, .counter h ∉ fault.store.queue) ∧ ∀ j, fault.job j = none) ∧
    (programming resetting .timeMark timeRow).resetCtl.warmReset = true ∧
      (programming resetting .timeMark timeRow).store.program.isSome = true ∧
      (retrying resetting).store.retry.isSome = true := by decide +kernel

theorem witness_coldStart :
    let s := programming ready .timeMark timeRow
    (∀ p, s.store.program = some p → p.location ≠ ⟨3, 9⟩) ∧ s.store.erase ≠ some 3 := by
  refine ⟨?_, by decide +kernel⟩
  intro p h
  obtain rfl := Option.some.inj h
  decide

/-- The part that leaves the factory awaits its first scan. -/
theorem reset_scanDue : State.reset.ScanDue :=
  ⟨rfl, rfl, by decide +kernel, by decide +kernel, by decide +kernel, rfl, by decide +kernel, rfl, by decide +kernel⟩

theorem witness_scanEnd : State.reset.ScanDue ∧ (∃ t, exec .takeQuery State.reset = .next t) ∧
    ((countedRows State.reset.store.array).map fun r => r.2.seq).Nodup ∧
    (countedRows State.reset.store.array).Perm (countedRows State.reset.store.array) ∧
    (countedRows State.reset.store.array).Pairwise (fun r r' => r.2.seq < r'.2.seq) ∧
    (countedRows State.reset.store.array).length = 5 :=
  ⟨reset_scanDue, ⟨_, rfl⟩, by decide +kernel, List.Perm.refl _, by decide +kernel, by decide +kernel⟩



theorem witness_intake :
    let s := posted ready [(1, 3)]
    s.takable 0 = true ∧ s.nextTake = some (0, 0) ∧
      (s.onSupply fun p => { p with power := .reserve }).takable 0 = true ∧
      ((posted ready [(1, 6)]).onSupply fun p => { p with power := .reserve }).takable 0 = false := by decide +kernel

theorem witness_completion :
    Memory.wf (posted ready [(8, 1), (0x2000, 9)]).port.memory = true ∧ 0x2000 ≤ 0x3DFF ∧
      0x3DFF + [(1 : Byte)].length ≤ 0x3E00 := by decide +kernel

/-- An OPEN that names slot 4, and a card of kind 0Ah. -/
theorem witness_refusalAtTake :
    let s := posted ready [(1, 1), (3, 4)]
    let u := posted ready [(1, 0x0A)]
    s.nextTake = some (0, 0) ∧ kindOfByte (s.kindByte 0) = some .openKey ∧
      checkAtTake s.port.windows (s.snapshot 0 .openKey) = some .fieldBad ∧
      u.nextTake = some (0, 0) ∧ kindOfByte (u.kindByte 0) = none := by decide +kernel

theorem witness_checksAtTake :
    (∀ w ∈ ready.port.windows.toList, w.length ≠ 0 → w.offset % 16 = 0 ∧ w.length % 16 = 0) ∧
      windowCheck ready.port.windows (job .sign .slotQueue) = true := by decide +kernel

/-- The part with card 0 POSTED as a kind for slot 2 and handle 5, a payload of 16 bytes at 2000h. -/
def asking (s : State) (kind : Byte) : State :=
  posted s [(1, kind), (3, 2), (4, 5), (17, 0x20), (18, 16), (20, 60)]

theorem witness_query : (asking (keyed ready) 5).Takes 0 0 .query ∧ (asking (keyed ready) 5).engine.lane ≠ some 0 ∧
    (asking (keyed ready) 5).cipher = ⟨none, [], .c⟩ := by unfold State.Takes; decide +kernel

theorem witness_time : (posted ready [(1, 7), (16, 9)]).Takes 0 0 .time := by unfold State.Takes; decide +kernel

theorem witness_settingsAndWindows :
    (posted ready [(1, 8), (16, 0x10), (17, 0x0E), (20, 60), (24, 1)]).Takes 0 0 .settings ∧
      (posted ready [(1, 9), (17, 0x20), (19, 0x1E), (20, 15)]).Takes 0 0 .windows := by
  unfold State.Takes; decide +kernel

/-- The job waits for an event from outside, whatever its slot and its write list hold, with P in the state given. -/
def busy (p : SlotState) (x : Job) : Bool :=
  match x.step with
  | .signRun | .checkWait | .recordStore | .confirmStore => true
  | .releasing _ => p ≠ .empty
  | _ => false

/-- Where every job in hand is busy, the state is still. -/
theorem still_of {s : State} (h : ∀ j, (s.job j).all (busy s.slots.package) = true)
    (hw : s.engine.laneWaiting = [] ∨ s.LaneClosed) : s.Still := by
  have hs : ∀ j x, s.job j = some x → busy s.slots.package x = true := fun j x e => by simpa [e] using h j
  refine ⟨fun j x e w => ?_, hw, fun j x _ e he => ⟨fun k g w => ?_, fun n w => ?_⟩, fun i j x _ e w => ?_⟩
  · have b := hs j x e
    rcases w with w | w <;> simp [busy, w] at b
  all_goals
    have b := hs j x e
    simp_all [busy]

/-- The verdict on an OPEN of handle 5 by group M. -/
def verdict (s : State) : Except Status Nat := judgeOpen (s.entry 5) s.time.tt 0 .m s.anyLatch

/-- An OPEN in an EMPTY slot whose verdict is OK or NO_KEY, in the slot that holds its key, and in one that holds another. -/
theorem witness_open :
    (let s := asking (keyed ready) 1;
      s.Takes 0 0 .openKey ∧ s.NoJob ∧ verdict s = .ok 1 ∧ s.slotState (.host 2) = .empty) ∧
    (let s := asking ready 1;
      s.Takes 0 0 .openKey ∧ s.NoJob ∧ verdict s = .error .noKey) ∧
    (let s := asking (slotted (keyed ready) (.opened 5 1 allRights [1])) 1;
      s.Takes 0 0 .openKey ∧ s.NoJob ∧ verdict s = .ok 1) ∧
    (let s := asking (slotted (keyed ready) (.opened 6 1 allRights [1])) 1;
      s.Takes 0 0 .openKey ∧ s.NoJob ∧ verdict s = .ok 1) := by
  unfold State.Takes State.NoJob; decide +kernel

theorem witness_close :
    (asking ready 2).Takes 0 0 .closeSlot ∧ (asking ready 2).NoJob ∧
      (asking (slotted ready (.opened 5 1 allRights [1])) 2).Takes 0 0 .closeSlot := by
  unfold State.Takes State.NoJob; decide +kernel

theorem witness_usesRefused :
    (asking ready 3).Takes 0 0 .sign ∧ (asking ready 4).Takes 0 0 .check ∧ (asking ready 3).NoJob ∧
      (asking (slotted ready (.opened 6 1 allRights [1])) 3).Takes 0 0 .sign ∧
      (asking (slotted ready (.opened 5 1 allRights [1])) 3).Takes 0 0 .sign ∧
      ((asking (slotted ready (.opened 5 1 allRights [1])) 3).entry 5).standing 0 1 = none := by
  unfold State.Takes State.NoJob; decide +kernel

/-- Slot 2 OPEN with handle 5's current generation, and a card of a kind for it. -/
def inUse (kind : Byte) (c : CurrentGen) : State :=
  asking ((slotted (keyed ready) (.opened 5 1 allRights [1])).onEntry 5 fun e => { e with current := some c }) kind

/-- 190 counters into its reservation, with a raise to ask for, at the end of its limit, and with the core busy. -/
theorem witness_sign :
    let s := inUse 3 { gen1 with txNext := 190 }
    let r := inUse 3 { gen1 with txNext := 191 }
    let b := computing s (.slotUnwrap (.host 0) []);
    (s.Takes 0 0 .sign ∧ s.NoJob ∧ s.supply.activity = .active ∧ s.cipher.running = none ∧
      (s.snapshot 0 .sign).slotNo = 2 ∧ (s.snapshot 0 .sign).handle = 5 ∧ ¬gen1.txCeiling ≤ 191 + 64) ∧
    (r.Takes 0 0 .sign ∧ gen1.txCeiling ≤ 192 + 64 ∧ (r.entry 5).counterPending = none ∧ (r.entry 5).counterFlight = none) ∧
    (b.Takes 0 0 .sign ∧ b.NoJob ∧ b.cipher.running.isSome = true) ∧
    (inUse 3 { gen1 with txNext := 99999, txCeiling := 100000 }).Takes 0 0 .sign := by
  unfold State.Takes State.NoJob; decide +kernel

theorem witness_signAtCeiling :
    let c := { gen1 with txNext := 256 }
    let s := inUse 3 c
    let f := s.onStore fun t => { t with fault := true }
    s.Takes 0 0 .sign ∧ s.NoJob ∧ s.store.fault = false ∧ s.supply.activity = .active ∧
      judgeSign (s.entry 5) s.time.tt 1 .m false = .ok c ∧ c.txNext = c.txCeiling ∧
      (s.entry 5).counterFlight = none ∧ (s.entry 5).counterPending = none ∧
      f.Takes 0 0 .sign ∧ f.store.fault = true ∧
      ((s.onEntry 5 fun e => { e with counterFlight := some ⟨1, 512, none⟩ }).entry 5).counterFlight.isSome = true := by
  unfold State.Takes State.NoJob; decide +kernel

theorem witness_check :
    let s := inUse 4 gen1
    let u := inUse 4 { gen1 with policy := Policy.empty }
    s.Takes 0 0 .check ∧ s.NoJob ∧ s.cipher.running = none ∧ (s.entry 5).standing s.time.tt 1 = some .current ∧
      ((s.entry 5).policyAt .current).checkM = true ∧ u.Takes 0 0 .check ∧
      (u.entry 5).standing u.time.tt 1 = some .current ∧ ((u.entry 5).policyAt .current).checkM = false := by
  unfold State.Takes State.NoJob; decide +kernel

/-- A slot's read and a fold's read wait; bank 1 is free, or is being erased. -/
theorem witness_reads :
    let s := slotted (keyed ready) (.reading 5 1 none)
    let f := s.onStore fun t => { t with reclaim := some ⟨7, .copy ⟨1, [5], 5, [], 0, .reading 5 1 none⟩, false⟩ }
    (s.entry 5).locationOf 1 = some ⟨1, 3⟩ ∧ s.slotState (.host 2) = .reading 5 1 none ∧ s.store.program = none ∧
      s.store.erase ≠ some 1 ∧ (s.onStore fun t => { t with erase := some 1 }).store.erase = some 1 ∧
      f.store.reclaim = some ⟨7, .copy ⟨1, [5], 5, [], 0, .reading 5 1 none⟩, false⟩ := by decide +kernel

theorem witness_slotReadEnds :
    let s := holding ((slotted (stored (keyed ready)) (.reading 5 1 (some ⟨1, 3⟩))).onSlot 2
      fun u => { u with list := [0] }) (job .openKey .opening)
    s.slotState (.host 2) = .reading 5 1 (some ⟨1, 3⟩) ∧ rowAt s.store.array ⟨1, 3⟩ = .valid keyRow ∧
      s.servedBy (.host 2) = some 0 ∧ s.OnlyJob 0 (job .openKey .opening) := by
  unfold State.OnlyJob; decide +kernel

/-- An unwrap of a host slot ends, and one of P, for each key that the lane asks for. -/
theorem witness_openingsEnd :
    (let s := computing (holding ((slotted (keyed ready) (.unwrapping 5 1 allRights [4])).onSlot 2
        fun u => { u with list := [0] }) (job .openKey .opening)) (.slotUnwrap (.host 2) [4]);
      s.CoreEnds (.slotUnwrap (.host 2) [4]) ∧ s.slotState (.host 2) = .unwrapping 5 1 allRights [4] ∧
        (s.slot 2).list = [0] ∧ s.OnlyJob 0 (job .openKey .opening)) ∧
    ∀ asked ∈ [LaneKey.commandCurrent, .commandRetiring, .transport],
      let x := laned (.keyWait asked 1) []
      let s := computing (inLane (commissioned ready) x (.unwrapping 0 1 Policy.empty [4])) (.slotUnwrap .package [4])
      s.CoreEnds (.slotUnwrap .package [4]) ∧ s.slots.package = .unwrapping 0 1 Policy.empty [4] ∧ s.engine.lane = some 0 ∧
        s.engine.laneWaiting = [] ∧ (∀ i, (s.slot i).list = []) ∧ s.OnlyJob 0 x := by
  unfold State.OnlyJob State.CoreEnds; decide +kernel

/-- A use of handle 5 in its operation. -/
def running (x : Job) (op : CoreOp) : State :=
  computing (holding ((slotted (keyed ready) (.opened 5 1 allRights [1])).onSlot 2 fun u => { u with list := [0] }) x) op

theorem witness_signOperation :
    let x := job .sign .signRun
    let s := running x (.sign 0 [1])
    s.CoreEnds (.sign 0 [1]) ∧ s.OnlyJob 0 x ∧ x.kind = .sign ∧ x.matched = true := by
  unfold State.OnlyJob State.CoreEnds; decide +kernel

theorem witness_tagComparison :
    let x := job .check .checkRun
    let s := running x (.check 0 [1])
    s.CoreEnds (.check 0 [1]) ∧ s.OnlyJob 0 x ∧ x.kind = .check ∧ x.step = .checkRun ∧ x.matched = true ∧ x.notes = 0 ∧
      s.engine.laneWaiting = [] ∧ (s.entry x.handle).standing s.time.tt x.gen = some .current ∧
      (s.entry x.handle).current = some gen1 ∧ gen1.rxFloor = none := by
  unfold State.OnlyJob State.CoreEnds; decide +kernel

theorem witness_decipher :
    let x := { job .check .decipherRun with gen := 2, notes := noteStagedUsed }
    let s := ((running x (.decipher 0 [1])).onSlot 2 fun u =>
      { u with state := .opened 5 2 staged2.policy [1] }).onEntry 5 fun e => { e with staged := some staged2 }
    s.CoreEnds (.decipher 0 [1]) ∧ s.OnlyJob 0 x ∧ x.kind = .check ∧ x.matched = true ∧ s.engine.laneWaiting = [] ∧
      (s.entry x.handle).writeList = [] ∧ x.notes &&& noteStagedUsed ≠ 0 ∧
      (s.slot x.slotNo).state.policy.confirmOnUse = true ∧ (s.entry x.handle).staged = some staged2 ∧
      staged2.gen = x.gen ∧ s.time.tt < staged2.deadline ∧ s.store.fault = false ∧
      (running (job .check .decipherRun) (.decipher 0 [1])).CoreEnds (.decipher 0 [1]) ∧
      (job .check .decipherRun).notes &&& noteStagedUsed = 0 := by
  unfold State.OnlyJob State.CoreEnds; decide +kernel

theorem witness_closesAndWipes :
    let s := (slotted ready (.opened 5 1 allRights [1])).onSlot 2 fun u => { u with idle := 60 }
    let c := (slotted ready (.closing 0)).onTime fun b => { b with milli := 1 }
    let w := holding (c.onSlot 2 fun u => { u with list := [0] }) (job .closeSlot .slotQueue);
    (s.settings.idleLimit ≠ 0 ∧ (s.slot 2).list = [] ∧ s.settings.idleLimit ≤ (s.slot 2).idle) ∧
      (slotted ready (.opened 5 1 allRights [1])).settings.idleLimit = 60 ∧
      (slotted ready (.closing 0)).time.milli ≤ 0 ∧ c.slotState (.host 2) = .closing 0 ∧ 0 < c.time.milli ∧
      (∀ j, c.job j = none) ∧ (w.slot 2).list = [0] ∧ w.OnlyJob 0 (job .closeSlot .slotQueue) ∧ w.engine.lane = none ∧
      w.engine.laneWaiting = [] ∧ ∀ m, m ≠ 2 → (w.slot m).list = [] := by
  unfold State.OnlyJob; decide +kernel

/-- A SIGN on slot 2 ends, or a discarded unwrap, while a CHECK of group C on slot 1, the lane and slot 0 wait for the core. -/
def contended (op : CoreOp) (discarded : Bool) (waiting : List Request) : State :=
  let x := job .sign .signRun
  let y := { job .check .checkWait with card := 20, header := [0, 0, 0, 1, 5] }
  let s := ((running x op).onSlot 1 fun u => { u with list := [1], state := .opened 5 1 allRights [2] }).setJob 1 (some y)
  s.onCipher fun c => { c with running := some ⟨op, discarded⟩, waiting := waiting }

theorem contended_still (op : CoreOp) (discarded : Bool) (waiting : List Request) : (contended op discarded waiting).Still :=
  still_of (by intro j; revert j; exact (by decide +kernel : ∀ j, ((contended (.sign 0 []) false []).job j).all
      (busy (contended (.sign 0 []) false []).slots.package))) (.inl rfl)

/-- Each class is picked where no higher one waits; the SIGN leaves nothing behind that the grant needs. -/
theorem witness_arbiter :
    (let s := contended (.slotUnwrap (.host 0) []) true [.use 1];
      s.Still ∧ s.pickRequest = some (.use 1) ∧ s.granted (.use 1) = some (.check 1 [2])) ∧
    (contended (.slotUnwrap (.host 0) []) true []).pickRequest = none ∧
    (ready.onCipher fun c => { c with waiting := [.use 0, .lane 1, .slotUnwrap .package] }).pickRequest =
      some (.slotUnwrap .package) ∧
    (let s := contended (.sign 0 [1]) false [.use 1]
      let x := job .sign .signRun
      s.Still ∧ s.job 0 = some x ∧ x.kind = .sign ∧ x.matched = true ∧ (s.slot x.slotNo).list = [0] ∧
        (∀ i, i ≠ x.slotNo → (0 : JobId) ∉ (s.slot i).list) ∧ s.engine.lane ≠ some 0 ∧
        (∀ q ∈ s.cipher.waiting, q.byJob 0 = false) ∧
        s.pickRequest = some (.use 1) ∧ s.granted (.use 1) = some (.check 1 [2])) :=
  ⟨⟨contended_still _ _ _, by decide +kernel⟩, by decide +kernel, by decide +kernel, contended_still _ _ _, by decide +kernel⟩

/-- The part with jobs in records 0 and 1, both in the list of slot 2. -/
def paired (u : SlotState) (x y : Job) : State :=
  ((holding (slotted (keyed ready) u) x).setJob 1 (some y)).onSlot 2 fun v => { v with list := [0, 1] }

/-- A job behind another, on card 1. -/
def behind (kind : Kind) (step : JobStep) : Job := { job kind step with card := 1, matched := false }

/-- Slot 2 CLOSING since the last milli-tick, a CLOSE in front and a job behind it. -/
def closingPair (y : Job) : State := (paired (.closing 0) (job .closeSlot .slotQueue) y).onTime fun b => { b with milli := 1 }

/-- Slot 2 OPEN, a SIGN in its operation in front and a job behind it. -/
def signingPair (y : Job) : State :=
  computing (paired (.opened 5 1 allRights [1]) (job .sign .signRun) y) (.sign 0 [1])

/-- A card of each kind for slot 2, behind a SIGN in its operation and against a CLOSING slot. -/
theorem witness_queueing :
    (∀ k ∈ [(1, Kind.openKey), (2, .closeSlot), (3, .sign), (4, .check)],
      (asking (contended (.sign 0 [1]) false []) k.1).Takes 0 2 k.2 ∧ (asking (slotted ready (.closing 0)) k.1).Takes 0 0 k.2) ∧
    (∀ k, (asking (contended (.sign 0 [1]) false []) k).Still ∧ (asking (slotted ready (.closing 0)) k).Still) ∧
    (let s := contended (.sign 0 [1]) false [];
      (∀ i, (2 : JobId) ∉ (s.slot i).list) ∧ (s.slot 2).list ≠ []) ∧
    ∀ i, (0 : JobId) ∉ ((slotted ready (.closing 0)).slot i).list :=
  ⟨by unfold State.Takes; decide +kernel,
    fun k => ⟨contended_still (.sign 0 [1]) false [],
      still_of (s := asking (slotted ready (.closing 0)) k)
        (fun j => (by decide +kernel : ∀ j, (ready.job j).all (busy .empty) = true) j) (.inl rfl)⟩,
    by decide +kernel, by decide +kernel⟩

/-- The job behind a CLOSE whose wipe ends, and behind a SIGN whose operation ends. -/
theorem witness_behind :
    (∀ y ∈ [behind .openKey .slotQueue, behind .closeSlot .slotQueue, behind .sign .slotQueue, behind .check .slotQueue],
      (closingPair y).OnlyJobs 0 (job .closeSlot .slotQueue) 1 y ∧ (closingPair y).ListsAre 2 [0, 1] ∧
      ((closingPair y).slot 2).state = .closing 0 ∧ 0 < (closingPair y).time.milli ∧ y.matched = false ∧
      (signingPair y).OnlyJobs 0 (job .sign .signRun) 1 y ∧ (signingPair y).ListsAre 2 [0, 1] ∧
      (signingPair y).CoreEnds (.sign 0 [1]) ∧ ((signingPair y).slot 2).state = .opened 5 1 allRights [1] ∧
      y.slotNo = 2 ∧ y.handle = 5 ∧ y.genField = 0) ∧
    (let s := closingPair (behind .openKey .slotQueue)
      let u := s.onEntry 5 fun e => { e with current := none };
      verdict s = .ok 1 ∧ verdict u = .error .noKey) ∧
    (let s := signingPair (behind .check .slotQueue);
      (s.entry 5).standing s.time.tt 1 = some .current ∧ ((s.entry 5).policyAt .current).checkM = true ∧
      (s.entry 5).current = some gen1 ∧ gen1.policy.signM = true ∧ s.time.tt < gen1.expiry ∧
      gen1.txNext + 65 < gen1.txCeiling ∧ gen1.txNext < gen1.signLimit) := by
  unfold State.OnlyJobs State.ListsAre State.CoreEnds; decide +kernel

/-- A confirm by use in program, and behind it in the write list a CHECK of the same generation, and a CONFIRM package. -/
def confirmPair (y : Job) (kind : WriteKind) : State :=
  let s := programming (paired (.opened 5 2 staged2.policy [1]) { job .check .confirmStore with gen := 2 } y)
    (.confirmByUse (some 0)) ⟨0, 99, ⟨some 0, none⟩, .confirm 5 2 0 9⟩
  (s.onEntry 5 fun e => { e with
    staged := some staged2, highestGen := 2, writeList := [⟨some 0, .confirmByUse, 2⟩, ⟨some 1, kind, 2⟩] }).onEngine fun e =>
      { e with lane := some 1 }

theorem witness_writesBehind :
    let x := { job .check .confirmStore with gen := 2 }
    let y := { behind .check .confirmWait with gen := 2 }
    let z := { behind .package .writeWait with input := pkg 0x02 5 2 [] };
    (∀ u ∈ [(y, WriteKind.confirmByUse), (z, .confirm)],
      let s := confirmPair u.1 u.2
      s.OnlyJobs 0 x 1 u.1 ∧ s.store.program.isSome = true ∧ s.store.reclaim = none ∧ x.handle = 5 ∧
      (s.entry 5).staged = some staged2 ∧ 99 < staged2.deadline ∧ s.engine.laneWaiting = [] ∧
      (∀ i, (s.slot i).list ⊆ [0, 1]) ∧ (s.entry 5).writeList = [⟨some 0, .confirmByUse, 2⟩, ⟨some 1, u.2, 2⟩]) ∧
    y.handle = 5 ∧ pkgKind z.input = .confirm ∧ pkgHandle z.input = 5 ∧ (confirmPair z .confirm).engine.lane = some 1 := by
  unfold State.OnlyJobs; decide +kernel

/-! ### The package lane -/

/-- Card 0 POSTED with a package at 2000h: a TIMESET of A0 with the counter given. -/
def relaying (s : State) (counter : Byte) : State :=
  posted s [(1, 6), (17, 0x20), (0x2000, 0x31), (0x2001, 0x5A), (0x2002, 0x10), (0x2004, counter)]

theorem witness_packageEnters :
    let a := relaying (commissioned ready) 1
    let b := relaying (commissioned ready) 0
    let c := relaying (ready.onAuthority 0 fun a => { a with defined := true }) 1
    let d := posted ready [(1, 6), (17, 0x20)];
    (a.Takes 0 0 .package ∧ a.NoJob ∧ formatOk (a.snapshot 0 .package).input = true ∧
      laneJudge (a.authority 0) a.time.tt (a.snapshot 0 .package).input = none ∧ (a.entry 0).role = some .authCmd ∧
      (a.entry 0).current = some gen1 ∧ a.slots.package = .empty ∧ a.store.program = none ∧ a.store.retry = none) ∧
    (b.Takes 0 0 .package ∧ laneJudge (b.authority 0) b.time.tt (b.snapshot 0 .package).input = some .counterOld) ∧
    (c.Takes 0 0 .package ∧ laneJudge (c.authority 0) c.time.tt (c.snapshot 0 .package).input = none ∧
      (c.entry 0).role ≠ some .authCmd) ∧
    (d.Takes 0 0 .package ∧ d.NoJob ∧ formatOk (d.snapshot 0 .package).input = false) := by
  unfold State.Takes State.NoJob; decide +kernel

/-- A package taken while the lane is held, and while the record of an aborted lane job is in program. -/
theorem witness_laneHeld :
    let held := relaying (inLane (commissioned ready) (laned .recordStore []) .empty) 1
    let orphan := relaying (programming ready (.package none) timeRow) 1;
    (held.Still ∧ held.LaneClosed ∧ orphan.Still ∧ orphan.LaneClosed) ∧ held.Takes 0 1 .package ∧
      formatOk (held.snapshot 0 .package).input = true ∧ orphan.Takes 0 0 .package ∧
      formatOk (orphan.snapshot 0 .package).input = true :=
  ⟨⟨still_of (by decide +kernel) (.inl rfl), .inl (by decide +kernel), still_of (by decide +kernel) (.inl rfl),
    .inr (.inl (.inl ⟨_, rfl, rfl⟩))⟩, by unfold State.Takes; decide +kernel⟩

/-- The lane job completes while another package waits; the record of an aborted one completes while it is sent again. -/
theorem witness_laneAdmits :
    let x := laned (.releasing .wrapBad) []
    let y := { behind .package .laneWait with input := pkg 0x10 0 0 [] }
    let waits := fun (s : State) (j : JobId) => (s.setJob j (some y)).onEngine fun e => { e with laneWaiting := [j] }
    let s := waits ((inLane (commissioned ready) x (.closing 0)).onTime fun b => { b with milli := 1 }) 1
    let u := waits (programming (commissioned ready) (.package none) ⟨0, 50, ⟨some 0, some (1, 0)⟩, .cancel 5 2⟩) 0;
    (¬s.store.holdsRecordOf (.package none) ∧ ¬s.store.holdsRecordOf (.lock none)) ∧
    (s.job 0 = some x ∧ s.engine.lane = some 0 ∧ s.engine.laneWaiting = [1] ∧ s.job 1 = some y ∧
      (∀ i, i ≠ 0 → i ≠ 1 → s.job i = none) ∧ s.slots.package = .closing 0 ∧ 0 < s.time.milli ∧
      (∀ i, (s.slot i).list = []) ∧ laneJudge (s.authority (pkgAuth y.input)) s.time.tt y.input = none ∧
      (s.entry 0).role = some .authCmd ∧ (s.entry 0).current = some gen1) ∧
    (u.store.retry = none ∧ u.store.reclaim = none ∧ u.engine.lane = none ∧ u.engine.laneWaiting = [0] ∧ u.OnlyJob 0 y ∧
      (∀ i, (u.slot i).list = []) ∧ pkgAuth y.input = 0 ∧ pkgCounter y.input = 1 ∧ pkgTag y.input = 0 ∧
      (u.authority 0).defined = true ∧ (u.authority 0).lockUntil ≤ u.time.tt) := by
  refine ⟨⟨?_, ?_⟩, ?_⟩
  · rintro (⟨p, e, -⟩ | ⟨p, e, -⟩) <;> cases e
  · rintro (⟨p, e, -⟩ | ⟨p, e, -⟩) <;> cases e
  · unfold State.OnlyJob; decide +kernel

theorem witness_laneOperations :
    let x := laned (.tagRun true) (pkg 0x10 0 0 [])
    let s := computing (inLane (commissioned ready) x (.opened 0 1 Policy.empty [1])) (.packageTag 0 [1])
    let u := computing s (.stageUnwrap 0 [1])
    s.OnlyJob 0 x ∧ s.slots.package = .opened 0 1 Policy.empty [1] ∧ s.engine.laneWaiting = [] ∧
      s.CoreEnds (.packageTag 0 [1]) ∧ x.step = .tagRun true ∧ u.CoreEnds (.stageUnwrap 0 [1]) := by
  unfold State.OnlyJob State.CoreEnds; decide +kernel

/-- The lane job waits for the release of P, which completes with the milli-tick under way. -/
def releasing (s : State) (x : Job) : State := (inLane s x (.closing 0)).onTime fun b => { b with milli := 1 }

theorem releaseEnds {s : State} {x : Job} {next : AfterRelease}
    (h : (releasing s x).OnlyJob 0 x ∧ x.kind = .package ∧ x.step = .releasing next ∧
      (releasing s x).engine.laneWaiting = [] ∧ ∀ i, ((releasing s x).slot i).list = []) :
    (releasing s x).ReleaseEnds 0 x next :=
  ⟨h.1, h.2.1, h.2.2.1, rfl, h.2.2.2.1, h.2.2.2.2, 0, rfl, Nat.one_pos⟩

/-- A retiring generation of A0's command key, in its last second of grace. -/
def retiring1 : RetiringGen := ⟨1, ⟨1, 5⟩, Policy.empty, 0xFFFFFFFF, ⟨none, 0⟩, 1⟩

theorem witness_tagFailures :
    let x := laned (.releasing (.tagMismatched false)) (pkg 0x10 0 0 [])
    let y := laned (.releasing (.tagMismatched true)) (pkg 0x10 0 0 [])
    let s := commissioned ready
    let r := s.onEntry 0 fun e => { e with retiring := some retiring1 }
    let l := s.onAuthority 0 fun a => { a with failCount := 255 };
    ((releasing r x).ReleaseEnds 0 x (.tagMismatched false) ∧ ((releasing r x).entry 0).retiring = some retiring1 ∧
      (releasing r x).time.tt < retiring1.graceEnd) ∧
    (releasing s x).ReleaseEnds 0 x (.tagMismatched false) ∧ ((releasing s x).entry 0).retiring = none ∧
    ((releasing l y).ReleaseEnds 0 y (.tagMismatched true) ∧ 8 ≤ min (((releasing l y).authority 0).failCount + 1) 255 ∧
      (releasing l y).store.fault = false ∧ (releasing l y).supply.activity = .active) := by
  refine ⟨⟨releaseEnds ?_, ?_⟩, releaseEnds ?_, ?_, releaseEnds ?_, ?_⟩ <;>
    (try unfold State.OnlyJob) <;> decide +kernel

theorem witness_packageReachesItsRecord :
    let x := fun p => laned (.releasing .tagMatched) p
    let s := (commissioned ready).onCustody fun c => { c with map := CustodyEntry.factoryMap }
    let verdict := fun p => rightsStep s.custody (s.authority 0) p
    let timeset := pkg 0x10 0 0 []
    let noCustody := pkg 0x04 9 0 []
    let stage := pkg 0x01 0 2 [1, 0, 0, 0, 1, 0, 1]
    let revoke := pkg 0x04 0 0 []
    let stale := pkg 0x04 0 7 [];
    (∀ p ∈ [timeset, noCustody, stage, revoke, stale], (releasing s (x p)).ReleaseEnds 0 (x p) .tagMatched) ∧
    (verdict timeset = none ∧ (pkgKind timeset).onHandle = false) ∧ verdict noCustody = some .noCustody ∧
    (verdict stage = none ∧ pkgKind stage = .stage ∧ (s.entry 0).writeList = [] ∧ stateChecks (s.entry 0) 0 stage = none ∧
      (s.entry 1).role = some .authTransport ∧ (s.entry 1).current = some gen1) ∧
    (verdict revoke = none ∧ (pkgKind revoke).onHandle = true ∧ stateChecks (s.entry 0) 0 revoke = none) ∧
    (verdict stale = none ∧ stateChecks (s.entry 0) 0 stale = some .genBad) ∧
    (let y := laned (.releasing .keyUnwrapped) stage;
      (releasing s y).ReleaseEnds 0 y .keyUnwrapped) ∧
    (let y := laned (.releasing .wrapBad) stage;
      (releasing s y).ReleaseEnds 0 y .wrapBad) := by
  refine ⟨?_, ?_, ?_, ?_, ?_, ?_, releaseEnds ?_, releaseEnds ?_⟩
  · intro p hp
    simp only [List.mem_cons, List.not_mem_nil, or_false] at hp
    rcases hp with rfl | rfl | rfl | rfl | rfl <;> exact releaseEnds (by unfold State.OnlyJob; decide +kernel)
  all_goals first | decide +kernel | (unfold State.OnlyJob; decide +kernel)

/-- A REVOKE of handle 0 whose tag matched, behind a confirm by use; and a STAGE of it whose key did not unwrap, ahead of one. -/
def releasingPair (next : AfterRelease) (p : List Byte) (y : Job) (writes : List WriteEntry) : State :=
  let s := (commissioned ready).onCustody fun c => { c with map := CustodyEntry.factoryMap }
  ((releasing s (laned (.releasing next) p)).setJob 1 (some y)).onEntry 0 fun e => { e with writeList := writes }

theorem witness_writesWait :
    let p := pkg 0x04 0 0 []
    let y := { behind .check .confirmStore with header := [0, 0, 0, 2, 0], gen := 1 }
    let s := releasingPair .tagMatched p y [⟨some 1, .confirmByUse, 1⟩]
    s.Still ∧ s.job 0 = some (laned (.releasing .tagMatched) p) ∧ s.engine.lane = some 0 ∧ s.slots.package = .closing 0 ∧
      0 < s.time.milli ∧ rightsStep s.custody (s.authority (pkgAuth p)) p = none ∧ (pkgKind p).onHandle = true ∧
      (s.entry (pkgHandle p)).writeList = [⟨some 1, .confirmByUse, 1⟩] :=
  ⟨still_of (by decide +kernel) (.inl rfl), by decide +kernel⟩

theorem witness_writeBehindAStage :
    let p := pkg 0x01 0 2 []
    let x := laned (.releasing .wrapBad) p
    let y := { behind .check .confirmWait with header := [0, 0, 0, 2, 0], gen := 2 }
    let s := releasingPair .wrapBad p y [⟨some 0, .stage, 2⟩, ⟨some 1, .confirmByUse, 2⟩]
    let u := s.onEntry 0 fun e => { e with staged := some staged2 };
    (∀ t ∈ [s, u], t.OnlyJobs 0 x 1 y ∧ t.engine.lane = some 0 ∧ t.engine.laneWaiting = [] ∧ t.slots.package = .closing 0 ∧
      0 < t.time.milli ∧ y.handle = pkgHandle p ∧ (∀ i, (t.slot i).list ⊆ [1]) ∧
      (t.entry y.handle).writeList = [⟨some 0, .stage, 2⟩, ⟨some 1, .confirmByUse, 2⟩]) ∧
    (s.entry 0).staged = none ∧ (u.entry 0).staged = some staged2 ∧ staged2.gen = y.gen ∧ u.time.tt < staged2.deadline ∧
      u.store.fault = false := by
  unfold State.OnlyJobs; decide +kernel

theorem witness_stateChecks :
    pkgKind (pkg 0x01 0 2 []) = .stage ∧ pkgKind (pkg 0x02 0 2 []) = .confirm ∧ pkgKind (pkg 0x03 0 2 []) = .cancel ∧
      pkgKind (pkg 0x04 0 2 []) = .revoke ∧ pkgKind (pkg 0x05 0 2 []) = .release := by decide

/-! ### The record store -/

/-- The part with appends queued and the erased-row count of `n` ERASED banks and a full HEAD. -/
def queued (q : List QueuedAppend) : State := (keyed ready).onStore fun t => { t with queue := q }

/-- The part with few erased rows: 13 in the HEAD, or 12. -/
def nearlyFull (s : State) (left : Nat) : State :=
  s.onStore fun t => { t with banks := (Vector.replicate 8 .full).set 0 .head, appendPos := 64 - left }

theorem witness_queuedAppends :
    let owned := QueuedAppend.owned .timeMark (.plain ⟨none, none⟩ (.time none))
    let a := queued [.counter 5, owned]
    let b := (queued [.timeMark, .tamper .cover]).onSupply fun p => { p with power := .reserve }
    let c := nearlyFull b 13
    let w := a.onEntry 5 fun e => { e with counterPending := some ⟨some 512, none⟩ };
    a.StoreRuns ∧ a.recentStarts < 4 ∧ 96 ≤ a.store.erasedRows ∧ (w.entry 5).counterFlight = none ∧
      w.store.copying = false ∧ (w.entry 5).current = some gen1 ∧ (w.entry 5).counterPending = some ⟨some 512, none⟩ ∧
      b.StoreRuns ∧ c.StoreRuns ∧ c.store.erasedRows = 13 ∧ ¬96 ≤ c.store.erasedRows ∧
      (a.onStore fun t => { t with nextSeq := 0xFFFFFFFF }).store.nextSeq = 0xFFFFFFFF ∧ ∀ j, a.job j = none := by
  unfold State.StoreRuns; decide +kernel

theorem witness_abandoned :
    let x := laned .recordStore []
    let s := programming ready .timeMark timeRow
    let third := (holding ready x).onStore fun t =>
      { t with program := some ⟨.package (some 0), .plain ⟨none, none⟩ (.time none), ⟨0, 0⟩, timeRow, 2⟩ }
    let r := retrying ready
    let b := retrying (nearlyFull (holding ready x) 12);
    (∃ p, s.store.program = some p ∧ p.failures + 1 < 3) ∧ (∃ p, third.store.program = some p ∧ 3 ≤ p.failures + 1) ∧
      s.store.fault = false ∧ third.OnlyJob 0 x ∧ third.store.fault = false ∧ third.store.retry = none ∧
      r.store.fault = false ∧ r.resetCtl.part = .ready ∧ r.store.program = none ∧
      ¬(r.store.erasedRows ≤ 12 ∨ r.store.nextSeq = 0xFFFFFFFF) ∧ r.recentStarts < 4 ∧
      4 ≤ (r.onStore fun t => { t with history := [0, 0, 0, 0] }).recentStarts ∧ b.store.erasedRows = 12 ∧
      b.store.retry.isSome = true ∧ b.OnlyJob 0 x :=
  ⟨⟨_, rfl, by decide⟩, ⟨_, rfl, by decide⟩, by unfold State.OnlyJob; decide +kernel⟩

/-- What is in hand when FAULT comes: a package's record at its third abandonment, one whose retry finds 12 erased rows, a TIME mark
while an erase fails, a TAMPER mark while a fold's read fails, and a COUNTER mark for which a SIGN waits. -/
theorem witness_faultGivesUp :
    let x := laned .recordStore []
    let third := (holding ready x).onStore fun t =>
      { t with program := some ⟨.package (some 0), .plain ⟨none, none⟩ (.time none), ⟨0, 0⟩, timeRow, 2⟩ }
    let r := retrying (nearlyFull (holding ready x) 12)
    let e := (programming (stored ready) .timeMark timeRow).onStore fun t => { t with erase := some 1 }
    let f := copying (programming (stored (keyed ready)) (.tamper .cover) timeRow) (.reading 5 1 (some ⟨1, 3⟩))
    let w := job .sign .counterWait
    let c := (programming (holding (keyed ready) w) (.counter 5) timeRow).onStore fun t => { t with erase := some 1 };
    (third.store.holdsRecordOf (.package (some 0)) ∧ r.store.holdsRecordOf (.package (some 0)) ∧
      e.store.holdsRecordOf .timeMark ∧ f.store.holdsRecordOf (.tamper .cover) ∧ c.store.holdsRecordOf (.counter 5)) ∧
    (third.OnlyJob 0 x ∧ r.OnlyJob 0 x ∧ c.OnlyJob 0 w ∧ w.handle = 5 ∧ w.step = .counterWait) ∧
    (∀ s ∈ [third, r, e, f, c], s.store.fault = false ∧ s.store.queue = [] ∧
      (s.store.program = none ∨ s.store.retry = none)) ∧
    (r.resetCtl.part = .ready ∧ r.store.program = none ∧ r.store.erasedRows = 12) ∧
    ((rowAt e.store.array ⟨1, 3⟩).after (([.blank, .blank, .blank, .kept] : List RowResidue).getD 3 .blank) ≠ .blank ∧
      (rowAt c.store.array ⟨1, 0⟩).after (([.torn] : List RowResidue).getD 0 .blank) ≠ .blank ∧ ∀ j, e.job j = none) ∧
    (f.store.reclaim = some ⟨7, .copy ⟨1, [5], 5, [], 0, .reading 5 1 (some ⟨1, 3⟩)⟩, false⟩ ∧ ∀ j, f.job j = none) :=
  ⟨⟨.inl ⟨_, rfl, rfl⟩, .inr ⟨_, rfl, rfl⟩, .inl ⟨_, rfl, rfl⟩, .inl ⟨_, rfl, rfl⟩, .inl ⟨_, rfl, rfl⟩⟩,
    by unfold State.OnlyJob; decide +kernel, by decide +kernel, by decide +kernel, by decide +kernel, by decide +kernel⟩

/-- A package of every kind; a STAGE names a role, an AUTHORITY the authority and handles it defines. -/
theorem witness_packageRows :
    (∀ kind ∈ [0x01, 0x02, 0x03, 0x04, 0x05, 0x10, 0x11, 0x20, 0x21, 0x22, 0x23],
      (byteAt (pkg kind 5 2 [1]) 2) = kind ∧ (byteAt (pkg kind 5 2 [1]) 3).toNat = 0 ∧ (byteAt (pkg kind 5 2 [1]) 8).toNat = 5) ∧
      roleOfCode (byteAt (pkg 0x01 5 2 [1]) 12).toNat = some .authCmd ∧
      (byteAt (pkg 0x20 0 0 [5, 1, 47, 46]) 12).toNat = 5 ∧ (byteAt (pkg 0x20 0 0 [5, 1, 47, 46]) 14).toNat = 47 ∧
      (byteAt (pkg 0x20 0 0 [5, 1, 47, 46]) 15).toNat = 46 ∧
      (((keyed ready).onEntry 5 fun e => { e with staged := some staged2 }).entry 5).staged = some staged2 := by
  decide +kernel

/-- In the HEAD's first row, and in its last, with ERASED banks after it. -/
theorem witness_completionDurable :
    let s := programming ready .timeMark timeRow
    let last := s.onStore fun t => { t with appendPos := 63 }
    s.store.program.isSome = true ∧ s.store.appendPos + 1 < 64 ∧ 64 ≤ last.store.appendPos + 1 ∧
      last.store.banks[last.store.headBank + 1] = .erased := by decide +kernel

/-- The record of A0's package, counter 1, in program for the lane job. -/
def recording (s : State) (r : Record) : State :=
  programming (inLane s (laned .recordStore []) .empty) (.package (some 0)) ⟨0, 50, ⟨some 0, some (1, 7)⟩, r⟩

theorem recordEnds {s : State} {r : Record} (h : (recording s r).OnlyJob 0 (laned .recordStore []) ∧
    (recording s r).engine.laneWaiting = [] ∧ (∀ i, ((recording s r).slot i).list = []) ∧
    (recording s r).store.reclaim = none) :
    (recording s r).RecordEnds (some (0, laned .recordStore [])) ⟨0, 0⟩ ⟨0, 50, ⟨some 0, some (1, 7)⟩, r⟩ :=
  ⟨h.2.2.2, h.2.1, h.2.2.1, ⟨_, _, rfl⟩, h.1, rfl, rfl, rfl⟩

/-- The same record, its job aborted by a warm reset. -/
theorem orphanEnds (r : Record) : (programming ready (.package none) ⟨0, 50, ⟨some 0, some (1, 7)⟩, r⟩).RecordEnds none ⟨0, 0⟩
    ⟨0, 50, ⟨some 0, some (1, 7)⟩, r⟩ :=
  ⟨rfl, rfl, (by decide +kernel : ∀ i, (ready.slot i).list = []), ⟨_, _, rfl⟩,
    (by decide +kernel : ∀ j, ready.job j = none), rfl⟩

/-- Every record that a package writes for a handle, in program; a staged generation's deadline above the stamp and at it. -/
theorem witness_packageDirectory :
    let s := (keyed ready).onEntry 5 fun e => { e with staged := some staged2 }
    let late := (keyed ready).onEntry 5 fun e => { e with staged := some { staged2 with deadline := 50 } };
    (∀ r ∈ [Record.key 5 3 ⟨[], .wanFrame, allRights, 0, .staged 50 9 100 0, 3⟩,
        .key 5 3 ⟨[], .wanFrame, allRights, 0, .active 50 9 9 none (some 1), 3⟩, .confirm 5 2 1 9, .cancel 5 2,
        .release 5 0, .revoke 5 0 2 (some .wanFrame)],
      (recording s r).RecordEnds (some (0, laned .recordStore [])) ⟨0, 0⟩ ⟨0, 50, ⟨some 0, some (1, 7)⟩, r⟩) ∧
    50 < staged2.deadline ∧ (s.entry 5).staged = some staged2 ∧
    (recording late (.confirm 5 2 1 9)).RecordEnds (some (0, laned .recordStore [])) ⟨0, 0⟩
      ⟨0, 50, ⟨some 0, some (1, 7)⟩, .confirm 5 2 1 9⟩ ∧
    (late.entry 5).staged = some { staged2 with deadline := 50 } := by
  refine ⟨?_, by decide, by decide +kernel, recordEnds (by unfold State.OnlyJob; decide +kernel), by decide +kernel⟩
  intro r hr
  simp only [List.mem_cons, List.not_mem_nil, or_false] at hr
  rcases hr with rfl | rfl | rfl | rfl | rfl | rfl <;> exact recordEnds (by unfold State.OnlyJob; decide +kernel)

/-- A SIGN under generation 1 waits for its counter write while a package's record changes the current generation. -/
theorem witness_counterWaiterReleased :
    let x := laned .recordStore []
    let y := behind .sign .counterWait
    ∀ r ∈ [Record.confirm 5 2 1 9, .key 5 3 ⟨[], .wanFrame, allRights, 0, .active 50 9 9 none (some 1), 3⟩, .revoke 5 0 2 none],
    let s := (((recording (slotted (keyed ready) (.opened 5 1 allRights [1])) r).setJob 1 (some y)).onSlot 2
      fun u => { u with list := [1] }).onEntry 5 fun e => { e with staged := some staged2 };
    s.OnlyJobs 0 x 1 y ∧ s.ListsAre 2 [1] ∧ s.store.program.isSome = true ∧ s.store.reclaim = none ∧
      s.engine.lane = some 0 ∧ y.handle = 5 ∧ y.slotNo = 2 ∧ y.genField = 0 ∧
      (s.slot 2).state = .opened 5 gen1.gen allRights [1] ∧ (s.entry 5).current = some gen1 ∧
      (s.entry 5).staged = some staged2 ∧ staged2.gen ≠ gen1.gen ∧ 50 < staged2.deadline ∧
      (gen1.superseded 50 1).map (·.graceEnd) = some 110 ∧ gen1.superseded 50 0 = none := by
  unfold State.OnlyJobs State.ListsAre; decide +kernel

theorem witness_packageDevice :
    ∀ r ∈ [Record.time (some 9), .unlock true false, .authority 0 ⟨true, 0, 1, true, true, 1, some 7, 0⟩,
        .authority 3 ⟨true, 4, 5, false, true, 0, none, 0⟩, .custody CustodyEntry.factoryMap,
        .setup ⟨true, true, 255⟩ ⟨false, false, 1⟩ false, .setup ⟨false, false, 1⟩ ⟨false, false, 1⟩ true],
      (recording ready r).RecordEnds (some (0, laned .recordStore [])) ⟨0, 0⟩ ⟨0, 50, ⟨some 0, some (1, 7)⟩, r⟩ := by
  intro r hr
  simp only [List.mem_cons, List.not_mem_nil, or_false] at hr
  rcases hr with rfl | rfl | rfl | rfl | rfl | rfl | rfl <;> exact recordEnds (by unfold State.OnlyJob; decide +kernel)

theorem witness_otherRecords :
    let tamper := programming ready (.tamper .cover) ⟨0, 7, ⟨none, none⟩, .tamper .cover 3⟩
    let counter := programming (keyed ready) (.counter 5) ⟨0, 7, ⟨none, none⟩, .counter 5 1 512 none⟩
    let lockRow : RowData := ⟨0, 7, ⟨some 0, none⟩, .authority 0 (ready.authority 0).record⟩
    let reclaim := copying (programming ready (.reclaimMark 7) ⟨0, 7, ⟨none, none⟩, .reclaim 7 9⟩) .running
    let fold := copying (programming (keyed ready) (.foldKey 5 1) ⟨0, 7, ⟨none, none⟩, keyRow.record⟩) .running
    let revoke := copying (programming ready (.foldRevoke 9) ⟨0, 7, ⟨none, none⟩, .revoke 9 0 3 none⟩) .running
    let x := laned .lockStore []
    let lock := programming (holding ready x) (.lock (some 0)) lockRow;
    (∀ s ∈ [tamper, programming ready .timeMark timeRow, counter, programming ready (.lock none) lockRow,
        programming ready .copyAsIs timeRow], (∀ j, s.job j = none) ∧ s.engine.lane = none ∧ s.store.reclaim = none ∧
      s.supply.activity = .active ∧ s.store.program.isSome = true) ∧
    ((∀ j, reclaim.job j = none) ∧ reclaim.store.reclaim = some ⟨7, .copy ⟨1, [5], 5, [], 0, .running⟩, false⟩) ∧
    ((∀ j, fold.job j = none) ∧ fold.engine.lane = none ∧ fold.store.retry = none ∧ fold.store.fault = false ∧
      ((fold.entry 5).locationOf 1).isSome = true) ∧
    ((∀ j, revoke.job j = none) ∧ revoke.engine.lane = none ∧
      revoke.store.reclaim = some ⟨7, .copy ⟨1, [5], 5, [], 0, .running⟩, false⟩) ∧
    (lock.OnlyJob 0 x ∧ lock.store.reclaim = none) := by
  unfold State.OnlyJob; decide +kernel

/-- A confirm by use in program for its CHECK, and one whose CHECK a warm reset aborted. -/
theorem witness_confirmRecords :
    let y := { job .check .confirmStore with gen := 2 }
    let s := (keyed ready).onEntry 5 fun e => { e with staged := some staged2 }
    let row : RowData := ⟨0, 99, ⟨some 0, none⟩, .confirm 5 2 0 9⟩
    let confirm := programming (holding s y) (.confirmByUse (some 0)) row
    let orphan := programming s (.confirmByUse none) row;
    (confirm.OnlyJob 0 y ∧ confirm.store.reclaim = none ∧ y.kind = .check ∧ y.handle = 5 ∧ y.step = .confirmStore ∧
      (confirm.entry 5).staged = some staged2 ∧ 99 < staged2.deadline) ∧
    ((∀ j, orphan.job j = none) ∧ orphan.engine.lane = none ∧ (orphan.entry 5).staged = some staged2) := by
  unfold State.OnlyJob; decide +kernel

/-- A SIGN that waits for the COUNTER mark in program. -/
theorem witness_counterRelease :
    let x := job .sign .counterWait
    let c := { gen1 with txNext := 256 }
    let s := programming (((holding (slotted (keyed ready) (.opened 5 1 allRights [1])) x).onSlot 2
      fun u => { u with list := [0] }).onEntry 5 fun e => { e with current := some c }) (.counter 5)
      ⟨0, 7, ⟨none, none⟩, .counter 5 1 512 none⟩;
    s.OnlyJob 0 x ∧ x.kind = .sign ∧ x.handle = 5 ∧ x.genField = 0 ∧ (s.slot x.slotNo).state = .opened 5 1 allRights [1] ∧
      (s.slot x.slotNo).list = [0] ∧ (∀ i, i ≠ x.slotNo → (s.slot i).list = []) ∧ s.engine.laneWaiting = [] ∧
      s.cipher.running = none ∧ (s.entry 5).current = some c ∧ c.txNext + 65 < 512 ∧ x.card.val < 16 ∧
      c.policy.signM = true ∧ x.option = false ∧ s.time.tt < c.expiry ∧ c.txNext < c.signLimit := by
  unfold State.OnlyJob; decide +kernel

/-- B1 to B7 FULL but for one ERASED bank: the KEY row of handle 5 in B1, 31 rows left in the HEAD (section 8.5). -/
def due : State :=
  (stored (keyed ready)).onStore fun t =>
    { t with banks := ((Vector.replicate 8 .full).set 0 .head).set 7 .erased, appendPos := 33, nextSeq := 1417 }

theorem witness_reclaims :
    (due.resetCtl.part = .ready ∧ due.resetCtl.warmReset = false ∧ due.supply.activity = .active ∧
      due.supply.power = .mains ∧ due.store.fault = false ∧ due.store.erasedRows = 95 ∧ due.store.reclaim = none ∧
      (∀ b : BankNo, due.store.banks[b] ≠ .needsErase ∧ due.store.banks[b] ≠ .erasing) ∧
      (1 : BankNo).val = 1 ∧ due.store.banks[(1 : BankNo)] = .full ∧ (validRowsOf due.store.array 1).length = 1) ∧
    96 ≤ ready.store.erasedRows ∧
    (∀ r ∈ [CopyRow.foldKey 5 1 [4], .foldRevoke 9, .asIs timeRow, .rewrite 0, .reclaimMark],
      (copying (nearlyFull (keyed ready) 13) (.ready r)).StoreRuns ∧
      (copying (nearlyFull (keyed ready) 13) (.ready r)).store.erasedRows = 13 ∧
      (copying (nearlyFull (keyed ready) 13) (.ready r)).recentStarts < 4) ∧
    (copying (nearlyFull ready 12) (.ready .reclaimMark)).store.erasedRows = 12 ∧
    (let s := copying (stored (keyed ready)) (.reading 5 1 (some ⟨1, 3⟩));
      rowAt s.store.array ⟨1, 3⟩ = .valid keyRow ∧ (∀ j, s.job j = none) ∧ s.store.program = none) := by
  unfold State.StoreRuns; decide +kernel

/-- The KEY row of handle 5 is live; its turn calls for the fold once. -/
theorem witness_rowsAreJudged :
    let s := stored (keyed ready)
    let r : PlacedRow := (⟨1, 3⟩, keyRow)
    let rows := countedRows s.store.array
    (∀ h, (s.entry h).Law) ∧ rows = [r] ∧ s.rowLive rows r = true ∧ s.rowTurn rows [] r = .fold 5 ∧
      s.rowTurn rows [5] r = .nothing ∧ (s.entry 5).presentGens s.time.tt = [1] ∧ highestSeqOf s.store.array 1 = 9 :=
  ⟨keyed_law, by decide +kernel⟩

theorem witness_erases :
    let e := ready.onStore fun t => { t with banks := (t.banks.set 6 .erasing).set 7 .erasing }
    let n := ready.onStore fun t => { t with banks := t.banks.set 7 .needsErase }
    let o := stored (ready.onStore fun t => { t with banks := t.banks.set 1 .erasing, erase := some 1 });
    (e.store.banks[(6 : BankNo)] = .erasing ∧ (∀ b' : BankNo, b' < 6 → e.store.banks[b'] ≠ .erasing) ∧
      e.readInFlight 6 = false ∧ e.recentStarts < 4 ∧ e.programReady = false) ∧
    (n.supply.power = .mains ∧ (∀ b' : BankNo, n.store.banks[b'] ≠ .erasing) ∧
      n.store.banks[(7 : BankNo)] = .needsErase) ∧
    4 ≤ (e.onStore fun t => { t with history := [0, 0, 0, 0] }).recentStarts ∧
    (o.store.erase = some 1 ∧ ((rowAt o.store.array ⟨1, 3⟩).after (([] : List RowResidue).getD 3 .blank)) = .blank ∧
      ((rowAt o.store.array ⟨1, 3⟩).after (([.blank, .blank, .blank, .kept] : List RowResidue).getD 3 .blank)) ≠ .blank) := by
  decide +kernel

/-! ### Time, tamper and supply -/

theorem witness_seconds :
    let s := ready.onTime fun b => { b with secondsDue := 1, creditsDue := 1, subCount := 63, tt := 21600 }
    0 < s.time.secondsDue ∧ 0 < s.time.creditsDue ∧ ready.time.secondsDue = 0 ∧ ready.time.creditsDue = 0 ∧
      s.resetCtl.part = .ready ∧ s.time.lastStamp + 21600 ≤ s.time.tt ∧ s.time.timeMark = .none ∧
      ¬ready.time.lastStamp + 21600 ≤ ready.time.tt ∧ s.store.fault = false ∧
      (s.onStore fun t => { t with fault := true }).store.fault = true := by decide +kernel

theorem witness_tamperLatch :
    let arm := fun s : State => s.onTamper fun t => { t with cover := ⟨⟨true, true, 255⟩, false, 0, .none, 255, some true⟩ }
    let locked : Policy := { allRights with tamperLock := true }
    let x := job .sign .signRun
    let s := arm ready
    let u := arm (holding ((slotted (keyed ready) (.opened 5 1 locked [1])).onSlot 2 fun v => { v with list := [0] }) x)
    (s.resetCtl.part = .ready ∧ (s.tamper.input .cover).setup.enabled = true ∧ (s.tamper.input .cover).latched = false ∧
      (s.tamper.input .cover).setup.debounce ≤ (s.tamper.input .cover).debounceCount) ∧ (∀ j, s.job j = none) ∧
    s.store.fault = false ∧ (s.onStore fun t => { t with fault := true }).store.fault = true ∧
    ((u.slot 2).state = .opened 5 1 locked [1] ∧ locked.tamperLock = true ∧ (u.slot 2).list = [0] ∧ u.OnlyJob 0 x ∧
      x.step.needsKey = true) := by
  unfold State.OnlyJob; decide +kernel

/-- A REVOKE of handle 5 ends while a SIGN waits for the core on slot 2, and while slot 2 opens. -/
theorem witness_revokeWipes :
    let x := laned .recordStore []
    let row : RowData := ⟨0, 50, ⟨some 0, some (1, 7)⟩, .revoke 5 0 1 (some .wanFrame)⟩
    let with_ := fun (y : Job) (u : SlotState) =>
      ((programming (inLane (slotted (keyed ready) u) x .empty) (.package (some 0)) row).setJob 1 (some y)).onSlot 2
        fun v => { v with list := [1] }
    let a := with_ (job .sign .signWait) (.opened 5 1 allRights [1])
    let b := with_ (job .openKey .opening) (.unwrapping 5 1 allRights [4])
    ∀ s ∈ [a, b], s.store.program.isSome = true ∧ s.store.reclaim = none ∧ s.job 0 = some x ∧ x.kind = .package ∧
      x.step = .recordStore ∧ s.engine.lane = some 0 ∧ s.engine.laneWaiting = [] ∧ (s.job 1).isSome = true ∧
      (∀ i, i ≠ 0 → i ≠ 1 → s.job i = none) ∧ (s.slot 2).list = [1] ∧ (∀ i, i ≠ 2 → (s.slot i).list = []) ∧
      (s.slot 2).state ≠ .empty := by
  decide +kernel

/-- COVER is to latch: slot 2 holds a TAMPER_LOCK key, a CHECK that waits for its confirm record in front, then a SIGN, then a
CLOSE. -/
theorem witness_latchWipes :
    let locked : Policy := { allRights with tamperLock := true }
    let s := ((((holding (slotted (keyed ready) (.opened 5 1 locked [1])) (job .check .confirmStore)).setJob 1
      (some (job .sign .slotQueue))).setJob 2 (some (job .closeSlot .slotQueue))).onSlot 2
        fun u => { u with list := [0, 1, 2] }).onTamper fun t =>
          { t with cover := ⟨⟨true, true, 3⟩, false, 0, .none, 3, some true⟩ }
    s.resetCtl.part = .ready ∧ s.latchDue .cover = true ∧ (s.slot 2).list = [0] ++ ([1] ++ [2]) ∧ (s.slot 2).list.Nodup ∧
      (∀ k, k ≠ 2 → (s.slot k).list = []) ∧ s.engine.lane = none ∧ s.engine.laneWaiting = [] ∧
      (∀ j, (s.job j).isSome = true → j ∈ (s.slot 2).list) ∧ s.job 0 = some (job .check .confirmStore) ∧
      s.job 1 = some (job .sign .slotQueue) ∧ s.job 2 = some (job .closeSlot .slotQueue) := by
  decide +kernel

theorem witness_power :
    let s := ready.onSupply fun p => { p with disagree := 4, powerSet := true }
    let e := s.onStore fun t => { t with banks := t.banks.set 1 .erasing, erase := some 1 }
    4 ≤ s.supply.disagree ∧ s.supply.power = .mains ∧ e.store.erase = some 1 ∧
      (s.onSupply fun p => { p with power := .reserve }).supply.power = .reserve ∧ ready.supply.disagree < 4 ∧
      ready.supply.powerSet = false ∧
      (ready.onSupply fun p => { p with firstSamples := [false, false, false, true] }).supply.firstSamples.length = 4 ∧
      (ready.onSupply fun p => { p with firstSamples := [false, false, false, false] }).supply.firstSamples.length = 4 ∧
      ready.supply.power = .mains := by
  decide +kernel

theorem witness_standby :
    let s := (ready.onPort fun p => { p with control := 2 }).onSupply fun p => { p with standbyCount := 64 }
    let d := s.onSupply fun p => { p with activity := .standby, levelChanged := true }
    s.resetCtl.part = .ready ∧ s.supply.activity = .active ∧ s.AtRest ∧ 64 ≤ s.supply.standbyCount ∧
      ready.port.control.getLsbD 1 = false ∧ d.supply.levelChanged = true ∧ d.supply.activity = .standby := by
  unfold State.AtRest; decide +kernel

end Sys2Proof.Tests
end

/-!
PROOFS of the exchange memory's statements. First the facts about the shared data: a vector read at an index of its own
range after a store, and a single bit of a map.
-/

namespace Sys2Proof.Machine

open Sys2Proof

/-! ## Vectors and bits -/

/-- A vector read at a `Fin` index after a store at another, or at the same one. -/
theorem getElem_set_fin {α : Type} {n : Nat} (v : Vector α n) (i j : Fin n) (x : α) :
    (v.set i x)[j] = if i = j then x else v[j] := by
  simp only [Fin.getElem_fin, Vector.getElem_set, Fin.ext_iff]

/-- The map that holds bit `n` alone. -/
theorem getLsbD_single (n m : CardNo) : ((1 : BitVec 32) <<< n.val).getLsbD m.val = decide (m = n) := by
  have hone : (1 : BitVec 32).getLsbD (m.val - n.val) = decide (m.val - n.val = 0) := by simp
  rw [BitVec.getLsbD_shiftLeft, hone, Bool.eq_iff_iff]
  simp only [Bool.and_eq_true, Bool.not_eq_true', decide_eq_true_eq, decide_eq_false_iff_not, Fin.ext_iff]
  omega

theorem getLsbD_or_single (v : BitVec 32) (n m : CardNo) :
    (v ||| ((1 <<< n.val : Nat) : BitVec 32)).getLsbD m.val = (decide (m = n) || v.getLsbD m.val) := by
  have hn : (1 : BitVec 32) <<< n.val = ((1 <<< n.val : Nat) : BitVec 32) := by
    apply BitVec.eq_of_toNat_eq
    simp [BitVec.toNat_shiftLeft]
  rw [BitVec.getLsbD_or, ← hn, getLsbD_single, Bool.or_comm]

theorem getLsbD_and_not_single (v : BitVec 32) (n m : CardNo) :
    (v &&& ~~~((1 : BitVec 32) <<< n.val)).getLsbD m.val = (v.getLsbD m.val && !decide (m = n)) := by
  rw [BitVec.getLsbD_and, BitVec.getLsbD_not, getLsbD_single, decide_eq_true m.isLt, Bool.true_and]

/-! ## The laws of the exchange, on the port and the job records -/

/-- The laws of R9, R13 and R27 of a port and six job records. -/
structure Port.LawWith (p : Port) (js : Vector (Option Job) 6) : Prop where
  nodup : p.arrival.Nodup
  posted : ∀ n : CardNo, n ∈ p.arrival ↔ p.cards[n] = .posted
  done : ∀ n : CardNo, p.doneMap.getLsbD n.val = true → p.cards[n] = .done
  taken : ∀ n : CardNo, p.cards[n] = .taken ↔ ∃ (j : JobId) (x : Job), js[j] = some x ∧ x.card = n
  one : ∀ (j j' : JobId) (x x' : Job), js[j] = some x → js[j'] = some x' → x.card = x'.card → j = j'

theorem exchangeLaw_iff (s : State) : s.ExchangeLaw ↔ s.port.LawWith s.engine.jobs :=
  ⟨fun ⟨⟨h1, h2⟩, h3, h4, h5⟩ => ⟨h1, h2, h3, h4, h5⟩, fun ⟨h1, h2, h3, h4, h5⟩ => ⟨⟨h1, h2⟩, h3, h4, h5⟩⟩

/-- The law depends on the cards, the arrival list and the done map alone. -/
theorem Port.LawWith.congr {p q : Port} {js : Vector (Option Job) 6} (h : p.LawWith js) (hc : q.cards = p.cards)
    (ha : q.arrival = p.arrival) (hd : q.doneMap = p.doneMap) : q.LawWith js := by
  obtain ⟨h1, h2, h3, h4, h5⟩ := h
  exact ⟨ha ▸ h1, by rw [ha, hc]; exact h2, by rw [hd, hc]; exact h3, by rw [hc]; exact h4, h5⟩

/-- A job's card is TAKEN. -/
theorem Port.LawWith.card_taken {p : Port} {js : Vector (Option Job) 6} (h : p.LawWith js) {j : JobId} {x : Job}
    (hx : js[j] = some x) : p.cards[x.card] = .taken := (h.taken _).mpr ⟨j, x, hx, rfl⟩

/-- A record whose job is edited holds its card as before. -/
theorem Port.LawWith.edit {p : Port} {js : Vector (Option Job) 6} (h : p.LawWith js) (j : JobId) (f : Job → Job)
    (hf : ∀ x, (f x).card = x.card) : p.LawWith (js.set j (js[j].map f)) := by
  have holds : ∀ (i : JobId) (n : CardNo), (∃ x, (js.set j (js[j].map f))[i] = some x ∧ x.card = n) ↔
      ∃ x, js[i] = some x ∧ x.card = n := by
    intro i n
    rw [getElem_set_fin]
    split
    next hi => subst hi; simp [hf]
    next => rfl
  refine ⟨h.nodup, h.posted, h.done, fun n => ?_, fun i i' x x' hx hx' e => ?_⟩
  · simp only [holds, h.taken]
  · obtain ⟨y, hy, hyc⟩ := (holds i x.card).mp ⟨x, hx, rfl⟩
    obtain ⟨y', hy', hyc'⟩ := (holds i' x'.card).mp ⟨x', hx', rfl⟩
    exact h.one i i' y y' hy hy' (by rw [hyc, hyc', e])

/-- A completed card is DONE, and its record is free (R10, R34). -/
theorem Port.LawWith.finish {p : Port} {js : Vector (Option Job) 6} (h : p.LawWith js) {j : JobId} {x : Job}
    (hx : js[j] = some x) (fields : List (Nat × Nat)) (notify : Bool) (status : Status) (notes event : BitVec 16)
    (values : List Nat) (outputAt : Nat) (output : List Byte) :
    (p.completed x.card fields notify status notes event values outputAt output).LawWith (js.set j none) := by
  have hc := h.card_taken hx
  refine ⟨h.nodup, fun n => ?_, fun n hn => ?_, fun n => ?_, fun i i' y y' hy hy' e => ?_⟩
  · have hp := h.posted n
    simp only [Port.completed, getElem_set_fin]
    split
    next e => subst e; simp [hp, hc]
    next => exact hp
  · have hd := h.done n
    simp only [Port.completed, getElem_set_fin] at hn ⊢
    split
    next => rfl
    next e =>
      refine hd ?_
      split at hn
      · rw [getLsbD_or_single] at hn
        simpa [Ne.symm e] using hn
      · exact hn
  · have ht := h.taken n
    simp only [Port.completed, getElem_set_fin]
    split
    next e =>
      subst e
      simp only [reduceCtorEq, false_iff, not_exists, not_and]
      intro i y hy hyc
      split at hy
      · cases hy
      next hij => exact hij (h.one _ _ _ _ hx hy hyc.symm)
    next e =>
      rw [ht]
      constructor
      · rintro ⟨i, y, hy, rfl⟩
        refine ⟨i, y, ?_, rfl⟩
        rw [if_neg]
        · exact hy
        · rintro rfl
          rw [hx] at hy
          exact e (congrArg Job.card (Option.some.inj hy))
      · rintro ⟨i, y, hy, rfl⟩
        split at hy
        · cases hy
        · exact ⟨i, y, hy, rfl⟩
  · rw [getElem_set_fin] at hy hy'
    split at hy
    · cases hy
    split at hy'
    · cases hy'
    exact h.one i i' y y' hy hy' e

/-- What intake does to a POSTED card: it leaves the arrival list and becomes TAKEN (R27). -/
theorem Port.LawWith.take {p : Port} {js : Vector (Option Job) 6} (h : p.LawWith js) {n : CardNo} (hn : n ∈ p.arrival)
    {j : JobId} (hj : js[j] = none) {x : Job} (hx : x.card = n) : (p.take n).LawWith (js.set j (some x)) := by
  have hc := (h.posted n).mp hn
  have fresh : ∀ (i : JobId) (y : Job), js[i] = some y → y.card ≠ n := by
    rintro i y hy rfl
    rw [h.card_taken hy] at hc
    cases hc
  refine ⟨h.nodup.filter _, fun m => ?_, fun m hm => ?_, fun m => ?_, fun i i' y y' hy hy' e => ?_⟩
  · have hp := h.posted m
    simp only [Port.take, getElem_set_fin, List.mem_filter, bne_iff_ne]
    split
    next e => subst e; simp
    next e => simp [hp, Ne.symm e]
  · have hd := h.done m hm
    simp only [Port.take, getElem_set_fin]
    split
    next e =>
      subst e
      rw [hd] at hc
      cases hc
    next => exact hd
  · have ht := h.taken m
    simp only [Port.take, getElem_set_fin]
    split
    next e =>
      subst e
      simp only [true_iff]
      exact ⟨j, x, by rw [if_pos rfl], hx⟩
    next e =>
      rw [ht]
      constructor
      · rintro ⟨i, y, hy, hyc⟩
        refine ⟨i, y, ?_, hyc⟩
        rw [if_neg]
        · exact hy
        · rintro rfl
          rw [hj] at hy
          cases hy
      · rintro ⟨i, y, hy, hyc⟩
        split at hy
        · obtain rfl := Option.some.inj hy
          exact absurd (hx.symm.trans hyc) e
        · exact ⟨i, y, hy, hyc⟩
  · rw [getElem_set_fin] at hy hy'
    split at hy
    · obtain rfl := Option.some.inj hy
      split at hy'
      · simp_all
      · exact absurd (e.symm.trans hx) (fresh _ _ hy')
    · split at hy'
      · obtain rfl := Option.some.inj hy'
        exact absurd (e.trans hx) (fresh _ _ hy)
      · exact h.one i i' y y' hy hy' e

/-- A card that no record holds goes to a state of the host's choice, with the arrival list and the done map to match
(R7, R9, R11, R28). -/
theorem Port.LawWith.setCard {p q : Port} {js : Vector (Option Job) 6} (h : p.LawWith js) {n : CardNo} {c : CardState}
    (hn : p.cards[n] ≠ .taken) (hc : c ≠ .taken) (hq : q.cards = p.cards.set n c) (hnodup : q.arrival.Nodup)
    (hself : n ∈ q.arrival ↔ c = .posted) (hothers : ∀ m, m ≠ n → (m ∈ q.arrival ↔ m ∈ p.arrival))
    (hdone : q.doneMap.getLsbD n.val = true → c = .done)
    (hbits : ∀ m : CardNo, m ≠ n → q.doneMap.getLsbD m.val = p.doneMap.getLsbD m.val) : q.LawWith js := by
  refine ⟨hnodup, fun m => ?_, fun m hm => ?_, fun m => ?_, h.one⟩
  · rw [hq, getElem_set_fin]
    split
    next e => subst e; exact hself
    next e => rw [hothers m (Ne.symm e)]; exact h.posted m
  · rw [hq, getElem_set_fin]
    split
    next e => subst e; exact hdone hm
    next e => exact h.done m (hbits m (Ne.symm e) ▸ hm)
  · rw [hq, getElem_set_fin]
    split
    next e =>
      subst e
      rw [← h.taken n]
      exact iff_of_false hc hn
    next => exact h.taken m

/-- A bit of the done map is clear while its card is not DONE. -/
theorem Port.LawWith.bit_clear {p : Port} {js : Vector (Option Job) 6} (h : p.LawWith js) {n : CardNo}
    (hn : p.cards[n] ≠ .done) : p.doneMap.getLsbD n.val ≠ true := fun e => hn (h.done n e)

theorem Port.LawWith.post {p : Port} {js : Vector (Option Job) 6} (h : p.LawWith js) {n : CardNo}
    (hn : p.cards[n] = .free) : (p.post n).LawWith js := by
  have hout : n ∉ p.arrival := by rw [h.posted n, hn]; simp
  refine h.setCard (c := .posted) (n := n) (by simp [hn]) (by simp) rfl ?_ (by simp [Port.post])
    (fun m hm => by simp [Port.post, hm]) (fun e => absurd e (h.bit_clear (by simp [hn]))) fun _ _ => rfl
  simp only [Port.post]
  exact List.Nodup.append h.nodup (List.nodup_singleton n) (by simpa using hout)

theorem Port.LawWith.withdraw {p : Port} {js : Vector (Option Job) 6} (h : p.LawWith js) {n : CardNo}
    (hn : p.cards[n] = .posted) : (p.withdraw n).LawWith js :=
  h.setCard (c := .free) (n := n) (by simp [hn]) (by simp) rfl (h.nodup.filter _) (by simp [Port.withdraw])
    (fun m hm => by simp [Port.withdraw, hm]) (fun e => absurd e (h.bit_clear (by simp [hn]))) fun _ _ => rfl

theorem Port.LawWith.giveBack {p : Port} {js : Vector (Option Job) 6} (h : p.LawWith js) {n : CardNo}
    (hn : p.cards[n] = .done) : (p.giveBack n).LawWith js := by
  have hout : n ∉ p.arrival := by rw [h.posted n, hn]; simp
  exact h.setCard (c := .free) (n := n) (by simp [hn]) (by simp) rfl h.nodup (by simpa [Port.giveBack] using hout)
    (fun _ _ => Iff.rfl) (fun e => by rw [Port.giveBack, getLsbD_and_not_single] at e; simp at e)
    fun m hm => by rw [Port.giveBack, getLsbD_and_not_single]; simp [hm]

theorem Port.LawWith.refuse {p : Port} {js : Vector (Option Job) 6} (h : p.LawWith js) {n : CardNo} (hn : n ∈ p.arrival)
    (notify : Bool) : ((p.take n).completed n [] notify .kindUnknown 0 0 [] 0 []).LawWith js := by
  have hc := (h.posted n).mp hn
  refine h.setCard (c := .done) (n := n) (by simp [hc]) (by simp) ?_ (h.nodup.filter _) (by simp [Port.completed, Port.take])
    (fun m hm => by simp [Port.completed, Port.take, hm]) (fun _ => rfl) fun m hm => ?_
  · simp [Port.completed, Port.take, Vector.set_set]
  · simp only [Port.completed, Port.take]
    split
    · rw [getLsbD_or_single]; simp [hm]
    · rfl

/-- The list rebuilt at a warm reset holds the POSTED cards (R9). -/
theorem Port.LawWith.rebuild {p : Port} {js : Vector (Option Job) 6} (h : p.LawWith js) :
    Port.LawWith { p with arrival := p.postedCards } js :=
  ⟨List.Nodup.filter (fun n : CardNo => decide (p.cards[n] = .posted)) (List.nodup_finRange 32),
    fun n => by simp [Port.postedCards, List.mem_filter], h.done, h.taken, h.one⟩

/-- A byte stored leaves the cards, the arrival list and the done map. -/
theorem storeByte_stands (p : Port) (a : Nat) (v : Byte) : (p.storeByte a v).cards = p.cards ∧
    (p.storeByte a v).arrival = p.arrival ∧ (p.storeByte a v).doneMap = p.doneMap := by
  unfold Port.storeByte
  repeat' split
  all_goals exact ⟨rfl, rfl, rfl⟩

/-- A move of the service keeps the laws. -/
theorem WorkMove.keeps_law {a b : Work} (k : WorkMove a b) (h : a.1.LawWith a.2) : b.1.LawWith b.2 := by
  cases k with
  | edit p js j f hf => exact h.edit j f fun x => (hf x).1
  | finish p js j x hx => exact h.finish hx _ _ _ _ _ _ _ _
  | alert p js bits => exact h.congr rfl rfl rfl

/-- A move of a command keeps the laws. -/
theorem PartMove.keeps_law {a b : Work} (k : PartMove a b) (h : a.1.LawWith a.2) : b.1.LawWith b.2 := by
  cases k with
  | service k => exact k.keeps_law h
  | take p js n j x hn hj hx => exact h.take hn hj hx
  | refuse p js n hn notify => exact h.refuse hn notify
  | post p js n hn => exact h.post hn
  | withdraw p js n hn => exact h.withdraw hn
  | giveBack p js n hn => exact h.giveBack hn
  | store p js a v =>
    obtain ⟨hc, ha, hd⟩ := storeByte_stands p a v
    exact h.congr hc ha hd
  | shown p js f bits => exact h.congr rfl rfl rfl
  | windows p js w => exact h.congr rfl rfl rfl
  | rebuild p js => exact h.rebuild
  | aborted p js j x hx => exact h.finish hx _ _ _ _ _ _ _ _

theorem PartMoves.keeps_law {a b : Work} (k : PartMoves a b) (h : a.1.LawWith a.2) : b.1.LawWith b.2 := by
  induction k with
  | refl => exact h
  | tail _ m ih => exact m.keeps_law ih

/-! ## The two commands beyond `Stepped` -/

/-- The laws of a part after the arrival of a cold start. -/
theorem cold_law (cause : ResetCause) (a : RowArray) (pending : List Instr) (draws : Nat) :
    (State.cold cause a pending draws).port.LawWith (State.cold cause a pending draws).engine.jobs where
  nodup := List.nodup_nil
  posted := by simp [State.cold, Port.cold]
  done := by simp [State.cold, Port.cold]
  taken := by simp [State.cold, Port.cold]
  one := by simp [State.cold]

/-- The replay of a row leaves the port and the engine. -/
theorem replayRow_blocks (s : State) (r : PlacedRow) : (s.replayRow r).port = s.port ∧
    (s.replayRow r).engine = s.engine ∧ (s.replayRow r).store = s.store := by
  have hauth : ∀ (l : List AuthNo) (u : State),
      (l.foldl (fun s k => s.onAuthority k fun a => a.replay k r.2) u).port = u.port ∧
      (l.foldl (fun s k => s.onAuthority k fun a => a.replay k r.2) u).engine = u.engine ∧
      (l.foldl (fun s k => s.onAuthority k fun a => a.replay k r.2) u).store = u.store := by
    intro l
    induction l with
    | nil => exact fun _ => ⟨rfl, rfl, rfl⟩
    | cons k l ih => exact fun u => ih _
  unfold State.replayRow
  dsimp only
  split <;> split <;> simp [hauth]

theorem rebuilt_blocks (s : State) : s.rebuilt.port = s.port ∧ s.rebuilt.engine = s.engine := by
  have h : ∀ (l : List PlacedRow) (u : State), (l.foldl State.replayRow u).port = u.port ∧
      (l.foldl State.replayRow u).engine = u.engine := by
    intro l
    induction l with
    | nil => exact fun _ => ⟨rfl, rfl⟩
    | cons r l ih =>
      intro u
      obtain ⟨hp, he, -⟩ := replayRow_blocks u r
      exact ⟨(ih _).1.trans hp, (ih _).2.trans he⟩
  exact h (sortBySeq (countedRows s.store.array)) s

/-- What a command does to the port and the job records: the moves of `PartMove`, and at a cold start a fresh port. -/
theorem exec_moves_or_cold (c : Instr) (s t : State) (h : exec c s = .next t) :
    PartMoves s.work t.work ∨ ∃ cause a pending draws, t = State.cold cause a pending draws := by
  by_cases hc : ∃ a b, c = .coldStart a b
  · obtain ⟨a, b, rfl⟩ := hc
    obtain rfl := Host.Outcome.next.inj h
    exact .inr ⟨_, _, _, _, rfl⟩
  · by_cases hs : c = .scanEnd
    · subst hs
      obtain rfl := Host.Outcome.next.inj h
      left
      split
      · obtain ⟨hp, he⟩ := rebuilt_blocks s
        have hw : s.rebuilt.work = s.work := by rw [State.work, State.work, hp, he]
        rw [← hw]
        exact .single (.shown _ _ _ _)
      · exact .refl
    · exact .inl (stepped_exec c (fun a b e => hc ⟨a, b, e⟩) hs s t h).moves

/-- A property of the port and the job records that holds after a cold start, and that every move keeps, is kept by every
step. -/
theorem step_keeps (P : Work → Prop) (hcold : ∀ cause a pending draws, P (State.cold cause a pending draws).work)
    (hmove : ∀ a b, PartMove a b → P a → P b) (s t : State) (h : P s.work) (hst : step s = .next t) : P t.work := by
  unfold step at hst
  split at hst
  · obtain rfl := Host.Outcome.next.inj hst
    exact h
  next c rest _ =>
    rcases exec_moves_or_cold c _ t hst with hm | ⟨_, _, _, _, rfl⟩
    · exact Relation.ReflTransGen.head_induction_on (motive := fun a _ => P a → P t.work) hm id
        (fun m _ ih hp => ih (hmove _ _ m hp)) h
    · exact hcold _ _ _ _

/-- Settles O2: the laws are an invariant of the moves of `PartMove`, and hold after a cold start. -/
theorem exchangeLawIsKept : Obligations.ExchangeLawIsKept := by
  unfold Obligations.ExchangeLawIsKept
  intro s t h hst
  rw [exchangeLaw_iff] at h ⊢
  exact step_keeps (fun w => w.1.LawWith w.2) cold_law (fun _ _ m => m.keeps_law) s t h hst

/-! ## The form of the memory -/

/-- The canonical form of the memory, and CONTROL's unused bits at 0, of a port (R3, R19). -/
def Port.Canonical (p : Port) : Prop := Memory.wf p.memory = true ∧ p.control &&& ~~~controlMask = 0

theorem Port.Canonical.completed {p : Port} (h : p.Canonical) (n : CardNo) (fields : List (Nat × Nat)) (notify : Bool)
    (status : Status) (notes event : BitVec 16) (values : List Nat) (outputAt : Nat) (output : List Byte) :
    (p.completed n fields notify status notes event values outputAt output).Canonical :=
  ⟨completionMemory_wf n fields status notes values outputAt output h.1, h.2⟩

theorem Port.Canonical.storeByte {p : Port} (h : p.Canonical) (a : Nat) (v : Byte) : (p.storeByte a v).Canonical := by
  unfold Port.storeByte
  split
  · split
    · exact h
    · exact ⟨Memory.wf_write a v h.1, h.2⟩
  · split
    · exact h
    · split
      · exact ⟨h.1, by simp [BitVec.and_assoc]⟩
      · repeat' split
        all_goals exact h

theorem PartMove.keeps_canonical {a b : Work} (k : PartMove a b) (h : a.1.Canonical) : b.1.Canonical := by
  cases k with
  | service k =>
    cases k with
    | edit => exact h
    | finish => exact h.completed _ _ _ _ _ _ _ _ _
    | alert => exact h
  | store p js a v => exact h.storeByte a v
  | refuse p js n hn notify => exact Port.Canonical.completed (p := p.take n) h _ _ _ _ _ _ _ _ _
  | aborted => exact h.completed _ _ _ _ _ _ _ _ _
  | take | post | withdraw | giveBack | shown | windows | rebuild => exact h

/-- Settles O3: every move of `PartMove` keeps the form, and it holds after a cold start. -/
theorem memoryLawIsKept : Obligations.MemoryLawIsKept := by
  unfold Obligations.MemoryLawIsKept
  intro s t h hst
  have hcold : ∀ cause a pending draws, (State.cold cause a pending draws).work.1.Canonical := fun _ _ _ _ =>
    ⟨rfl, BitVec.zero_and⟩
  exact step_keeps (fun w => w.1.Canonical) hcold (fun _ _ m => m.keeps_canonical) s t h hst

end Sys2Proof.Machine


/-! PROOFS about host writes: what a transaction stores, which state bytes it judges, and when it starts a warm reset. -/

namespace Sys2Proof.Machine

open Sys2Proof

/-! ## Bytes of registers -/

/-- A bit of a word after one of its four bytes is replaced. -/
theorem getLsbD_setByte32 (v : BitVec 32) (i : Nat) (x : Byte) (b : Nat) (hb : b < 32) :
    (setByte32 v i x).getLsbD b = if 8 * i ≤ b ∧ b < 8 * i + 8 then x.getLsbD (b - 8 * i) else v.getLsbD b := by
  have hmask : (255 : BitVec 32).getLsbD (b - 8 * i) = decide (b - 8 * i < 8) := by
    have h : ∀ k < 32, (255 : BitVec 32).getLsbD k = decide (k < 8) := by decide
    exact h _ (by omega)
  unfold setByte32
  simp only [BitVec.getLsbD_or, BitVec.getLsbD_and, BitVec.getLsbD_not, BitVec.getLsbD_shiftLeft, hmask,
    BitVec.getLsbD_setWidth, hb, decide_true, Bool.true_and]
  by_cases hlow : b < 8 * i
  · simp [hlow, show ¬8 * i ≤ b by omega]
  · by_cases hhigh : b - 8 * i < 8
    · simp [hlow, hhigh, show 8 * i ≤ b ∧ b < 8 * i + 8 by omega, show b - 8 * i < 32 by omega]
    · simp [hlow, hhigh, show ¬(8 * i ≤ b ∧ b < 8 * i + 8) by omega, BitVec.getLsbD_of_ge x (b - 8 * i) (by omega)]

/-- The bits of CONTROL that carry a setting (R19). -/
theorem getLsbD_controlMask : ∀ b, b < 32 → controlMask.getLsbD b = decide (b = 0 ∨ b = 1 ∨ 16 ≤ b) := by decide

/-! ## What a byte of a transaction does -/

theorem storeByte_memory (p : Port) {a : Nat} (v : Byte) (ha : a < 0x3E00) (hs : isStateByte a = false) :
    p.storeByte a v = { p with memory := Memory.write p.memory a v } := by
  rw [Port.storeByte, if_pos ha, hs]
  rfl

theorem storeByte_stateByte (p : Port) {a : Nat} (v : Byte) (hs : isStateByte a = true) : p.storeByte a v = p := by
  have ha : a < 0x2000 := by
    rw [isStateByte, Bool.and_eq_true] at hs
    exact of_decide_eq_true hs.1
  rw [Port.storeByte, if_pos (by omega), hs]
  rfl

theorem storeByte_page (p : Port) {a : Nat} (v : Byte) (ha : 0x3E00 ≤ a) (ha' : a < 0x4004) : p.storeByte a v = p := by
  rw [Port.storeByte, if_neg (by omega), if_pos ha']

theorem storeByte_control (p : Port) {a : Nat} (v : Byte) (ha : 0x4004 ≤ a) (ha' : a < 0x4008) :
    p.storeByte a v = { p with control := setByte32 p.control (a - 0x4004) v &&& controlMask } := by
  rw [Port.storeByte, if_neg (by omega), if_neg (by omega), if_pos ha']

theorem storeByte_beyond (p : Port) {a : Nat} (v : Byte) (ha : 0x400A ≤ a) : p.storeByte a v = p := by
  rw [Port.storeByte, if_neg (by omega), if_neg (by omega), if_neg (by omega), if_neg (by omega), if_neg (by omega)]

theorem isStateByte_false {a : Nat} (h : ¬(a < 0x2000 ∧ a % 256 = 0)) : isStateByte a = false := by
  simpa [isStateByte] using h

theorem isStateByte_iff (a : Nat) : isStateByte a = true ↔ ∃ n : CardNo, a = cardBase n := by
  simp only [isStateByte, Bool.and_eq_true, decide_eq_true_eq, cardBase]
  exact ⟨fun h => ⟨⟨a / 256, by omega⟩, by simp only; omega⟩, fun ⟨n, hn⟩ => by omega⟩

@[simp] theorem cardAt_cardBase (n : CardNo) : cardAt (cardBase n) = n := by
  simp [cardAt, cardBase, Fin.ext_iff, Fin.ofNat]

theorem isStateByte_cardBase (n : CardNo) : isStateByte (cardBase n) = true := (isStateByte_iff _).mpr ⟨n, rfl⟩

theorem cardBase_injective {n m : CardNo} (h : cardBase n = cardBase m) : n = m := by
  rw [← cardAt_cardBase n, h, cardAt_cardBase]

/-! ## What a transaction stores -/

/-- A transaction that covers no state byte and ends below the registers stores the bytes below the status page (R1). -/
theorem storeBytes_memory (p : Port) (a : Nat) (bytes : List Byte) (hlen : a + bytes.length ≤ 0x4004)
    (hs : ∀ k, k < bytes.length → isStateByte (a + k) = false) :
    p.storeBytes a bytes = { p with memory := Memory.writeBytes p.memory a (bytes.take (0x3E00 - a)) } := by
  induction bytes generalizing p a with
  | nil => rw [List.take_nil]; rfl
  | cons v vs ih =>
    rw [List.length_cons] at hlen
    have htail : ∀ k, k < vs.length → isStateByte (a + 1 + k) = false := fun k hk => by
      rw [Nat.add_assoc, Nat.add_comm 1 k]
      exact hs (k + 1) (by simpa using hk)
    rw [Port.storeBytes, ih _ (a + 1) (by omega) htail]
    by_cases ha : a < 0x3E00
    · rw [storeByte_memory p v ha (hs 0 (by simp)), show 0x3E00 - a = (0x3E00 - (a + 1)) + 1 by omega, List.take_succ_cons]
      rfl
    · rw [storeByte_page p v (by omega) (by omega), show 0x3E00 - a = 0 by omega, show 0x3E00 - (a + 1) = 0 by omega,
        List.take_zero, List.take_zero]
      rfl

/-- A transaction over offsets whose bytes are discarded stores nothing. -/
theorem storeBytes_discarded (p : Port) (a : Nat) (bytes : List Byte)
    (h : ∀ k, k < bytes.length → discardedOffset (a + k) = true) : p.storeBytes a bytes = p := by
  induction bytes generalizing a with
  | nil => rfl
  | cons v vs ih =>
    have ha := h 0 (by simp)
    have hstore : p.storeByte a v = p := by
      simp only [discardedOffset, Bool.or_eq_true, Bool.and_eq_true, decide_eq_true_eq] at ha
      rcases ha with ha | ha
      · exact storeByte_page p v (by omega) (by omega)
      · exact storeByte_beyond p v (by omega)
    rw [Port.storeBytes, hstore]
    refine ih (a + 1) fun k hk => ?_
    rw [Nat.add_assoc, Nat.add_comm 1 k]
    exact h (k + 1) (by simpa using hk)

/-- A transaction within CONTROL stores the setting bits that it covers, and clears the unused ones (R19). -/
theorem storeBytes_control (p : Port) (start : Nat) (bytes : List Byte) (hlen : start + bytes.length ≤ 4) :
    ∃ c : BitVec 32, p.storeBytes (0x4004 + start) bytes = { p with control := c } ∧
      ∀ b, b < 32 → c.getLsbD b = ((decide (bytes = []) || decide (b = 0 ∨ b = 1 ∨ 16 ≤ b)) &&
        if 8 * start ≤ b ∧ b < 8 * (start + bytes.length) then (bytes.getD (b / 8 - start) 0).getLsbD (b % 8)
        else p.control.getLsbD b) := by
  induction bytes generalizing p start with
  | nil => exact ⟨p.control, rfl, fun b _ => by simp [show ¬(8 * start ≤ b ∧ b < 8 * start) by omega]⟩
  | cons v vs ih =>
    rw [List.length_cons] at hlen
    obtain ⟨c, hc, hbits⟩ := ih (p.storeByte (0x4004 + start) v) (start + 1) (by omega)
    rw [storeByte_control p v (by omega) (by omega)] at hc hbits
    refine ⟨c, ?_, fun b hb => ?_⟩
    · rw [Port.storeBytes, storeByte_control p v (by omega) (by omega)]
      exact hc
    · rw [hbits b hb, BitVec.getLsbD_and, getLsbD_controlMask b hb, getLsbD_setByte32 _ _ _ b hb,
        show 0x4004 + start - 0x4004 = start by omega, List.length_cons]
      by_cases hin : 8 * (start + 1) ≤ b ∧ b < 8 * (start + 1 + vs.length)
      · rw [if_pos hin, if_pos (by omega), show b / 8 - start = (b / 8 - (start + 1)) + 1 by omega, List.getD_cons_succ]
        simp [show vs ≠ [] by rintro rfl; simp only [List.length_nil] at hin; omega]
      · rw [if_neg hin]
        by_cases hhere : 8 * start ≤ b ∧ b < 8 * start + 8
        · rw [if_pos hhere, if_pos (by omega), show b / 8 - start = 0 by omega, show b - 8 * start = b % 8 by omega]
          cases decide (b = 0 ∨ b = 1 ∨ 16 ≤ b) <;> simp
        · rw [if_neg hhere, if_neg (by omega)]
          cases decide (b = 0 ∨ b = 1 ∨ 16 ≤ b) <;> simp

/-- A byte of ALERT clears the bits written as 1; only its two lower bytes hold bits (R21). -/
theorem storeByte_alert (p : Port) (i : Nat) (v : Byte) (hi : i < 4) :
    ∃ x : BitVec 16, p.storeByte (0x4008 + i) v = { p with alert := x } ∧ ∀ b, b < 16 → x.getLsbD b =
      (p.alert.getLsbD b && !(decide (8 * i ≤ b ∧ b < 8 * (i + 1)) && v.getLsbD (b % 8))) := by
  by_cases h0 : i = 0
  · subst h0
    refine ⟨p.alert &&& ~~~(v.setWidth 16), rfl, fun b hb => ?_⟩
    simp only [BitVec.getLsbD_and, BitVec.getLsbD_not, BitVec.getLsbD_setWidth, hb, decide_true, Bool.true_and]
    by_cases h8 : b < 8
    · simp [h8, Nat.mod_eq_of_lt h8]
    · simp [h8, BitVec.getLsbD_of_ge v b (by omega)]
  · by_cases h1 : i = 1
    · subst h1
      refine ⟨p.alert &&& ~~~(v.setWidth 16 <<< 8), rfl, fun b hb => ?_⟩
      simp only [BitVec.getLsbD_and, BitVec.getLsbD_not, BitVec.getLsbD_shiftLeft, BitVec.getLsbD_setWidth, hb,
        decide_true, Bool.true_and]
      by_cases h8 : b < 8
      · simp [h8, show ¬8 ≤ b by omega]
      · simp [h8, show 8 ≤ b by omega, show b - 8 = b % 8 by omega, show b % 8 < 16 by omega, hb]
    · refine ⟨p.alert, by rw [storeByte_beyond p v (by omega)], fun b hb => ?_⟩
      simp [show ¬(8 * i ≤ b ∧ b < 8 * (i + 1)) by omega]

/-- A transaction within ALERT clears the bits that it writes as 1 (R21). -/
theorem storeBytes_alert (p : Port) (start : Nat) (bytes : List Byte) (hlen : start + bytes.length ≤ 4) :
    ∃ x : BitVec 16, p.storeBytes (0x4008 + start) bytes = { p with alert := x } ∧
      ∀ b, b < 16 → x.getLsbD b = (p.alert.getLsbD b && !(decide (8 * start ≤ b ∧ b < 8 * (start + bytes.length)) &&
        (bytes.getD (b / 8 - start) 0).getLsbD (b % 8))) := by
  induction bytes generalizing p start with
  | nil => exact ⟨p.alert, rfl, fun b _ => by simp⟩
  | cons v vs ih =>
    rw [List.length_cons] at hlen ⊢
    obtain ⟨y, hy, hybits⟩ := storeByte_alert p start v (by omega)
    obtain ⟨x, hx, hxbits⟩ := ih (p.storeByte (0x4008 + start) v) (start + 1) (by omega)
    rw [hy] at hx hxbits
    refine ⟨x, by rw [Port.storeBytes, hy]; exact hx, fun b hb => ?_⟩
    rw [hxbits b hb, hybits b hb]
    by_cases hin : 8 * (start + 1) ≤ b ∧ b < 8 * (start + 1 + vs.length)
    · simp [hin, show 8 * start ≤ b ∧ b < 8 * (start + (vs.length + 1)) by omega, show ¬b < 8 * (start + 1) by omega,
        show b / 8 - start = (b / 8 - (start + 1)) + 1 by omega]
    · rw [decide_eq_false hin]
      by_cases hhere : 8 * start ≤ b ∧ b < 8 * (start + 1)
      · simp [hhere, show b < 8 * (start + (vs.length + 1)) by omega, show b / 8 - start = 0 by omega]
      · simp [hhere, show ¬(8 * start ≤ b ∧ b < 8 * (start + (vs.length + 1))) by omega]

/-! ## What a transaction judges -/

/-- A transaction that covers no state byte judges none (R2). -/
theorem judgeBytes_of_no_stateByte (s : State) (a : Nat) (bytes : List Byte)
    (hs : ∀ k, k < bytes.length → isStateByte (a + k) = false) : s.judgeBytes a bytes = s := by
  induction bytes generalizing a with
  | nil => rfl
  | cons v vs ih =>
    have hhead : isStateByte a = false := hs 0 (by simp)
    rw [State.judgeBytes, hhead]
    refine ih (a + 1) fun k hk => ?_
    rw [Nat.add_assoc, Nat.add_comm 1 k]
    exact hs (k + 1) (by simpa using hk)

/-- A transaction that ends below 4004h, or begins beyond it, asks for no warm reset (R20). -/
theorem requestsSoftReset_of_not_covered {a : Nat} {bytes : List Byte} (h : a + bytes.length ≤ 0x4004 ∨ 0x4004 < a) :
    requestsSoftReset a bytes = false := by
  rcases h with h | h
  · have : byteAt bytes (0x4004 - a) = 0 := by
      rw [byteAt, List.getD_eq_default _ _ (by omega)]
    rw [requestsSoftReset, this]
    simp
  · rw [requestsSoftReset, decide_eq_false (by omega), Bool.false_and]

/-- A transaction that covers no state byte and asks for no warm reset does what it stores. -/
theorem hostWrite_stores (s : State) (a : Nat) (bytes : List Byte)
    (hs : ∀ k, k < bytes.length → isStateByte (a + k) = false) (hr : requestsSoftReset a bytes = false) :
    s.hostWrite a bytes = s.onPort fun p => p.storeBytes a bytes := by
  rw [State.hostWrite, judgeBytes_of_no_stateByte _ _ _ hs, hr]
  rfl

/-- An offset in the registers is no state byte. -/
theorem isStateByte_register {a : Nat} (ha : 0x2000 ≤ a) : isStateByte a = false := isStateByte_false (by omega)

/-- Settles O13: each row's transaction covers no state byte and asks for no warm reset, so it does what it stores. -/
theorem hostWritesToMemoryAndRegisters : Obligations.HostWritesToMemoryAndRegisters := by
  unfold Obligations.HostWritesToMemoryAndRegisters
  refine ⟨fun s a bytes hlen hs => ?_, fun s a bytes hok => ?_, fun s start bytes hok hlen => ?_,
    fun s start bytes _ hlen => ?_⟩
  · have hs' : ∀ k, k < bytes.length → isStateByte (a + k) = false := fun k hk => isStateByte_false (hs k hk)
    have hr := requestsSoftReset_of_not_covered (a := a) (bytes := bytes) (.inl (by omega))
    rw [exec, execHostMemoryWrite, hostWrite_stores s a bytes hs' hr, State.onPort,
      storeBytes_memory _ _ _ (by omega) hs']
  · simp only [discardedWriteOk, Bool.and_eq_true, List.all_eq_true, List.mem_range] at hok
    obtain ⟨hne, hd⟩ := hok
    have hoff : ∀ k, k < bytes.length → (0x4000 ≤ a + k ∧ a + k < 0x4004) ∨ 0x400C ≤ a + k := fun k hk => by
      simpa [discardedOffset] using hd k hk
    have hpos : 0 < bytes.length := by
      rw [List.length_pos_iff]
      rintro rfl
      simp at hne
    have h0 := hoff 0 hpos
    have hr : requestsSoftReset a bytes = false := by
      apply requestsSoftReset_of_not_covered
      by_contra hcov
      have := hoff (0x4004 - a) (by omega)
      omega
    rw [exec, execRegisterWriteDiscarded, hostWrite_stores s a bytes (fun k _ => isStateByte_register (by omega)) hr,
      State.onPort, storeBytes_discarded _ _ _ hd]
  · simp only [controlWriteOk, Bool.and_eq_true, Bool.not_eq_true', Bool.and_eq_false_iff, decide_eq_false_iff_not] at hok
    obtain ⟨hne, hbit⟩ := hok
    have hr : requestsSoftReset (0x4004 + start.val) bytes = false := by
      by_cases h0 : start.val = 0
      · have h7 : (bytes.getD 0 0).getLsbD 7 = false := hbit.resolve_left (by simp [h0])
        rw [requestsSoftReset, h0, show 0x4004 - (0x4004 + 0) = 0 by rfl, byteAt, h7, Bool.and_false]
      · exact requestsSoftReset_of_not_covered (.inr (by omega))
    obtain ⟨c, hc, hbits⟩ := storeBytes_control s.port start.val bytes hlen
    refine ⟨c, ?_, fun b hb => ?_⟩
    · rw [exec, execControlWrite, hostWrite_stores _ _ _ (fun k _ => isStateByte_register (by omega)) hr, State.onPort, hc]
    · have hne' : bytes ≠ [] := by
        rintro rfl
        simp at hne
      rw [hbits b hb, decide_eq_false hne', Bool.false_or]
  · obtain ⟨x, hx, hbits⟩ := storeBytes_alert s.port start.val bytes hlen
    refine ⟨x, ?_, hbits⟩
    rw [exec, execAlertClear, hostWrite_stores _ _ _ (fun k _ => isStateByte_register (by omega))
      (requestsSoftReset_of_not_covered (.inr (by omega))), State.onPort, hx]

end Sys2Proof.Machine


/-! PROOFS about state bytes: the table of R6, and transactions that cover state bytes. -/

namespace Sys2Proof.Machine

open Sys2Proof

/-! ## One state byte -/

@[simp] theorem wake_resetCtl (s : State) : s.wake.resetCtl = s.resetCtl := by
  unfold State.wake
  split <;> rfl

/-- Waking does not look at the port. -/
theorem wake_onPort (s : State) (f : Port → Port) : (s.onPort f).wake = s.wake.onPort f := by
  unfold State.wake
  rw [State.onPort_supply]
  split <;> rfl

/-- What a state-byte write leaves (R6). -/
theorem judgeStateByte_leaves (s : State) (n : CardNo) (v : Byte) :
    (s.judgeStateByte n v).port.memory = s.port.memory ∧ (s.judgeStateByte n v).resetCtl = s.resetCtl := by
  unfold State.judgeStateByte
  rw [State.onPort_port, State.onPort_resetCtl, wake_port, wake_resetCtl]
  split <;> exact ⟨rfl, rfl⟩

/-- The state that the table of R6 gives a card, by the outcome of the write. -/
theorem written_eq (c : CardState) (v : Byte) : c.written v = match stateByteOutcome v c with
    | .posted => .posted
    | .withdrawn | .returned => .free
    | .noChange | .fault => c := by
  unfold CardState.written stateByteOutcome
  by_cases h1 : v = 0x5A
  · subst h1
    cases c <;> rfl
  · by_cases h2 : v = 0xA5
    · subst h2
      cases c <;> rfl
    · by_cases h3 : v = 0x00
      · subst h3
        cases c <;> rfl
      · simp only [h1, h2, h3, false_and, if_false]
        by_cases h4 : v = 0x7E
        · subst h4
          cases c <;> rfl
        · by_cases h5 : v = 0xC3
          · subst h5
            cases c <;> rfl
          · simp only [h4, h5, if_false]

/-- The cards after a state-byte write are those that the table of R6 gives. -/
theorem judgeStateByte_cards (s : State) (n m : CardNo) (v : Byte) :
    (s.judgeStateByte n v).port.cards[m] = if n = m then (s.port.cards[n]).written v else s.port.cards[m] := by
  have same : s.port.cards[m] = if n = m then s.port.cards[n] else s.port.cards[m] := by
    split
    next h => rw [h]
    next => rfl
  rw [State.judgeStateByte, State.onPort_port, wake_port, written_eq]
  cases stateByteOutcome v s.port.cards[n]
  · exact getElem_set_fin _ _ _ _
  · exact getElem_set_fin _ _ _ _
  · exact getElem_set_fin _ _ _ _
  · exact same
  · exact same

/-! ## Transactions over state bytes -/

theorem judgeBytes_leaves (s : State) (a : Nat) (bytes : List Byte) :
    (s.judgeBytes a bytes).port.memory = s.port.memory ∧ (s.judgeBytes a bytes).resetCtl = s.resetCtl := by
  induction bytes generalizing s a with
  | nil => exact ⟨rfl, rfl⟩
  | cons v vs ih =>
    rw [State.judgeBytes]
    obtain ⟨hm, hr⟩ := ih (if isStateByte a then s.judgeStateByte (cardAt a) v else s) (a + 1)
    rw [hm, hr]
    split
    · exact judgeStateByte_leaves s _ v
    · exact ⟨rfl, rfl⟩

/-- Each card whose state byte a transaction covers is judged by the byte written there, and no other card (R2, R6). -/
theorem judgeBytes_cards (s : State) (a : Nat) (bytes : List Byte) (n : CardNo) :
    (s.judgeBytes a bytes).port.cards[n] = if a ≤ cardBase n ∧ cardBase n < a + bytes.length then
      (s.port.cards[n]).written (bytes.getD (cardBase n - a) 0) else s.port.cards[n] := by
  induction bytes generalizing s a with
  | nil => rw [if_neg (by simp only [List.length_nil]; omega)]; rfl
  | cons v vs ih =>
    have hhead : (if isStateByte a then s.judgeStateByte (cardAt a) v else s).port.cards[n] =
        if a = cardBase n then (s.port.cards[n]).written v else s.port.cards[n] := by
      by_cases ha : isStateByte a = true
      · obtain ⟨m, rfl⟩ := (isStateByte_iff a).mp ha
        rw [if_pos ha, cardAt_cardBase, judgeStateByte_cards]
        by_cases hmn : m = n
        · subst hmn
          rw [if_pos rfl, if_pos rfl]
        · rw [if_neg hmn, if_neg fun e => hmn (cardBase_injective e)]
      · rw [if_neg ha, if_neg]
        rintro rfl
        exact ha (isStateByte_cardBase n)
    rw [State.judgeBytes, ih, hhead, List.length_cons]
    by_cases hn : a = cardBase n
    · rw [if_neg (by omega), if_pos hn, if_pos (by omega), show cardBase n - a = 0 by omega]
      rfl
    · rw [if_neg hn]
      by_cases hin : a + 1 ≤ cardBase n ∧ cardBase n < a + 1 + vs.length
      · rw [if_pos hin, if_pos (by omega), show cardBase n - a = (cardBase n - (a + 1)) + 1 by omega, List.getD_cons_succ]
      · rw [if_neg hin, if_neg (by omega)]

theorem storeBytes_cards (p : Port) (a : Nat) (bytes : List Byte) : (p.storeBytes a bytes).cards = p.cards := by
  induction bytes generalizing p a with
  | nil => rfl
  | cons v vs ih => rw [Port.storeBytes, ih, (storeByte_stands p a v).1]

/-- What one byte of a transaction leaves at an offset below the status page that is no state byte. -/
theorem read_storeByte (p : Port) (h : p.Canonical) (a : Nat) (v : Byte) {y : Nat} (hy : y < 0x3E00)
    (hs : isStateByte y = false) :
    Memory.read (p.storeByte a v).memory y = if a = y then v else Memory.read p.memory y := by
  by_cases hm : a < 0x3E00 ∧ isStateByte a = false
  · rw [storeByte_memory p v hm.1 hm.2]
    exact Memory.read_write a y v h.1
  · have hay : a ≠ y := by
      rintro rfl
      exact hm ⟨hy, hs⟩
    have hstand : (p.storeByte a v).memory = p.memory := by
      unfold Port.storeByte
      split
      · split
        · rfl
        · simp_all
      · repeat' split
        all_goals rfl
    rw [hstand, if_neg hay]

/-- What a transaction leaves at an offset below the status page that is no state byte (R1). -/
theorem read_storeBytes (p : Port) (h : p.Canonical) (a : Nat) (bytes : List Byte) {y : Nat} (hy : y < 0x3E00)
    (hs : isStateByte y = false) : Memory.read (p.storeBytes a bytes).memory y =
      if a ≤ y ∧ y < a + bytes.length then bytes.getD (y - a) 0 else Memory.read p.memory y := by
  induction bytes generalizing p a with
  | nil => rw [if_neg (by simp only [List.length_nil]; omega)]; rfl
  | cons v vs ih =>
    rw [Port.storeBytes, ih _ (h.storeByte a v), read_storeByte p h a v hy hs, List.length_cons]
    by_cases hay : a = y
    · subst hay
      simp
    · rw [if_neg hay]
      by_cases hin : a + 1 ≤ y ∧ y < a + 1 + vs.length
      · rw [if_pos hin, if_pos (by omega), show y - a = (y - (a + 1)) + 1 by omega, List.getD_cons_succ]
      · rw [if_neg hin, if_neg (by omega)]

/-- A host read below the status page, beside the state bytes, reads the memory (R1). -/
theorem hostRead_memory (s : State) {y : Nat} (hy : y < 0x3E00) (hs : isStateByte y = false) :
    s.hostRead y = Memory.read s.port.memory y := by
  rw [State.hostRead, if_pos hy, hs]
  rfl

/-- A transaction that starts no warm reset stores, then judges. -/
theorem hostWrite_of_no_reset (s : State) (a : Nat) (bytes : List Byte)
    (h : ¬(requestsSoftReset a bytes = true ∧ s.mayWarmReset = true)) :
    s.hostWrite a bytes = (s.onPort fun p => p.storeBytes a bytes).judgeBytes a bytes := by
  have hm : ((s.onPort fun p => p.storeBytes a bytes).judgeBytes a bytes).mayWarmReset = s.mayWarmReset := by
    rw [State.mayWarmReset, (judgeBytes_leaves _ a bytes).2]
    rfl
  rw [State.hostWrite]
  simp only [hm]
  rw [if_neg (by simpa using h)]

/-- Settles O11: the cards are judged byte by byte, and the memory is stored byte by byte. -/
theorem writeTransactionsActByteByByte : Obligations.WriteTransactionsActByteByByte := by
  unfold Obligations.WriteTransactionsActByteByByte
  intro s a bytes hr
  rw [hostWrite_of_no_reset s a bytes hr]
  refine ⟨fun n => ?_, fun hlaw y hy hstate => ?_⟩
  · rw [judgeBytes_cards, State.onPort_port, storeBytes_cards]
  · have hs := isStateByte_false hstate
    rw [hostRead_memory _ hy hs, hostRead_memory _ hy hs, (judgeBytes_leaves _ a bytes).1]
    exact read_storeBytes s.port hlaw a bytes hy hs

/-! ## Transactions within one card -/

/-- A transaction within one card stores the bytes behind the state byte, wakes the part and judges the state byte
(R2, R6, R160). -/
theorem hostWrite_card (n : CardNo) (v : Byte) (rest : List Byte) (s : State) (hlen : rest.length ≤ 255) :
    s.hostWrite (cardBase n) (v :: rest) = s.wake.onPort fun _ =>
      match stateByteOutcome v s.port.cards[n] with
      | .posted => (s.port.withCardBytes n rest).post n
      | .withdrawn => (s.port.withCardBytes n rest).withdraw n
      | .returned => (s.port.withCardBytes n rest).giveBack n
      | .noChange => s.port.withCardBytes n rest
      | .fault => (s.port.withCardBytes n rest).countFault (s.resetCtl.part = .ready) := by
  have hbase : cardBase n + 256 ≤ 0x2000 := by unfold cardBase; omega
  have hs : ∀ k, k < rest.length → isStateByte (cardBase n + 1 + k) = false := fun k hk =>
    isStateByte_false (by unfold cardBase; omega)
  have hstore : s.port.storeBytes (cardBase n) (v :: rest) = s.port.withCardBytes n rest := by
    rw [Port.storeBytes, storeByte_stateByte _ _ (isStateByte_cardBase n), storeBytes_memory _ _ _ (by omega) hs,
      List.take_of_length_le (by omega)]
    rfl
  have hr := requestsSoftReset_of_not_covered (a := cardBase n) (bytes := v :: rest)
    (.inl (by rw [List.length_cons]; omega))
  rw [hostWrite_of_no_reset _ _ _ (by simp [hr]), State.judgeBytes, isStateByte_cardBase, if_pos rfl, cardAt_cardBase,
    judgeBytes_of_no_stateByte _ _ _ hs, State.judgeStateByte, wake_onPort]
  simp only [State.onPort, wake_port, hstore]
  rfl

/-- Settles O12: each row is `hostWrite_card` with its byte, and the table of R6 gives the outcome for each state. -/
theorem stateByteCommands : Obligations.StateByteCommands := by
  unfold Obligations.StateByteCommands
  intro n rest s hlen
  refine ⟨?_, ?_, ?_, fun v hv => ?_⟩
  · rw [exec, execPost, hostWrite_card n _ rest s hlen]
    cases s.port.cards[n] <;> rfl
  · rw [exec, execWithdraw, hostWrite_card n _ rest s hlen]
    cases s.port.cards[n] <;> rfl
  · rw [exec, execReturnCard, hostWrite_card n _ rest s hlen]
    cases s.port.cards[n] <;> rfl
  · simp only [cardFaultValueOk, Bool.and_eq_true, bne_iff_ne] at hv
    obtain ⟨⟨h1, h2⟩, h3⟩ := hv
    rw [exec, execCardFault, hostWrite_card n _ rest s hlen]
    simp only [stateByteOutcome, h1, h2, h3, if_false]
    by_cases h4 : v = 0x7E
    · subst h4
      cases s.port.cards[n] <;> rfl
    · by_cases h5 : v = 0xC3
      · subst h5
        cases s.port.cards[n] <;> rfl
      · rw [if_neg h4, if_neg h5, if_neg fun h => h.elim (fun h => h4 h.1) fun h => h5 h.1]
        rfl

end Sys2Proof.Machine


/-! PROOFS about the checks at take: the fields of each kind, the order of the checks, and the window check byte by byte. -/

namespace Sys2Proof.Machine

open Sys2Proof

/-! ## The window check -/

/-- The granules that a range touches are those of its bytes (R16). -/
theorem mem_granules {offset length a : Nat} :
    a ∈ granules offset length ↔ ∃ b, offset ≤ b ∧ b < offset + length ∧ a = 16 * (b / 16) := by
  unfold granules
  split
  next h =>
    subst h
    simp only [List.not_mem_nil, false_iff, not_exists]
    omega
  next h =>
    simp only [List.mem_map, List.mem_range]
    constructor
    · rintro ⟨k, hk, rfl⟩
      by_cases h0 : k = 0
      · exact ⟨offset, by omega, by omega, by omega⟩
      · exact ⟨16 * (offset / 16 + k), by omega, by omega, by omega⟩
    · rintro ⟨b, hlow, hhigh, rfl⟩
      exact ⟨b / 16 - offset / 16, by omega, by omega⟩

/-- A window as R18 admits it covers the granule of a byte exactly if it covers the byte (R15). -/
theorem covers_granule {w : Window} (h : w.length ≠ 0 → w.offset % 16 = 0 ∧ w.length % 16 = 0) (b : Nat) :
    w.covers (16 * (b / 16)) = true ↔ w.offset ≤ b ∧ b < w.offset + w.length := by
  simp only [Window.covers, Bool.and_eq_true, decide_eq_true_eq]
  by_cases hl : w.length = 0
  · exact ⟨fun hc => absurd hl hc.1.1, fun hc => by omega⟩
  · obtain ⟨ho, hlen⟩ := h hl
    omega

/-- Every touched granule has the right exactly if every byte of the range lies in a window that grants it (R16). -/
theorem windowsGrant_iff {ws : Vector Window 8}
    (h : ∀ w ∈ ws.toList, w.length ≠ 0 → w.offset % 16 = 0 ∧ w.length % 16 = 0) (g : Group) (write : Bool)
    (offset length : Nat) : windowsGrant ws g write offset length = true ↔ ∀ b, offset ≤ b → b < offset + length →
      ∃ w ∈ ws.toList, w.offset ≤ b ∧ b < w.offset + w.length ∧ w.grants g write = true := by
  have hgranule : ∀ b, (ws.toList.any fun w => w.covers (16 * (b / 16)) && w.grants g write) = true ↔
      ∃ w ∈ ws.toList, w.offset ≤ b ∧ b < w.offset + w.length ∧ w.grants g write = true := by
    intro b
    simp only [List.any_eq_true, Bool.and_eq_true]
    exact exists_congr fun w => and_congr_right fun hw => by rw [covers_granule (h w hw), and_assoc]
  simp only [windowsGrant, List.all_eq_true, mem_granules]
  constructor
  · exact fun hall b hlow hhigh => (hgranule b).mp (hall _ ⟨b, hlow, hhigh, rfl⟩)
  · rintro hall _ ⟨b, hlow, hhigh, rfl⟩
    exact (hgranule b).mpr (hall b hlow hhigh)

/-! ## The fields of a kind -/

theorem group_eq_m_iff (x : Job) : x.group = .m ↔ x.card.val < 16 := by
  rw [Job.group, cardGroup]
  split <;> simp_all

theorem rangeInBuffer_iff (offset length : Nat) :
    rangeInBuffer offset length = true ↔ 0x2000 ≤ offset ∧ offset + length ≤ 0x3E00 := by
  simp [rangeInBuffer]

theorem windowEntryOk_iff (w : Window) (rights : Nat) : windowEntryOk w rights = true ↔
    (w.length = 0 ∨ (w.offset % 16 = 0 ∧ w.length % 16 = 0 ∧ 0x2000 ≤ w.offset ∧ w.offset + w.length ≤ 0x3E00)) ∧
      rights < 16 := by
  simp [windowEntryOk, and_assoc]

theorem namesRange_iff (k : Kind) : k.namesRange = true ↔ k = .sign ∨ k = .check ∨ k = .package := by
  cases k <;> simp [Kind.namesRange]

/-- The bit of a header byte that holds the kind's option. -/
theorem option_iff (x : Job) : x.option = true ↔ x.header.getD 2 0 &&& 4 ≠ 0 := by
  have h : ∀ v : Byte, v.getLsbD 2 = true ↔ v &&& 4 ≠ 0 := by decide
  exact h _

/-- The window check of a job that names a range: the read right, and for ENCIPHER or DECIPHER the write right too
(R16). -/
theorem windowCheck_iff (ws : Vector Window 8) (x : Job) : windowCheck ws x = true ↔
    windowsGrant ws x.group false x.rangeOffset x.rangeLength = true ∧
      (x.header.getD 2 0 &&& 4 ≠ 0 → x.kind = .sign ∨ x.kind = .check →
        windowsGrant ws x.group true x.rangeOffset x.rangeLength = true) := by
  rw [← option_iff]
  simp only [windowCheck, Bool.and_eq_true, Bool.or_eq_true, Bool.not_eq_true', Bool.and_eq_false_iff]
  cases x.option
  · simp
  · simp only [Bool.true_eq_false, false_or, true_implies, Bool.or_eq_false_iff, decide_eq_false_iff_not]
    tauto

/-- The order of the checks at take (R28): each refusal with the condition that gives it. -/
theorem checkAtTake_order {ws : Vector Window 8} {x : Job} {denied fields names : Prop}
    (hd : ((x.kind = .settings ∨ x.kind = .windows) ∧ x.group ≠ .m) ↔ denied)
    (hf : (byteAt x.header 5 = 0 ∧ fieldsOk x = true) ↔ fields) (hn : x.kind.namesRange = true ↔ names) :
    (checkAtTake ws x = some .groupDenied ↔ denied) ∧ (checkAtTake ws x = some .fieldBad ↔ ¬denied ∧ ¬fields) ∧
    (checkAtTake ws x = some .windowDenied ↔ ¬denied ∧ fields ∧ names ∧ windowCheck ws x = false) ∧
    (checkAtTake ws x = none ↔ ¬denied ∧ fields ∧ (names → windowCheck ws x = true)) := by
  have hf' : (byteAt x.header 5 ≠ 0 ∨ fieldsOk x = false) ↔ ¬fields := by
    rw [← hf, not_and_or, Bool.not_eq_true]
  unfold checkAtTake
  by_cases h1 : denied
  · rw [if_pos (hd.mpr h1)]
    simp [h1]
  · rw [if_neg fun h => h1 (hd.mp h)]
    by_cases h2 : fields
    · rw [if_neg fun h => hf'.mp h h2]
      by_cases h3 : names
      · rw [hn.mpr h3]
        cases windowCheck ws x <;> simp [h1, h2, h3]
      · rw [if_neg fun h => h3 (hn.mp h.1)]
        simp [h1, h2, h3]
    · rw [if_pos (hf'.mpr h2)]
      simp [h1, h2]

/-- Settles O22: the order of the checks, the fields kind by kind, and the window check byte by byte. -/
theorem checksAtTakeComeInOrder : Obligations.ChecksAtTakeComeInOrder := by
  unfold Obligations.ChecksAtTakeComeInOrder
  intro ws x verdict groupM only slot handle from_ length inside entry inRange fields names granted
  have hgroup : x.group = .m ↔ groupM := group_eq_m_iff x
  have hinside : rangeInBuffer x.rangeOffset x.rangeLength = true ↔ inside := rangeInBuffer_iff _ _
  have hfields : fieldsOk x = true ↔ inRange := by
    cases hk : x.kind <;>
      simp only [fieldsOk, inRange, hk, Bool.and_eq_true, decide_eq_true_eq, List.all_eq_true, List.mem_range,
        windowEntryOk_iff, hinside, and_assoc]
    case openKey | closeSlot | sign | check | query | settings | windows => rfl
  obtain ⟨h1, h2, h3, h4⟩ := checkAtTake_order (ws := ws) (x := x) (denied := only ∧ ¬groupM) (fields := fields)
    (names := names) (by rw [Ne, hgroup]) (by rw [hfields]; rfl) (namesRange_iff x.kind)
  refine ⟨h1, h2, h3, h4, fun haligned => ?_⟩
  have hgrants : ∀ (w : Window) (write : Bool), w.grants x.group write =
      if groupM then (if write then w.mWrite else w.mRead) else (if write then w.cWrite else w.cRead) := by
    intro w write
    by_cases hm : groupM
    · rw [hgroup.mpr hm, if_pos hm]
      cases write <;> rfl
    · have hc : x.group = .c := by
        cases h : x.group
        · exact absurd (hgroup.mp h) hm
        · rfl
      rw [hc, if_neg hm]
      cases write <;> rfl
  rw [windowCheck_iff, windowsGrant_iff haligned, windowsGrant_iff haligned]
  simp only [hgrants]
  constructor
  · exact fun ⟨hread, hwrite⟩ b hlow hhigh => ⟨hread b hlow hhigh, fun ho hk => hwrite ho hk b hlow hhigh⟩
  · exact fun h => ⟨fun b hlow hhigh => (h b hlow hhigh).1, fun ho hk b hlow hhigh => (h b hlow hhigh).2 ho hk⟩

end Sys2Proof.Machine


/-! PROOFS about completions: what a completion writes into the exchange memory and into the port's registers (R10). -/

namespace Sys2Proof.Machine

open Sys2Proof

/-! ## Bytes read after stores -/

@[simp] theorem length_leBytes (k n : Nat) : (leBytes k n).length = k := by
  induction k generalizing n with
  | zero => rfl
  | succ k ih => rw [leBytes, List.length_cons, ih]

/-- The bytes from an offset upward, given byte by byte. -/
theorem readBytes_eq {m : List Host.Cell} {x : Nat} {bs : List Byte}
    (h : ∀ i, i < bs.length → Memory.read m (x + i) = bs.getD i 0) : Memory.readBytes m x bs.length = bs := by
  apply List.ext_getElem
  · simp [Memory.readBytes]
  · intro i hi hi'
    simp only [Memory.readBytes, List.getElem_map, List.getElem_range]
    rw [h i hi', List.getD_eq_getElem _ _ hi']

/-- A field of bytes at an offset from `base` covers the address. -/
def covers (base : Nat) (f : Nat × List Byte) (y : Nat) : Prop := base + f.1 ≤ y ∧ y < base + f.1 + f.2.length

/-- Fields stored one after another. -/
def writeFields (m : List Host.Cell) (base : Nat) (fs : List (Nat × List Byte)) : List Host.Cell :=
  fs.foldl (fun m f => Memory.writeBytes m (base + f.1) f.2) m

theorem writeFields_wf {m : List Host.Cell} (h : Memory.wf m = true) (base : Nat) (fs : List (Nat × List Byte)) :
    Memory.wf (writeFields m base fs) = true := by
  induction fs generalizing m with
  | nil => exact h
  | cons f fs ih => exact ih (Memory.wf_writeBytes _ _ h)

/-- An address that no field covers reads as before. -/
theorem read_writeFields_frame {m : List Host.Cell} (h : Memory.wf m = true) {base : Nat} {fs : List (Nat × List Byte)}
    {y : Nat} (hy : ∀ f ∈ fs, ¬covers base f y) : Memory.read (writeFields m base fs) y = Memory.read m y := by
  induction fs generalizing m with
  | nil => rfl
  | cons f fs ih =>
    have hf : ¬(base + f.1 ≤ y ∧ y < base + f.1 + f.2.length) := hy f (by simp)
    refine (ih (Memory.wf_writeBytes _ _ h) fun g hg => hy g (by simp [hg])).trans ?_
    rw [Memory.read_writeBytes _ _ _ h, if_neg hf]

/-- An address that one of the fields covers, which do not overlap, reads that field's byte. -/
theorem read_writeFields {m : List Host.Cell} (h : Memory.wf m = true) {base : Nat} {fs : List (Nat × List Byte)}
    (hfs : fs.Pairwise fun f g => f.1 + f.2.length ≤ g.1) {f : Nat × List Byte} (hf : f ∈ fs) {i : Nat}
    (hi : i < f.2.length) : Memory.read (writeFields m base fs) (base + f.1 + i) = f.2.getD i 0 := by
  induction fs generalizing m with
  | nil => cases hf
  | cons g fs ih =>
    obtain ⟨hg, hfs⟩ := List.pairwise_cons.mp hfs
    rcases List.mem_cons.mp hf with rfl | hf
    · refine (read_writeFields_frame (Memory.wf_writeBytes _ _ h) fun g' hg' hc => ?_).trans ?_
      · have := hg g' hg'
        have := hc.1
        omega
      · rw [Memory.read_writeBytes _ _ _ h, if_pos (by omega), Nat.add_sub_cancel_left]
    · exact ih (Memory.wf_writeBytes _ _ h) hfs hf

/-! ## The result fields -/

/-- The fields laid out have the offsets and lengths of the kind's fields. -/
theorem layFields_shape (fields : List (Nat × Nat)) (values : List Nat) :
    (layFields fields values).map (fun f => (f.1, f.2.length)) = fields := by
  induction fields generalizing values with
  | nil => rfl
  | cons f fs ih => cases values <;> simp [layFields, ih]

theorem mem_layFields {fields : List (Nat × Nat)} {values : List Nat} {f : Nat × List Byte}
    (h : f ∈ layFields fields values) : (f.1, f.2.length) ∈ fields := by
  rw [← layFields_shape fields values]
  exact List.mem_map_of_mem h

/-- The result fields of a kind stand behind the header of the card, in rising order and apart (section 1.9). -/
theorem resultFields_apart (k : Kind) : (resultFields k).Pairwise (fun f g => f.1 + f.2 ≤ g.1) ∧
    ∀ f ∈ resultFields k, 16 ≤ f.1 ∧ f.1 + f.2 ≤ 256 := by
  cases k <;> decide

theorem layFields_apart (k : Kind) (values : List Nat) :
    (layFields (resultFields k) values).Pairwise fun f g => f.1 + f.2.length ≤ g.1 := by
  have h := (resultFields_apart k).1
  rw [← layFields_shape (resultFields k) values, List.pairwise_map] at h
  exact h

/-! ## The memory after a completion -/

/-- The four header bytes that a completion writes: its status and its notes (section 1.9, "Card header"). -/
def outcomeBytes (status : Status) (notes : BitVec 16) : List Byte := leBytes 2 status.code ++ leBytes 2 notes.toNat

/-- The values of the result fields: none but for OK and ALREADY_APPLIED (R10). -/
def Status.results (status : Status) (values : List Nat) : List Nat := if status.good then values else []

/-- The output is written: the status is OK, and its range lies inside the buffer area (R17). -/
def outputWritten (status : Status) (outputAt : Nat) (output : List Byte) : Prop :=
  status = .ok ∧ 0x2000 ≤ outputAt ∧ outputAt + output.length ≤ 0x3E00

theorem completionMemory_eq (m : List Host.Cell) (n : CardNo) (fields : List (Nat × Nat)) (status : Status)
    (notes : BitVec 16) (values : List Nat) (outputAt : Nat) (output : List Byte) :
    (outputWritten status outputAt output → completionMemory m n fields status notes values outputAt output =
      Memory.writeBytes (writeFields (Memory.writeBytes m (cardBase n + 8) (outcomeBytes status notes)) (cardBase n)
        (layFields fields (status.results values))) outputAt output) ∧
    (¬outputWritten status outputAt output → completionMemory m n fields status notes values outputAt output =
      writeFields (Memory.writeBytes m (cardBase n + 8) (outcomeBytes status notes)) (cardBase n)
        (layFields fields (status.results values))) := by
  have hw : outputWritten status outputAt output ↔ status = .ok ∧ rangeInBuffer outputAt output.length = true := by
    rw [rangeInBuffer_iff]
    rfl
  rw [hw]
  unfold completionMemory
  exact ⟨fun h => if_pos h, fun h => if_neg h⟩

section Completion

variable {m : List Host.Cell} (hm : Memory.wf m = true) (n : CardNo) (k : Kind) (status : Status) (notes : BitVec 16)
  (values : List Nat) (outputAt : Nat) (output : List Byte)

include hm

/-- An address outside the output range reads as the header and the result fields leave it. -/
theorem read_completion_beside_output {y : Nat}
    (hy : ¬(outputWritten status outputAt output ∧ outputAt ≤ y ∧ y < outputAt + output.length)) :
    Memory.read (completionMemory m n (resultFields k) status notes values outputAt output) y =
      Memory.read (writeFields (Memory.writeBytes m (cardBase n + 8) (outcomeBytes status notes)) (cardBase n)
        (layFields (resultFields k) (status.results values))) y := by
  obtain ⟨hyes, hno⟩ := completionMemory_eq m n (resultFields k) status notes values outputAt output
  by_cases hw : outputWritten status outputAt output
  · rw [hyes hw, Memory.read_writeBytes _ _ _ (writeFields_wf (Memory.wf_writeBytes _ _ hm) _ _),
      if_neg fun h => hy ⟨hw, h⟩]
  · rw [hno hw]

/-- The output does not reach into the cards. -/
theorem read_completion_card {y : Nat} (hy : y < 0x2000) :
    Memory.read (completionMemory m n (resultFields k) status notes values outputAt output) y =
      Memory.read (writeFields (Memory.writeBytes m (cardBase n + 8) (outcomeBytes status notes)) (cardBase n)
        (layFields (resultFields k) (status.results values))) y :=
  read_completion_beside_output hm n k status notes values outputAt output fun h => by
    have := h.1.2.1
    omega

/-- The status and the notes stand in the header (R10). -/
theorem completion_header :
    Memory.readBytes (completionMemory m n (resultFields k) status notes values outputAt output) (cardBase n + 8) 4 =
      outcomeBytes status notes := by
  have hlen : (outcomeBytes status notes).length = 4 := by simp [outcomeBytes]
  rw [← hlen]
  refine readBytes_eq fun i hi => ?_
  have hbase : cardBase n + 256 ≤ 0x2000 := by unfold cardBase; omega
  rw [read_completion_card hm n k status notes values outputAt output (by omega),
    read_writeFields_frame (Memory.wf_writeBytes _ _ hm), Memory.read_writeBytes _ _ _ hm, if_pos (by omega),
    Nat.add_sub_cancel_left]
  intro f hf hc
  have := ((resultFields_apart k).2 _ (mem_layFields hf)).1
  have := hc.1
  omega

/-- Each result field of the kind holds its value (R10, R34). -/
theorem completion_result {f : Nat × List Byte} (hf : f ∈ layFields (resultFields k) (status.results values)) :
    Memory.readBytes (completionMemory m n (resultFields k) status notes values outputAt output) (cardBase n + f.1)
      f.2.length = f.2 := by
  have hbase : cardBase n + 256 ≤ 0x2000 := by unfold cardBase; omega
  have hend : f.1 + f.2.length ≤ 256 := ((resultFields_apart k).2 _ (mem_layFields hf)).2
  refine readBytes_eq fun i hi => ?_
  rw [read_completion_card hm n k status notes values outputAt output (by omega),
    read_writeFields (Memory.wf_writeBytes _ _ hm) (layFields_apart k _) hf hi]

/-- The output stands over the payload range (R17). -/
theorem completion_output (hw : outputWritten status outputAt output) :
    Memory.readBytes (completionMemory m n (resultFields k) status notes values outputAt output) outputAt output.length =
      output := by
  rw [(completionMemory_eq m n (resultFields k) status notes values outputAt output).1 hw]
  refine readBytes_eq fun i hi => ?_
  rw [Memory.read_writeBytes _ _ _ (writeFields_wf (Memory.wf_writeBytes _ _ hm) _ _), if_pos (by omega),
    Nat.add_sub_cancel_left]

/-- Every other byte stands. -/
theorem completion_frame {y : Nat} (hhead : ¬(cardBase n + 8 ≤ y ∧ y < cardBase n + 12))
    (hfields : ∀ f ∈ resultFields k, ¬(cardBase n + f.1 ≤ y ∧ y < cardBase n + f.1 + f.2))
    (hout : ¬(outputWritten status outputAt output ∧ outputAt ≤ y ∧ y < outputAt + output.length)) :
    Memory.read (completionMemory m n (resultFields k) status notes values outputAt output) y = Memory.read m y := by
  rw [read_completion_beside_output hm n k status notes values outputAt output hout,
    read_writeFields_frame (Memory.wf_writeBytes _ _ hm) fun f hf => hfields _ (mem_layFields hf),
    Memory.read_writeBytes _ _ _ hm, if_neg (by simpa [outcomeBytes] using hhead)]

end Completion

/-! ## Counters and events -/

theorem good_iff (st : Status) : st.good = true ↔ st = .ok ∨ st = .alreadyApplied := by
  cases st <;> decide

/-- A completion counts by the group and the status (R23, R34). -/
theorem count_eq (f : PageFigures) (g : Group) (st : Status) : f.count g st = { f with
    jobsOkM := if st.good ∧ g = .m then bump32 f.jobsOkM else f.jobsOkM
    jobsRefusedM := if ¬st.good ∧ g = .m then bump32 f.jobsRefusedM else f.jobsRefusedM
    jobsOkC := if st.good ∧ g = .c then bump32 f.jobsOkC else f.jobsOkC
    jobsRefusedC := if ¬st.good ∧ g = .c then bump32 f.jobsRefusedC else f.jobsRefusedC
    tagFailures := if st = .tagBad then bump32 f.tagFailures else f.tagFailures
    replays := if st = .replay ∨ st = .tooOld then bump32 f.replays else f.replays } := by
  cases g <;> cases st <;> rfl

/-- The event bits of a completion (R21, R35). -/
theorem completionEvent_bit (k : Kind) (st : Status) (notes : BitVec 16) (b : Nat) (hb : b < 16) :
    (completionEvent k st notes).getLsbD b = true ↔
      (b = 13 ∧ k = .check ∧ (st = .tagBad ∨ st = .replay ∨ st = .tooOld)) ∨
        (b = 14 ∧ k = .package ∧ notes.getLsbD 8 = true) := by
  have hreject : ∀ b < 16, alertFrameReject.getLsbD b = decide (b = 13) := by decide
  have hlock : ∀ b < 16, alertAuthLock.getLsbD b = decide (b = 14) := by decide
  have hnote : notes &&& noteAuthNowLocked ≠ 0 ↔ notes.getLsbD 8 = true := by
    have hbit : ∀ b < 16, noteAuthNowLocked.getLsbD b = decide (b = 8) := by decide
    constructor
    · intro h
      by_contra h8
      refine h (BitVec.eq_of_getLsbD_eq fun i hi => ?_)
      rw [BitVec.getLsbD_and, hbit i hi]
      by_cases hi8 : i = 8
      · subst hi8
        simpa using h8
      · simp [hi8]
    · intro h8 h
      have := congrArg (·.getLsbD 8) h
      simp only [BitVec.getLsbD_and, h8, hbit 8 (by omega)] at this
      simp at this
  have hif : ∀ (c : Prop) [Decidable c] (v : BitVec 16),
      (if c then v else 0).getLsbD b = (decide c && v.getLsbD b) := by
    intro c _ v
    by_cases hc : c <;> simp [hc]
  unfold completionEvent
  rw [BitVec.getLsbD_or, hif, hif, hreject b hb, hlock b hb]
  simp only [Bool.or_eq_true, Bool.and_eq_true, decide_eq_true_eq, hnote]
  tauto

/-- Settles O20: the memory by the lemmas of the completion, the rest read off the update. -/
theorem completionWritesTheCard : Obligations.CompletionWritesTheCard := by
  unfold Obligations.CompletionWritesTheCard
  refine ⟨fun p n k notify st notes event values at_ out hm => ?_, fun k st notes b hb => completionEvent_bit k st notes b hb⟩
  intro q good written next
  have hgood : (if good then values else []) = st.results values := by
    unfold Status.results
    by_cases h : good
    · rw [if_pos h, if_pos ((good_iff st).mpr h)]
    · rw [if_neg h, if_neg fun h' => h ((good_iff st).mp h')]
  refine ⟨completion_header hm n k st notes values at_ out, fun f hf => ?_, completion_output hm n k st notes values at_ out,
    fun y hhead hfields hout => completion_frame hm n k st notes values at_ out hhead hfields hout, rfl, rfl, rfl, rfl, rfl,
    fun l => ?_, ?_⟩
  · rw [hgood] at hf
    exact completion_result hm n k st notes values at_ out hf
  · cases notify
    · rfl
    · exact getLsbD_or_single p.doneMap n l
  · have hm' : cardGroup n = .m ↔ n.val < 16 := by
      unfold cardGroup
      split <;> simp_all
    have hc' : cardGroup n = .c ↔ 16 ≤ n.val := by
      unfold cardGroup
      split <;> simp_all
    change p.figures.count (cardGroup n) st = _
    simp only [count_eq, good_iff, hm', hc']
    rfl

end Sys2Proof.Machine


/-! PROOFS about host reads: the status page field by field, the registers bit by bit, and NOTE_N. -/

namespace Sys2Proof.Machine

open Sys2Proof

/-! ## Bits -/

/-- A word is not 0 exactly if one of its bits is set. -/
theorem bitVec_ne_zero_iff {w : Nat} (v : BitVec w) : v ≠ 0 ↔ ∃ k : Fin w, v.getLsbD k.val = true := by
  constructor
  · intro h
    by_contra hnone
    refine h (BitVec.eq_of_getLsbD_eq fun i hi => ?_)
    simpa using fun e => hnone ⟨⟨i, hi⟩, e⟩
  · rintro ⟨k, hk⟩ rfl
    simp at hk

/-- A bit of a word is read in its byte. -/
theorem getLsbD_byteOf32 (v : BitVec 32) (b : Nat) : (byteOf32 v (b / 8)).getLsbD (b % 8) = v.getLsbD b := by
  have hb : b % 8 < 8 := Nat.mod_lt _ (by omega)
  rw [byteOf32, BitVec.getLsbD_setWidth, BitVec.getLsbD_ushiftRight, decide_eq_true hb, Bool.true_and,
    Nat.div_add_mod]

/-! ## The regions of a host read -/

section Regions

variable (s : State)

theorem hostRead_stateByte (n : CardNo) : s.hostRead (cardBase n) = (s.port.cards[n]).mirror := by
  rw [State.hostRead, if_pos (by unfold cardBase; omega), if_pos (isStateByte_cardBase n)]
  simp only [cardAt_cardBase]

theorem hostRead_page {a : Nat} (h : 0x3E00 ≤ a) (h' : a < 0x4000) : s.hostRead a = s.pageByte (a - 0x3E00) := by
  rw [State.hostRead, if_neg (by omega), if_pos h']

theorem hostRead_control {b : Nat} (hb : b < 32) :
    (s.hostRead (0x4004 + b / 8)).getLsbD (b % 8) = s.port.control.getLsbD b := by
  rw [State.hostRead, if_neg (by omega), if_neg (by omega), if_neg (by omega), if_pos (by omega), Nat.add_sub_cancel_left,
    getLsbD_byteOf32]

theorem hostRead_alert {b : Nat} (hb : b < 32) :
    (s.hostRead (0x4008 + b / 8)).getLsbD (b % 8) = s.port.alert.getLsbD b := by
  rw [State.hostRead, if_neg (by omega), if_neg (by omega), if_neg (by omega), if_neg (by omega), if_pos (by omega),
    Nat.add_sub_cancel_left, getLsbD_byteOf32, BitVec.getLsbD_setWidth, decide_eq_true hb, Bool.true_and]

theorem hostRead_state {b : Nat} (hb : b < 32) :
    (s.hostRead (0x400C + b / 8)).getLsbD (b % 8) = s.stateRegister.getLsbD b := by
  rw [State.hostRead, if_neg (by omega), if_neg (by omega), if_neg (by omega), if_neg (by omega), if_neg (by omega),
    if_pos (by omega), Nat.add_sub_cancel_left, getLsbD_byteOf32]

theorem hostRead_beyond {a : Nat} (ha : 0x4010 ≤ a) : s.hostRead a = 0 := by
  rw [State.hostRead, if_neg (by omega), if_neg (by omega), if_neg (by omega), if_neg (by omega), if_neg (by omega),
    if_neg (by omega)]

end Regions

/-! ## The status page -/

/-- Fields of given lengths and values, one after another. -/
def layBytes (fs : List (Nat × Nat)) : List Byte := (fs.map fun f => leBytes f.1 f.2).flatten

/-- The value of the field at a place of given length among fields laid one after another. -/
def fieldAt : List (Nat × Nat) → Nat → Nat → Option Nat
  | [], _, _ => none
  | (len, v) :: fs, i, n => if i = 0 ∧ len = n then some v else if len ≤ i then fieldAt fs (i - len) n else none

/-- A field is read at its place. -/
theorem bytesAt_layBytes {fs : List (Nat × Nat)} {i n v : Nat} (h : fieldAt fs i n = some v) :
    bytesAt (layBytes fs) i n = leBytes n v := by
  induction fs generalizing i with
  | nil => cases h
  | cons f fs ih =>
    obtain ⟨len, w⟩ := f
    have hsplit : layBytes ((len, w) :: fs) = leBytes len w ++ layBytes fs := rfl
    have hlen := length_leBytes len w
    rw [fieldAt] at h
    rw [hsplit]
    by_cases hhere : i = 0 ∧ len = n
    · obtain ⟨rfl, rfl⟩ := hhere
      rw [if_pos ⟨rfl, rfl⟩] at h
      obtain rfl := Option.some.inj h
      apply List.ext_getElem
      · simp [bytesAt]
      · intro k hk hk'
        simp only [bytesAt, byteAt, List.getElem_map, List.getElem_range, Nat.zero_add]
        rw [List.getD_append _ _ _ _ hk', List.getD_eq_getElem _ _ hk']
    · rw [if_neg hhere] at h
      split at h
      next hle =>
        rw [← ih h]
        refine List.map_congr_left fun k _ => ?_
        rw [byteAt, byteAt, List.getD_append_right _ _ _ _ (by omega), hlen, show i + k - len = i - len + k by omega]
      next => cases h

/-- The fields of the status page (section 1.9, "Status page"). -/
def State.pageFields (s : State) : List (Nat × Nat) :=
  let f := s.port.figures
  [(4, s.time.tt), (4, s.time.drift), (4, f.nextSeq), (2, f.erasedRows), (1, s.lockedFlags), (1, 0),
    (4, s.port.doneMap.toNat)] ++
  allAuthorities.map (fun k => (4, (s.authority k).accepted)) ++
  [(4, f.jobsOkM), (4, f.jobsRefusedM), (4, f.jobsOkC), (4, f.jobsRefusedC), (4, f.tagFailures), (4, f.replays),
    (4, f.tornRows), (4, f.reclaimsCompleted), (4, f.erasesAbandoned), (4, f.cardFaults),
    (4, s.tamper.cover.shownTime), (4, s.tamper.field.shownTime)]

theorem pageBytes_eq (s : State) : s.pageBytes = layBytes s.pageFields := by
  have hzero : leBytes 1 0 = [0] := rfl
  unfold State.pageBytes
  simp only [State.pageFields, layBytes, List.map_append, List.flatten_append, List.map_cons,
    List.map_nil, List.flatten_cons, List.flatten_nil, List.append_nil, List.append_assoc, List.map_map, hzero]
  rfl

theorem length_pageBytes (s : State) : s.pageBytes.length = 0x5C := by
  simp [pageBytes_eq, layBytes, State.pageFields, allAuthorities]

/-- In READY the host reads the page's bytes (R3, R23). -/
theorem shown_eq {s : State} (hr : s.resetCtl.part = .ready) (i n : Nat) (h : i + n ≤ 0x200) :
    (List.range n).map (fun k => s.hostRead (0x3E00 + i + k)) = bytesAt s.pageBytes i n := by
  unfold bytesAt
  refine List.map_congr_left fun k hk => ?_
  have hk' := List.mem_range.mp hk
  rw [hostRead_page s (by omega) (by omega), State.pageByte, hr, show 0x3E00 + i + k - 0x3E00 = i + k by omega]

theorem lockedFlags_eq (s : State) : s.lockedFlags = Nat.ofBits fun k : Fin 6 => s.locked k := by
  have h : ∀ (n : Nat) (b : Bool) (p : Nat), (if b then n + p else n) = n + b.toNat * p := by
    intro n b p
    cases b <;> simp
  simp only [State.lockedFlags, allAuthorities, List.foldl_cons, List.foldl_nil, h, Nat.ofBits, Fin.foldr_succ, Fin.foldr_zero]
  simp
  omega

/-- Bit `b` of the byte of locked flags (R23, R111). -/
theorem lockedFlags_bit (s : State) (b : Nat) (hb : b < 8) :
    ((leBytes 1 s.lockedFlags).getD 0 0).getLsbD b = true ↔
      ∃ k : AuthNo, k.val = b ∧ s.time.tt < (s.authority k).lockUntil := by
  have hbyte : (leBytes 1 s.lockedFlags).getD 0 0 = BitVec.ofNat 8 s.lockedFlags := rfl
  rw [hbyte, BitVec.getLsbD_ofNat, decide_eq_true hb, Bool.true_and, lockedFlags_eq]
  by_cases h6 : b < 6
  · rw [Nat.testBit_ofBits_lt _ _ h6, State.locked, decide_eq_true_eq]
    exact ⟨fun h => ⟨⟨b, h6⟩, rfl, h⟩, fun ⟨k, hk, h⟩ => by subst hk; exact h⟩
  · rw [Nat.testBit_ofBits_ge _ _ (by omega)]
    exact iff_of_false (by simp) fun ⟨k, hk, _⟩ => by omega

/-! ## STATE -/

/-- The bits of the STATE register (section 1.9, "Registers"). -/
def State.statusBit (s : State) : Nat → Bool
  | 0 => decide (s.resetCtl.part = .ready)
  | 1 => decide (s.supply.power = .reserve)
  | 2 => decide (s.supply.activity = .standby)
  | 4 => decide (s.resetCtl.cause = .brownOut ∨ s.resetCtl.cause = .soft)
  | 5 => decide (s.resetCtl.cause = .pin ∨ s.resetCtl.cause = .soft)
  | 7 => s.resetCtl.reserveAtReset
  | 8 => s.custody.final
  | 9 => s.settings.admitC
  | 10 => s.settings.settingsSeen
  | 11 => s.tamper.cover.latched
  | 12 => s.tamper.field.latched
  | 13 => !s.store.fault && s.store.reclaim.isSome
  | 14 => s.store.fault
  | _ => false

theorem bitNat_eq (b : Bool) (place : Nat) : bitNat b place = 2 ^ place * b.toNat := by
  cases b <;> simp [bitNat]

theorem stateRegister_eq (s : State) :
    s.stateRegister = BitVec.ofNat 32 (Nat.ofBits fun i : Fin 15 => s.statusBit i.val) := by
  have hcause : s.resetCtl.cause.code = (s.statusBit 4).toNat + 2 * (s.statusBit 5).toNat := by
    unfold State.statusBit
    cases s.resetCtl.cause <;> rfl
  have hstore : s.store.stateCode = (s.statusBit 13).toNat + 2 * (s.statusBit 14).toNat := by
    unfold State.statusBit Store.stateCode
    cases s.store.fault <;> cases s.store.reclaim <;> rfl
  unfold State.stateRegister
  congr 1
  rw [hcause, hstore]
  simp only [bitNat_eq, Nat.ofBits, Fin.foldr_succ, Fin.foldr_zero]
  simp [State.statusBit]
  omega

theorem stateRegister_bit (s : State) (b : Nat) (hb : b < 32) : s.stateRegister.getLsbD b = s.statusBit b := by
  rw [stateRegister_eq, BitVec.getLsbD_ofNat, decide_eq_true hb, Bool.true_and]
  by_cases h15 : b < 15
  · rw [Nat.testBit_ofBits_lt _ _ h15]
  · rw [Nat.testBit_ofBits_ge _ _ (by omega)]
    interval_cases b <;> rfl

/-! ## NOTE_N -/

theorem noteLow_iff (s : State) : s.noteLow = true ↔
    (s.port.control.getLsbD 0 = true ∧ ∃ n : CardNo, s.port.doneMap.getLsbD n.val = true) ∨
      ∃ k : Fin 16, s.port.alert.getLsbD k.val = true ∧ s.port.control.getLsbD (16 + k.val) = true := by
  have hmask : ∀ k : Fin 16, (s.port.alert &&& s.port.alertMask).getLsbD k.val = true ↔
      s.port.alert.getLsbD k.val = true ∧ s.port.control.getLsbD (16 + k.val) = true := by
    intro k
    rw [BitVec.getLsbD_and, Bool.and_eq_true, Port.alertMask, BitVec.getLsbD_setWidth, BitVec.getLsbD_ushiftRight,
      decide_eq_true k.isLt, Bool.true_and]
  simp only [State.noteLow, Bool.or_eq_true, Bool.and_eq_true, bne_iff_ne, bitVec_ne_zero_iff, hmask]
  rfl

/-- Settles O10: region by region, the page by its fields and the registers by their bits. -/
theorem hostReadsAndNoteN : Obligations.HostReadsAndNoteN := by
  unfold Obligations.HostReadsAndNoteN
  intro s f shows bit latchTime
  refine ⟨fun n => ?_, fun a ha hs => hostRead_memory s ha (isStateByte_false hs), fun hp a ha ha' => ?_, fun hr => ?_,
    ⟨rfl, rfl, rfl, rfl⟩, fun b hb => ⟨hostRead_control s hb, hostRead_alert s hb⟩, fun b hb => ?_,
    fun a ha => hostRead_beyond s ha, noteLow_iff s⟩
  · rw [hostRead_stateByte]
    cases s.port.cards[n] <;> rfl
  · rw [hostRead_page s ha ha', State.pageByte, hp]
  · have field : ∀ i n v, i + n ≤ 0x200 → fieldAt s.pageFields i n = some v → shows (0x3E00 + i) n v := by
      intro i n v hin hv
      change (List.range n).map _ = _
      rw [shown_eq hr i n hin, pageBytes_eq, bytesAt_layBytes hv]
    have hlocked : shows (0x3E00 + 0xE) 1 s.lockedFlags := field 0xE 1 _ (by omega) rfl
    have hlow : s.hostRead 0x3E0E = (leBytes 1 s.lockedFlags).getD 0 0 := by
      rw [← hlocked]
      rfl
    have hzero : shows (0x3E00 + 0xF) 1 0 := field 0xF 1 _ (by omega) rfl
    refine ⟨field 0 4 _ (by omega) rfl, field 4 4 _ (by omega) rfl, field 8 4 _ (by omega) rfl,
      field 0xC 2 _ (by omega) rfl, fun b hb => ?_, field 0x10 4 _ (by omega) rfl, fun k => ?_,
      field 0x2C 4 _ (by omega) rfl, field 0x30 4 _ (by omega) rfl, field 0x34 4 _ (by omega) rfl,
      field 0x38 4 _ (by omega) rfl, field 0x3C 4 _ (by omega) rfl, field 0x40 4 _ (by omega) rfl,
      field 0x44 4 _ (by omega) rfl, field 0x48 4 _ (by omega) rfl, field 0x4C 4 _ (by omega) rfl,
      field 0x50 4 _ (by omega) rfl, field 0x54 4 _ (by omega) rfl, field 0x58 4 _ (by omega) rfl, ?_, fun a ha ha' => ?_⟩
    · rw [← lockedFlags_bit s b hb, ← hlow]
      simp only [bit, Nat.div_eq_of_lt hb, Nat.mod_eq_of_lt hb, Nat.add_zero]
    · have hk : fieldAt s.pageFields (0x14 + 4 * k.val) 4 = some (s.authority k).accepted := by
        fin_cases k <;> rfl
      have := field (0x14 + 4 * k.val) 4 _ (by omega) hk
      rwa [← Nat.add_assoc] at this
    · have h0 : s.hostRead 0x3E0F :: [] = [0] := hzero
      exact (List.cons.inj h0).1
    · rw [hostRead_page s (by omega) ha', State.pageByte, hr]
      change byteAt _ _ = _
      rw [byteAt, List.getD_eq_default _ _ (by rw [length_pageBytes]; omega)]
  · rw [show bit 0x400C b = s.stateRegister.getLsbD b from hostRead_state s hb, stateRegister_bit s b hb]
    interval_cases b <;> rfl

end Sys2Proof.Machine


/-! PROOFS about the arrival of a warm reset by SOFT_RESET and RST_N_LOW, and about its end (R20, R161, R169, R170). -/

namespace Sys2Proof.Machine

open Sys2Proof

/-! ## Arrival -/

theorem mayWarmReset_iff (s : State) :
    s.mayWarmReset = true ↔ s.resetCtl.part = .ready ∧ s.resetCtl.warmReset = false := by
  simp [State.mayWarmReset]

/-- A transaction that begins with SOFT_RESET in CONTROL stores, then starts a warm reset if one may arrive (R20). -/
theorem exec_softReset (s : State) {low : Byte} (rest : List Byte) (h : softResetOk low = true) :
    exec (.softReset low rest) s =
      .next (let stored := s.onPort fun p => p.storeBytes 0x4004 (low :: rest)
        if s.mayWarmReset = true then stored.beginWarmReset .soft else stored) := by
  have hr : requestsSoftReset 0x4004 (low :: rest) = true := by
    rw [requestsSoftReset, decide_eq_true (Nat.le_refl _), Bool.true_and]
    exact h
  rw [exec, execSoftReset, State.hostWrite,
    judgeBytes_of_no_stateByte _ _ _ fun k _ => isStateByte_register (by omega), hr]
  rfl

/-! ## The end -/

/-- The part's waking changes nothing while it is ACTIVE. -/
theorem wake_of_active {s : State} (h : s.supply.activity = .active) : s.wake = s := by
  rw [State.wake, if_neg (by simp [h])]

/-- Without a job nobody waits for a counter. -/
theorem failCounterWaiters_of_no_jobs {s : State} (h : ∀ j, s.job j = none) (a : HandleNo) :
    s.failCounterWaiters a = s := by
  unfold State.failCounterWaiters
  generalize allJobs = l
  induction l with
  | nil => rfl
  | cons j l ih => rw [List.foldl_cons, h j]; exact ih

/-- The directory asks again for the append of a handle's counter write (R71). -/
def State.asksAgain (s : State) (h : HandleNo) : Bool :=
  (s.entry h).counterPending.isSome && decide (.counter h ∉ s.store.queue)

theorem askAgain_eq (s : State) (h : HandleNo) :
    s.askAgain h = if s.asksAgain h = true then s.askAppend (.counter h) else s := by
  unfold State.askAgain State.asksAgain
  simp only [Bool.and_eq_true, decide_eq_true_eq, List.contains_eq_mem, decide_eq_false_iff_not]

/-- Out of FAULT the writes asked for again join the tail of the queue, in order (R71, R132). -/
theorem foldl_askAgain {s : State} (ha : s.supply.activity = .active) (hf : s.store.fault = false) (l : List HandleNo)
    (hl : l.Nodup) : l.foldl State.askAgain s =
      s.onStore fun t => { t with queue := s.store.queue ++ (l.filter s.asksAgain).map .counter } := by
  induction l generalizing s with
  | nil => simp [State.onStore]
  | cons h l ih =>
    obtain ⟨hh, hl⟩ := List.nodup_cons.mp hl
    rw [List.foldl_cons, askAgain_eq]
    by_cases hask : s.asksAgain h = true
    · have happend : s.askAppend (.counter h) =
          s.onStore fun t => { t with queue := s.store.queue ++ [.counter h] } := by
        rw [State.askAppend, wake_of_active ha, hf]
        rfl
      have hothers : ∀ h' ∈ l, (s.onStore fun t => { t with queue := s.store.queue ++ [.counter h] }).asksAgain h' =
          s.asksAgain h' := by
        intro h' hh'
        have hne : h' ≠ h := fun e => hh (e ▸ hh')
        unfold State.asksAgain
        simp [State.entry, hne]
      rw [if_pos hask, happend, ih (by exact ha) (by exact hf) hl, List.filter_cons_of_pos hask, List.filter_congr hothers]
      simp [State.onStore]
    · rw [if_neg hask, ih ha hf hl, List.filter_cons_of_neg hask]

/-- In FAULT, without a job in hand, each write asked for again is refused (R131). -/
theorem foldl_askAgain_fault {s : State} (ha : s.supply.activity = .active) (hf : s.store.fault = true)
    (hq : ∀ h, .counter h ∉ s.store.queue) (hj : ∀ j, s.job j = none) (l : List HandleNo) :
    l.foldl State.askAgain s = { s with directory := (l.foldl State.askAgain s).directory } ∧
      ∀ h, (l.foldl State.askAgain s).entry h =
        if h ∈ l then { s.entry h with counterPending := none } else s.entry h := by
  induction l generalizing s with
  | nil => exact ⟨rfl, fun h => by simp⟩
  | cons a l ih =>
    have hask : s.askAgain a = s.onEntry a fun e => { e with counterPending := none } := by
      rw [askAgain_eq]
      by_cases h : s.asksAgain a = true
      · rw [if_pos h, State.askAppend, wake_of_active ha, hf]
        exact failCounterWaiters_of_no_jobs (s := s.onEntry a fun e => { e with counterPending := none }) hj a
      · have hnone : (s.entry a).counterPending = none := by
          simpa [State.asksAgain, hq a] using h
        have hsame : ({ s.entry a with counterPending := none } : HandleEntry) = s.entry a := by rw [← hnone]
        rw [if_neg h, State.onEntry]
        change s = { s with directory := s.directory.set a ({ s.entry a with counterPending := none } : HandleEntry) }
        rw [hsame, State.entry, Fin.getElem_fin, Vector.set_getElem_self]
    obtain ⟨hstate, hentries⟩ := ih (s := s.askAgain a) (by rw [hask]; exact ha) (by rw [hask]; exact hf)
      (by rw [hask]; exact hq) (by rw [hask]; exact hj)
    refine ⟨?_, fun h => ?_⟩
    · rw [List.foldl_cons, hstate, hask]
      rfl
    · rw [List.foldl_cons, hentries h, hask, State.entry_onEntry]
      by_cases hah : a = h
      · subst hah
        simp
      · have : ¬h = a := fun e => hah e.symm
        simp [hah, this]

/-- What WARM_RESET_END does where the reset can end: RESET_DONE, an abandoned reclaim over, counter writes asked for again
(R71, R170). -/
theorem exec_warmResetEnd {s : State} (hw : s.resetCtl.warmReset = true) (hp : s.store.program = none)
    (hr : s.store.retry = none) : exec (.warmResetEnd true) s = .next (allHandles.foldl State.askAgain
      { s with
        resetCtl := { s.resetCtl with rstHigh := true, warmReset := false }
        port := { s.port with alert := s.port.alert ||| alertResetDone }
        store := { s.store with
          reclaim := if s.store.reclaim.any (·.abandoned) then none else s.store.reclaim } }) := by
  have hfree : s.store.circuitFree = true := by rw [Store.circuitFree, hp, hr]; rfl
  rw [exec, execWarmResetEnd]
  simp only [State.onReset_resetCtl, State.onReset_store, hw, hfree, Bool.and_self, if_true]
  rfl

/-- Settles O14: the arrival by what CONTROL stores, the end by the fold of the asks. -/
theorem warmResetArrivesAndEnds : Obligations.WarmResetArrivesAndEnds := by
  unfold Obligations.WarmResetArrivesAndEnds
  refine ⟨fun s low rest hlow hlen => ?_, fun s hw => ?_⟩
  · obtain ⟨c, hc, hbits⟩ := storeBytes_control s.port 0 (low :: rest) (by rw [List.length_cons]; omega)
    refine ⟨c, fun b hb => ?_, ?_⟩
    · rw [hbits b hb]
      simp
    · intro stored held
      have hsoft : exec (.softReset low rest) s =
          .next (if s.mayWarmReset = true then stored.beginWarmReset .soft else stored) := by
        have hstored : (s.onPort fun p => p.storeBytes 0x4004 (low :: rest)) = stored := by
          rw [State.onPort, hc]
          rfl
        rw [exec_softReset s rest hlow, hstored]
      have hpin : exec .rstNLow s = .next (if s.mayWarmReset = true then held.beginWarmReset .pin else held) := rfl
      rw [hsoft, hpin]
      refine ⟨fun h1 h2 => ?_, fun h => ?_⟩
      · have hmay := (mayWarmReset_iff s).mpr ⟨h1, h2⟩
        rw [if_pos hmay, if_pos hmay]
        exact ⟨rfl, rfl⟩
      · have hmay : ¬s.mayWarmReset = true := by
          rw [mayWarmReset_iff]
          rintro ⟨h1, h2⟩
          rcases h with h | h <;> simp_all
        rw [if_neg hmay, if_neg hmay]
        exact ⟨rfl, rfl⟩
  · intro queue asked left ended
    have hhandles : allHandles.Nodup := List.nodup_finRange 48
    refine ⟨fun hp hr ha => ?_, ?_, fun hbusy => ?_⟩
    · rw [exec_warmResetEnd hw hp hr]
      refine ⟨fun hf => ?_, fun hf hq hj => ⟨_, rfl, ?_⟩⟩
      · exact congrArg _ (foldl_askAgain (s := ended) ha hf allHandles hhandles)
      · obtain ⟨h1, h2⟩ := foldl_askAgain_fault (s := ended) ha hf hq hj allHandles
        refine ⟨h1, fun h => (h2 h).trans ?_⟩
        rw [if_pos (show h ∈ allHandles from List.mem_finRange h)]
        rfl
    · rw [exec, execWarmResetEnd]
      simp
    · have hfree : s.store.circuitFree = false := by
        unfold Store.circuitFree
        rcases hbusy with h | h
        · cases hx : s.store.program
          · simp [hx] at h
          · rfl
        · cases hx : s.store.retry
          · simp [hx] at h
          · simp
      rw [exec, execWarmResetEnd]
      simp [hfree]

end Sys2Proof.Machine


/-! PROOFS about cold starts: what COLD_START leaves, and that no command but the end of the scan fills what the scan is to
fill (R161, R162). -/

namespace Sys2Proof.Machine

open Sys2Proof

/-! ## Rows of the array -/

theorem rowAt_setRow (a : RowArray) (l l' : Location) (r : Row) :
    rowAt (setRow a l r) l' = if l = l' then r else rowAt a l' := by
  obtain ⟨b, n⟩ := l
  obtain ⟨b', n'⟩ := l'
  have hbank : (setRow a ⟨b, n⟩ r)[b'] = if b = b' then a[b].set n r else a[b'] := getElem_set_fin a b b' _
  change (setRow a ⟨b, n⟩ r)[b'][n'] = _
  rw [hbank]
  by_cases hb : b = b'
  · subst hb
    rw [if_pos rfl]
    simpa [rowAt] using getElem_set_fin a[b] n n' r
  · simp [hb, rowAt]

/-- An erase leaves the rows of the other banks. -/
theorem rowAt_eraseRows (a : RowArray) {b : BankNo} (f : Nat → RowResidue) {l : Location} (h : b ≠ l.bank) :
    rowAt (eraseRows a b f) l = rowAt a l := by
  simp only [rowAt, eraseRows, getElem_set_fin, if_neg h]

/-- What a power loss leaves of the array, but for the row in program and the bank in erasure. -/
theorem rowAt_arrayAfterPowerLoss (s : State) (residue : ProgramResidue) {l : Location}
    (hp : ∀ p, s.store.program = some p → p.location ≠ l) (he : s.store.erase ≠ some l.bank) :
    rowAt (s.arrayAfterPowerLoss residue) l = rowAt s.store.array l := by
  have hbank : ∀ a : RowArray, rowAt (match s.store.erase with
      | some b => eraseRows a b (Config.abandonedEraseRow s.freeDraws)
      | none => a) l = rowAt a l := by
    intro a
    cases herase : s.store.erase with
    | none => rfl
    | some b => exact rowAt_eraseRows _ _ fun e => he (by rw [herase, e])
  refine (hbank _).trans ?_
  cases hprogram : s.store.program with
  | none => rfl
  | some p => cases residue <;> simp [rowAt_setRow, hp p hprogram]

/-! ## What the scan is to fill -/

/-- The blocks that tell that a scan is due are the same in two states. -/
structure SameScan (s t : State) : Prop where
  part : t.resetCtl.part = s.resetCtl.part := by rfl
  store : t.store = s.store := by rfl
  directory : t.directory = s.directory := by rfl
  authorities : t.authorities = s.authorities := by rfl
  custody : t.custody = s.custody := by rfl
  tamper : t.tamper = s.tamper := by rfl
  engine : t.engine = s.engine := by rfl
  cipher : t.cipher = s.cipher := by rfl
  slots : t.slots = s.slots := by rfl

theorem SameScan.trans {s t u : State} (h : SameScan s t) (k : SameScan t u) : SameScan s u where
  part := k.part.trans h.part
  store := k.store.trans h.store
  directory := k.directory.trans h.directory
  authorities := k.authorities.trans h.authorities
  custody := k.custody.trans h.custody
  tamper := k.tamper.trans h.tamper
  engine := k.engine.trans h.engine
  cipher := k.cipher.trans h.cipher
  slots := k.slots.trans h.slots

theorem SameScan.scanDue {s t : State} (k : SameScan s t) (h : s.ScanDue) : t.ScanDue := by
  obtain ⟨h1, h2, h3, h4, h5, h6, h7, h8, h9⟩ := h
  refine ⟨k.part.trans h1, by rw [k.store]; exact h2, fun a => ?_, fun a => ?_, k.custody.trans h5, k.tamper.trans h6,
    k.engine.trans h7, k.cipher.trans h8, k.slots.trans h9⟩
  · rw [State.entry_congr k.directory]
    exact h3 a
  · rw [State.authority, k.authorities]
    exact h4 a

theorem cold_scanDue (cause : ResetCause) (a : RowArray) (pending : List Instr) (draws : Nat) :
    (State.cold cause a pending draws).ScanDue :=
  ⟨rfl, rfl, fun h => by simp [State.cold, State.entry], fun k => by simp [State.cold, State.authority],
    rfl, rfl, rfl, rfl, rfl⟩

theorem cold_noteLow (cause : ResetCause) (a : RowArray) (pending : List Instr) (draws : Nat) :
    (State.cold cause a pending draws).noteLow = false := by
  simp [State.noteLow, State.cold, Port.cold]

/-! ## Commands while a scan is due -/

/-- The commands that change nothing while a scan is due. -/
def idlesInScan : Instr → Bool
  | .takeOpen | .takeClose | .takeSign | .takeCheck | .takeQuery | .takePackage | .takeTime | .takeSettings | .takeWindows
  | .kindUnknownRefusal | .rowReadStart _ | .keyRowReadEnd _ _ | .slotUnwrapEnd | .signOperationEnd | .tagComparisonEnd
  | .decipherEnd | .wipeCompletion _ | .idleClose _ | .packageTagCheckEnd | .stageUnwrapEnd | .appendStart | .retryStart
  | .appendCompletion | .appendAbandonment | .reclaimStart | .copyRowStart | .foldReadEnd _ | .eraseStart
  | .eraseCompletion _ | .timeMarkDue | .tamperLatch _ | .standbyEntry => true
  | _ => false

section Due

variable {s : State} (h : s.ScanDue)

include h

theorem ScanDue.part : s.resetCtl.part = .starting := h.1

theorem ScanDue.store : s.store = Store.cold s.store.array := h.2.1

theorem ScanDue.slotState (i : SlotId) : s.slotState i = .empty := by
  obtain ⟨-, -, -, -, -, -, -, -, hslots⟩ := h
  cases i with
  | host i => simp [State.slotState, State.slot, hslots]
  | package => simp [State.slotState, hslots]

theorem ScanDue.running : s.cipher.running = none := by
  obtain ⟨-, -, -, -, -, -, -, hcipher, -⟩ := h
  rw [hcipher]

theorem ScanDue.nextTake : s.nextTake = none := by
  have hruns : s.intakeRuns = false := by simp [State.intakeRuns, ScanDue.part h]
  rw [State.nextTake, hruns]
  rfl

theorem ScanDue.eraseBank : s.eraseBank = none := by
  unfold State.eraseBank
  rw [ScanDue.store h]
  have hbanks : ∀ b : BankNo, (Store.cold s.store.array).banks[b] = .erased := by simp [Store.cold]
  have hnone : ∀ l : List BankNo, l.find? (fun _ => false) = none := fun l => List.find?_eq_none.mpr (by simp)
  simp [hbanks, hnone]

theorem ScanDue.mayWarmReset : s.mayWarmReset = false := by simp [State.mayWarmReset, ScanDue.part h]

theorem ScanDue.storeRuns : s.storeRuns = false := by simp [State.storeRuns, ScanDue.part h]

/-- No job, key, operation or record is in hand, and the part is not READY: these commands find nothing to do. -/
theorem ScanDue.idles {c : Instr} (hc : idlesInScan c = true) : exec c s = .next s := by
  have hpart := ScanDue.part h
  have htake := ScanDue.nextTake h
  have hkind : ∀ k course, s.takeKind k course = s := fun k course => by rw [State.takeKind, htake]
  have hslot := ScanDue.slotState h
  have hrun := ScanDue.running h
  have hruns := ScanDue.storeRuns h
  have hprogram : s.store.program = none := by rw [ScanDue.store h]; rfl
  have herase : s.store.erase = none := by rw [ScanDue.store h]; rfl
  have hcopy : s.store.copyStage = none := by rw [ScanDue.store h]; rfl
  cases c with
  | takeOpen => exact congrArg _ (hkind _ _)
  | takeClose => exact congrArg _ (hkind _ _)
  | takeSign => exact congrArg _ (hkind _ _)
  | takeCheck => exact congrArg _ (hkind _ _)
  | takeQuery => exact congrArg _ (hkind _ _)
  | takePackage => exact congrArg _ (hkind _ _)
  | takeTime => exact congrArg _ (hkind _ _)
  | takeSettings => exact congrArg _ (hkind _ _)
  | takeWindows => exact congrArg _ (hkind _ _)
  | kindUnknownRefusal => simp only [exec, execKindUnknownRefusal, htake]
  | rowReadStart reader =>
    cases reader with
    | slot i => simp only [exec, execRowReadStart, State.slotReadStart, hslot]
    | fold => simp only [exec, execRowReadStart, State.foldReadStart, hcopy]
  | keyRowReadEnd i crcOk => simp only [exec, execKeyRowReadEnd, State.keyRowRead, hslot]
  | slotUnwrapEnd => simp only [exec, execSlotUnwrapEnd, hrun]
  | signOperationEnd => simp only [exec, execSignOperationEnd, hrun]
  | tagComparisonEnd => simp only [exec, execTagComparisonEnd, hrun]
  | decipherEnd => simp only [exec, execDecipherEnd, hrun]
  | wipeCompletion i => simp only [exec, execWipeCompletion, hslot]
  | idleClose i => simp [exec, execIdleClose, State.wipe, hslot]
  | packageTagCheckEnd => simp only [exec, execPackageTagCheckEnd, hrun]
  | stageUnwrapEnd => simp only [exec, execStageUnwrapEnd, hrun]
  | appendStart => simp [exec, execAppendStart, State.appendReady, hruns]
  | retryStart => simp [exec, execRetryStart, State.retryReady, hpart]
  | appendCompletion => simp only [exec, execAppendCompletion, hprogram]
  | appendAbandonment => simp only [exec, execAppendAbandonment, hprogram]
  | reclaimStart => simp [exec, execReclaimStart, State.reclaimDue, hruns]
  | copyRowStart => simp [exec, execCopyRowStart, State.copyRowReady, hruns]
  | foldReadEnd crcOk => simp only [exec, execFoldReadEnd, hcopy]
  | eraseStart => simp only [exec, execEraseStart, ScanDue.eraseBank h]
  | eraseCompletion residue => simp only [exec, execEraseCompletion, herase]
  | timeMarkDue => simp [exec, execTimeMarkDue, State.timeMarkDue, hpart]
  | tamperLatch i => simp [exec, execTamperLatch, State.latchDue, hpart]
  | standbyEntry => simp [exec, execStandbyEntry, hpart]
  | _ => cases hc

/-! The others change the port, the supply, the clock or the reset control alone. -/

omit h in
theorem SameScan.wake (s : State) : SameScan s s.wake := by
  unfold State.wake
  split <;> exact {}

omit h in
theorem SameScan.judgeBytes (s : State) (a : Nat) (bytes : List Byte) : SameScan s (s.judgeBytes a bytes) := by
  induction bytes generalizing s a with
  | nil => exact {}
  | cons v vs ih =>
    refine SameScan.trans (?_ : SameScan s _) (ih _ (a + 1))
    split
    · exact (SameScan.wake s).trans {}
    · exact {}

theorem SameScan.hostWrite (a : Nat) (bytes : List Byte) : SameScan s (s.hostWrite a bytes) := by
  rw [hostWrite_of_no_reset s a bytes fun hr => by simp [ScanDue.mayWarmReset h] at hr]
  exact SameScan.trans (t := s.onPort fun p => p.storeBytes a bytes) {} (SameScan.judgeBytes _ _ _)

/-- A change of the power state finds no erase to abandon. -/
theorem SameScan.setPower (p : Power) : SameScan s (s.setPower p) := by
  unfold State.setPower
  split
  · have herase : s.store.erase = none := by rw [ScanDue.store h]; rfl
    have hstore : s.store.cancelErasing.endErasePhase = s.store := by rw [ScanDue.store h]; rfl
    unfold State.abandonErases State.abandonErase
    simp only [State.onSupply_store, herase]
    exact { store := hstore }
  · exact {}

theorem ScanDue.second : mapVector Slot.second s.slots.host = s.slots.host := by
  obtain ⟨-, -, -, -, -, -, -, -, hslots⟩ := h
  rw [hslots]
  rfl

/-- While a scan is due the end of a warm reset asks for nothing. -/
theorem SameScan.warmResetEnd (rstHigh : Bool) {t : State} (ht : exec (.warmResetEnd rstHigh) s = .next t) :
    SameScan s t := by
  obtain rfl := Host.Outcome.next.inj ht
  have hreclaim : s.store.reclaim = none := by rw [ScanDue.store h]; rfl
  have hfold : ∀ (l : List HandleNo) (u : State), u.directory = s.directory → l.foldl State.askAgain u = u := by
    intro l
    induction l with
    | nil => exact fun _ _ => rfl
    | cons a l ih =>
      intro u hu
      have hask : u.asksAgain a = false := by
        rw [State.asksAgain, State.entry_congr hu, h.2.2.1 a]
        rfl
      rw [List.foldl_cons, askAgain_eq, hask]
      exact ih u hu
  split
  · dsimp only
    rw [hfold]
    · have hkept : (if s.store.reclaim.any (·.abandoned) then none else s.store.reclaim) = s.store.reclaim := by
        rw [hreclaim]
        rfl
      refine { store := ?_ }
      change { s.store with reclaim := if s.store.reclaim.any (·.abandoned) then none else s.store.reclaim } = s.store
      rw [hkept]
    · rfl
  · exact {}

/-- Every command but a cold start and the end of the scan leaves the blocks that the scan is to fill. -/
theorem ScanDue.exec_same {c : Instr} (hcold : ∀ a b, c ≠ .coldStart a b) (hscan : c ≠ .scanEnd) {t : State}
    (ht : exec c s = .next t) : SameScan s t := by
  by_cases hidle : idlesInScan c = true
  · rw [ScanDue.idles h hidle] at ht
    obtain rfl := Host.Outcome.next.inj ht
    exact {}
  have hpart := ScanDue.part h
  cases c with
  | coldStart a b => exact absurd rfl (hcold a b)
  | scanEnd => exact absurd rfl hscan
  | post | withdraw | returnCard | cardFault | hostMemoryWrite | controlWrite | softReset | alertClear
  | registerWriteDiscarded =>
    obtain rfl := Host.Outcome.next.inj ht
    exact SameScan.hostWrite h _ _
  | timeBaseSecond =>
    obtain rfl := Host.Outcome.next.inj ht
    split
    · exact { slots := by rw [State.onTime_slots, State.onSlots_slots, ScanDue.second h] }
    · exact {}
  | driftCreditAccrual =>
    obtain rfl := Host.Outcome.next.inj ht
    split <;> exact {}
  | powerStateChange =>
    obtain rfl := Host.Outcome.next.inj ht
    rw [hpart]
    split
    · exact SameScan.setPower h _
    · exact {}
  | initialPowerState =>
    obtain rfl := Host.Outcome.next.inj ht
    split
    · have hpower := SameScan.scanDue (t := s.onSupply fun p => { p with powerSet := true }) {} h
      exact SameScan.trans (SameScan.trans (t := s.onSupply fun p => { p with powerSet := true }) {}
        (SameScan.setPower hpower _)) {}
    · exact {}
  | standbyWake =>
    obtain rfl := Host.Outcome.next.inj ht
    split
    · exact SameScan.wake s
    · exact {}
  | rstNLow =>
    obtain rfl := Host.Outcome.next.inj ht
    have hmay : (s.onReset fun r => { r with rstHigh := false }).mayWarmReset = false := by
      simp [State.mayWarmReset, hpart]
    rw [hmay]
    exact {}
  | warmResetEnd rstHigh => exact SameScan.warmResetEnd h rstHigh ht
  | timeBaseMilliTick cover field pfail =>
    obtain rfl := Host.Outcome.next.inj ht
    rw [hpart]
    exact {}
  | _ => exact absurd rfl hidle

end Due

/-- Settles O16: the cold state by evaluation, the array by the rows that stand, the rest by `ScanDue.exec_same`. -/
theorem coldStartBeginsStarting : Obligations.ColdStartBeginsStarting := by
  unfold Obligations.ColdStartBeginsStarting
  refine ⟨fun s cause residue => ?_, fun c s t hscan h ht => ?_⟩
  · refine ⟨_, rfl, cold_scanDue _ _ _ _, rfl, ?_, fun n => ?_, rfl, rfl, rfl, rfl, rfl, cold_noteLow _ _ _ _, rfl, rfl, rfl,
      rfl, rfl, rfl, rfl, fun l hp he => rowAt_arrayAfterPowerLoss s residue hp he⟩
    · cases cause <;> rfl
    · simp [State.cold, Port.cold]
  · by_cases hcold : ∃ a b, c = .coldStart a b
    · obtain ⟨a, b, rfl⟩ := hcold
      obtain rfl := Host.Outcome.next.inj ht
      exact ⟨cold_scanDue _ _ _ _, fun hne => absurd rfl (hne a b)⟩
    · have hsame := ScanDue.exec_same h (fun a b e => hcold ⟨a, b, e⟩) hscan ht
      exact ⟨hsame.scanDue h, fun _ => hsame.store⟩

end Sys2Proof.Machine


/-! PROOFS that the laws hold right after reset, and when the first scan has ended. -/

namespace Sys2Proof.Machine

open Sys2Proof

/-! ## Entries and stores in which little stands -/

/-- The entry has a lawful current generation or none, no other generation and no counter write. -/
def HandleEntry.plainlyLawful (e : HandleEntry) : Bool :=
  e.staged.isNone && e.retiring.isNone && e.counterPending.isNone && e.counterFlight.isNone &&
    e.current.all fun c => decide (c.txNext ≤ c.txCeiling ∧ c.txCeiling ≤ c.signLimit ∧ c.gen ≤ e.highestGen)

theorem HandleEntry.law_of_plainlyLawful {e : HandleEntry} (h : e.plainlyLawful = true) : e.Law := by
  simp only [HandleEntry.plainlyLawful, Bool.and_eq_true, Option.isNone_iff_eq_none, Option.all_eq_true,
    decide_eq_true_eq] at h
  obtain ⟨⟨⟨⟨hs, hr⟩, hp⟩, hf⟩, hc⟩ := h
  exact ⟨hc, by simp [hs], by simp [hr], by simp [hp], by simp [hf]⟩

/-- The store has no record, no erase and no reclaim in hand, and nothing queued. -/
def Store.restful (t : Store) : Bool :=
  t.program.isNone && t.retry.isNone && t.erase.isNone && t.reclaim.isNone && t.queue.isEmpty

theorem Store.restful_iff (t : Store) : t.restful = true ↔
    t.program = none ∧ t.retry = none ∧ t.erase = none ∧ t.reclaim = none ∧ t.queue = [] := by
  simp [Store.restful, and_assoc]

theorem Store.not_holdsRecordOf {t : Store} (h : t.restful = true) (r : Requester) : ¬t.holdsRecordOf r := by
  obtain ⟨hp, hr, -⟩ := t.restful_iff.mp h
  simp [Store.holdsRecordOf, hp, hr]

theorem Store.law_of_restful {t : Store} (h : t.restful = true) (hhead : ∀ b : BankNo, t.banks[b] = .head ↔ b = t.headBank)
    (happend : t.appendPos < 64) (herased : 12 ≤ t.erasedRows) : t.Law := by
  obtain ⟨hp, hr, he, hc, hq⟩ := t.restful_iff.mp h
  exact ⟨hhead, happend, herased, by simp [hp], fun _ => ⟨hp, hr⟩, by simp [he], by simp [hc],
    fun b hb => absurd hb (Store.not_holdsRecordOf h _), by simp [hq]⟩

theorem directoryLaw_of_plainlyLawful {s : State} (h : s.directory.toList.all (·.plainlyLawful) = true)
    (hs : s.store.restful = true) : s.DirectoryLaw := by
  obtain ⟨hp, hr, -, -, hq⟩ := s.store.restful_iff.mp hs
  refine ⟨fun a => HandleEntry.law_of_plainlyLawful (List.all_eq_true.mp h _ ?_),
    fun a ha => absurd ha (Store.not_holdsRecordOf hs _), fun _ => hr, by simp [hq]⟩
  rw [State.entry, Fin.getElem_fin, ← Vector.getElem_toList]
  exact List.getElem_mem (by simp)

/-! ## The first scan -/

/-- The part when the first scan has ended. -/
def State.afterFirstScan : State := State.reset.rebuilt.enterReady

theorem afterFirstScan_directory : State.afterFirstScan.directory.toList.all (·.plainlyLawful) = true := by
  decide +kernel

theorem afterFirstScan_restful : State.afterFirstScan.store.restful = true := by decide +kernel

theorem afterFirstScan_head : (∀ b : BankNo, State.afterFirstScan.store.banks[b] = .head ↔
      b = State.afterFirstScan.store.headBank) ∧
    State.afterFirstScan.store.appendPos < 64 ∧ 12 ≤ State.afterFirstScan.store.erasedRows := by
  decide +kernel

/-- Settles O4: the cold part by its lemmas, the first scan by evaluation of the factory rows. -/
theorem lawsHoldAtReset : Obligations.LawsHoldAtReset := by
  unfold Obligations.LawsHoldAtReset
  have hstore : State.reset.store.restful = true := rfl
  have hdirectory : State.reset.directory.toList.all (·.plainlyLawful) = true := by decide +kernel
  obtain ⟨hhead, happend, herased⟩ := afterFirstScan_head
  refine ⟨(exchangeLaw_iff _).mpr (cold_law _ _ _ _), ⟨rfl, BitVec.zero_and⟩, by unfold State.TimeLaw; decide,
    (fun h => by cases h),
    directoryLaw_of_plainlyLawful hdirectory hstore, State.afterFirstScan, rfl, rfl, fun _ => ?_,
    directoryLaw_of_plainlyLawful afterFirstScan_directory afterFirstScan_restful⟩
  exact Store.law_of_restful afterFirstScan_restful hhead happend herased

end Sys2Proof.Machine


/-! PROOFS about what a warm reset leaves: the completions of the aborted jobs, the cut write lists and queue, and the
abandoned erase and COPY (R9, R12, R36, R71, R140, R169). -/

namespace Sys2Proof.Machine

open Sys2Proof

/-! ## The completions of the aborted jobs -/

/-- The port after job `x` is completed ABORTED_BY_RESET (R12, R36). -/
def Port.aborted (p : Port) (x : Job) : Port :=
  p.completed x.card (resultFields x.kind) x.notify .abortedByReset 0 0 [] 0 []

/-- The jobs in hand, in the order of their records. -/
def State.jobsInHand (s : State) : List Job := allJobs.filterMap s.job

theorem mem_allJobs (j : JobId) : j ∈ allJobs := by
  revert j
  decide

theorem mem_jobsInHand {s : State} {x : Job} : x ∈ s.jobsInHand ↔ ∃ j, s.job j = some x := by
  simp [State.jobsInHand, List.mem_filterMap, mem_allJobs]

/-- The jobs in hand hold different cards (R27). -/
theorem jobsInHand_cards {s : State} (h : s.RecordLaw) : s.jobsInHand.Pairwise fun x y => x.card ≠ y.card := by
  have hnodup : allJobs.Nodup := by decide
  rw [State.jobsInHand, List.pairwise_filterMap]
  refine List.Pairwise.imp (fun {j j'} hne x hx y hy e => ?_) hnodup
  exact hne (h.2 j j' x y hx hy e)

/-- Aborting the jobs changes the port alone. -/
theorem abortAll_eq (s : State) :
    allJobs.foldl State.abortJob s = { s with port := s.jobsInHand.foldl Port.aborted s.port } := by
  have key : ∀ (l : List JobId) (p : Port), l.foldl State.abortJob { s with port := p } =
      { s with port := (l.filterMap s.job).foldl Port.aborted p } := by
    intro l
    induction l with
    | nil => exact fun _ => rfl
    | cons j l ih =>
      intro p
      rw [List.foldl_cons, List.filterMap_cons, State.abortJob]
      change l.foldl State.abortJob (match s.job j with
        | none => { s with port := p }
        | some x => _) = _
      cases hx : s.job j with
      | none => exact ih p
      | some x => exact ih (p.aborted x)
  exact key allJobs s.port

/-- A counter of the status page after `k` further counts (R23). -/
def raised (n k : Nat) : Nat := if k = 0 then n else min (n + k) 0xFFFFFFFF

theorem raised_bump (n k : Nat) : raised (bump32 n) k = raised n (k + 1) := by
  unfold raised bump32
  rw [if_neg (Nat.succ_ne_zero k)]
  split <;> omega

theorem aborted_eq (p : Port) (x : Job) : p.aborted x = { p with
    memory := completionMemory p.memory x.card (resultFields x.kind) .abortedByReset 0 [] 0 []
    cards := p.cards.set x.card .done
    doneMap := if x.notify then p.doneMap ||| (1 <<< x.card.val) else p.doneMap
    figures := { p.figures with
      jobsRefusedM := if cardGroup x.card = .m then bump32 p.figures.jobsRefusedM else p.figures.jobsRefusedM
      jobsRefusedC := if cardGroup x.card = .c then bump32 p.figures.jobsRefusedC else p.figures.jobsRefusedC } } := by
  have hcount : p.figures.count (cardGroup x.card) .abortedByReset = { p.figures with
      jobsRefusedM := if cardGroup x.card = .m then bump32 p.figures.jobsRefusedM else p.figures.jobsRefusedM
      jobsRefusedC := if cardGroup x.card = .c then bump32 p.figures.jobsRefusedC else p.figures.jobsRefusedC } := by
    cases cardGroup x.card <;> rfl
  have halert : p.alert ||| (0 : BitVec 16) ||| 0 = p.alert := by simp
  unfold Port.aborted Port.completed
  rw [hcount, halert]

/-- What the completions change of the port, and how they count. -/
theorem abortedAll_eq (l : List Job) (p : Port) : l.foldl Port.aborted p = { p with
    memory := (l.foldl Port.aborted p).memory
    cards := (l.foldl Port.aborted p).cards
    doneMap := (l.foldl Port.aborted p).doneMap
    figures := { p.figures with
      jobsRefusedM := raised p.figures.jobsRefusedM (l.countP fun x => cardGroup x.card = .m)
      jobsRefusedC := raised p.figures.jobsRefusedC (l.countP fun x => cardGroup x.card = .c) } } := by
  induction l generalizing p with
  | nil => rfl
  | cons x l ih =>
    rw [List.foldl_cons, ih (p.aborted x), aborted_eq]
    cases hg : cardGroup x.card <;> simp [hg, raised_bump]

theorem abortedAll_cards (l : List Job) (p : Port) (n : CardNo) :
    (l.foldl Port.aborted p).cards[n] = if ∃ x ∈ l, x.card = n then .done else p.cards[n] := by
  induction l generalizing p with
  | nil => simp
  | cons x l ih =>
    have hx : (p.aborted x).cards[n] = if x.card = n then .done else p.cards[n] := getElem_set_fin _ _ _ _
    rw [List.foldl_cons, ih, hx]
    by_cases h1 : ∃ y ∈ l, y.card = n
    · have h2 : ∃ y ∈ x :: l, y.card = n := by
        obtain ⟨y, hy, e⟩ := h1
        exact ⟨y, List.mem_cons_of_mem x hy, e⟩
      rw [if_pos h1, if_pos h2]
    · rw [if_neg h1]
      by_cases h2 : x.card = n
      · rw [if_pos h2, if_pos ⟨x, List.mem_cons_self, h2⟩]
      · rw [if_neg h2, if_neg]
        rintro ⟨y, hy, e⟩
        rcases List.mem_cons.mp hy with rfl | hy
        · exact h2 e
        · exact h1 ⟨y, hy, e⟩

theorem abortedAll_doneMap (l : List Job) (p : Port) (n : CardNo) : (l.foldl Port.aborted p).doneMap.getLsbD n.val = true ↔
    p.doneMap.getLsbD n.val = true ∨ ∃ x ∈ l, x.card = n ∧ x.notify = true := by
  induction l generalizing p with
  | nil => simp
  | cons x l ih =>
    have hx : (p.aborted x).doneMap.getLsbD n.val = true ↔
        p.doneMap.getLsbD n.val = true ∨ (x.card = n ∧ x.notify = true) := by
      rw [aborted_eq]
      cases x.notify
      · simp
      · rw [if_pos rfl, getLsbD_or_single]
        simp only [Bool.or_eq_true, decide_eq_true_eq, and_true, eq_comm (a := n)]
        exact or_comm
    rw [List.foldl_cons, ih, hx, or_assoc]
    simp only [List.mem_cons, exists_eq_or_imp]

/-- The bytes that the completion of an aborted job writes: its status and notes, and its result fields. -/
def Job.writesAt (x : Job) (y : Nat) : Prop := (cardBase x.card + 8 ≤ y ∧ y < cardBase x.card + 12) ∨
  ∃ f ∈ resultFields x.kind, cardBase x.card + f.1 ≤ y ∧ y < cardBase x.card + f.1 + f.2

/-- They lie in the job's card. -/
theorem Job.writesAt_card {x : Job} {y : Nat} (h : x.writesAt y) : cardBase x.card ≤ y ∧ y < cardBase x.card + 256 := by
  rcases h with h | ⟨f, hf, h⟩
  · omega
  · have := ((resultFields_apart x.kind).2 f hf).2
    omega

/-- Jobs on different cards write different bytes. -/
theorem Job.writesAt_apart {x x' : Job} (hne : x.card ≠ x'.card) {y : Nat} (h : x.writesAt y) : ¬x'.writesAt y := by
  intro h'
  have h1 := Job.writesAt_card h
  have h2 := Job.writesAt_card h'
  refine hne (Fin.ext ?_)
  unfold cardBase at h1 h2
  omega

theorem aborted_frame {p : Port} (hp : Memory.wf p.memory = true) {x : Job} {y : Nat} (h : ¬x.writesAt y) :
    Memory.read (p.aborted x).memory y = Memory.read p.memory y :=
  completion_frame hp x.card x.kind .abortedByReset 0 [] 0 [] (fun hh => h (.inl hh)) (fun f hf hh => h (.inr ⟨f, hf, hh⟩))
    fun hh => by cases hh.1.1

theorem aborted_wf {p : Port} (hp : Memory.wf p.memory = true) (x : Job) : Memory.wf (p.aborted x).memory = true :=
  completionMemory_wf x.card (resultFields x.kind) .abortedByReset 0 [] 0 [] hp

theorem abortedAll_frame (l : List Job) {p : Port} (hp : Memory.wf p.memory = true) {y : Nat}
    (h : ∀ x ∈ l, ¬x.writesAt y) : Memory.read (l.foldl Port.aborted p).memory y = Memory.read p.memory y := by
  induction l generalizing p with
  | nil => rfl
  | cons x l ih =>
    rw [List.foldl_cons, ih (aborted_wf hp x) fun z hz => h z (List.mem_cons_of_mem x hz),
      aborted_frame hp (h x List.mem_cons_self)]

/-- The bytes that a job writes stand as its own completion leaves them. -/
theorem abortedAll_read {l : List Job} (hl : l.Pairwise fun x y => x.card ≠ y.card) {p : Port}
    (hp : Memory.wf p.memory = true) {x : Job} (hx : x ∈ l) : ∃ q : Port, Memory.wf q.memory = true ∧
      ∀ y, x.writesAt y → Memory.read (l.foldl Port.aborted p).memory y = Memory.read (q.aborted x).memory y := by
  induction l generalizing p with
  | nil => cases hx
  | cons z l ih =>
    obtain ⟨hz, hl⟩ := List.pairwise_cons.mp hl
    rcases List.mem_cons.mp hx with rfl | hx
    · exact ⟨p, hp, fun y hy => abortedAll_frame l (aborted_wf hp x) fun w hw => Job.writesAt_apart (hz w hw) hy⟩
    · exact ih hl (aborted_wf hp z) hx

theorem leBytes_zero (k : Nat) : leBytes k 0 = List.replicate k 0 := by
  induction k with
  | zero => rfl
  | succ k ih => rw [leBytes, Nat.zero_div, ih, List.replicate_succ]; rfl

/-- Without values every field is laid out as zeros. -/
theorem layFields_nil (fields : List (Nat × Nat)) :
    layFields fields [] = fields.map fun f => (f.1, List.replicate f.2 0) := by
  induction fields with
  | nil => rfl
  | cons f fs ih => rw [layFields, ih, List.map_cons, leBytes_zero]

/-- An aborted job shows its status without notes (R12). -/
theorem aborted_header {p : Port} (hp : Memory.wf p.memory = true) (x : Job) :
    Memory.readBytes (p.aborted x).memory (cardBase x.card + 8) 4 = [0x05, 0x01, 0, 0] :=
  completion_header hp x.card x.kind .abortedByReset 0 [] 0 []

/-- An aborted job shows zero result fields (R10). -/
theorem aborted_result {p : Port} (hp : Memory.wf p.memory = true) (x : Job) {f : Nat × Nat} (hf : f ∈ resultFields x.kind)
    {y : Nat} (hy : cardBase x.card + f.1 ≤ y ∧ y < cardBase x.card + f.1 + f.2) :
    Memory.read (p.aborted x).memory y = 0 := by
  have hmem : (f.1, List.replicate f.2 (0 : Byte)) ∈ layFields (resultFields x.kind) [] := by
    rw [layFields_nil]
    exact List.mem_map_of_mem hf
  have h : Memory.readBytes (p.aborted x).memory (cardBase x.card + f.1) (List.replicate f.2 (0 : Byte)).length =
      List.replicate f.2 0 := completion_result hp x.card x.kind .abortedByReset 0 [] 0 [] hmem
  rw [List.length_replicate] at h
  obtain ⟨i, hi, rfl⟩ : ∃ i, i < f.2 ∧ y = cardBase x.card + f.1 + i := ⟨y - (cardBase x.card + f.1), by omega, by omega⟩
  have hbyte := congrArg (·[i]?) h
  simpa [Memory.readBytes, hi] using hbyte

/-! ## The other blocks -/

/-- The store once the erase in flight is given up (R140). -/
def State.eraseGivenUp (s : State) : Store :=
  match s.store.erase with
  | none => s.store
  | some b => { s.store with
      array := eraseRows s.store.array b (Config.abandonedEraseRow s.freeDraws), banks := s.store.banks.set b .needsErase
      erase := none }

/-- What a warm reset makes of each block of the state (R169). -/
theorem beginWarmReset_eq (s : State) (cause : ResetCause) : ∃ draws,
    s.beginWarmReset cause = { s with
      resetCtl := { s.resetCtl with cause := cause, reserveAtReset := s.supply.power = .reserve, warmReset := true }
      port :=
        let p := s.jobsInHand.foldl Port.aborted s.port
        { p with
          arrival := p.postedCards
          figures := { p.figures with
            erasesAbandoned := raised p.figures.erasesAbandoned (if s.store.erase.isSome then 1 else 0) } }
      engine := ⟨Vector.replicate 6 none, none, []⟩
      cipher := ⟨none, [], .c⟩
      slots := ⟨Vector.replicate 4 ⟨.empty, 0, []⟩, .empty⟩
      directory := mapVector (fun e => e.afterReset s.store.jobInProgram) s.directory
      store := s.eraseGivenUp.cancelErasing.endErasePhase.afterReset
      supply := { s.supply with activity := .active, standbyCount := 0, levelChanged := false }
      freeDraws := draws } := by
  unfold State.beginWarmReset
  rw [abortAll_eq]
  unfold State.abandonErases State.abandonErase State.eraseGivenUp
  dsimp only
  cases s.store.erase with
  | none => exact ⟨s.freeDraws, rfl⟩
  | some b => exact ⟨s.freeDraws + 1, rfl⟩

/-- The queue, the record in hand and the reclaim after a warm reset (R140). -/
theorem store_afterReset (t : Store) : t.cancelErasing.endErasePhase.afterReset = { t with
    banks := mapVector (fun x => if x = .erasing then .needsErase else x) t.banks
    queue := t.queue.filter QueuedAppend.staysAtReset
    program := t.program.map fun p => { p with requester := p.requester.aborted }
    retry := t.retry.map fun r => { r with requester := r.requester.aborted }
    reclaim := match t.reclaim with
      | some ⟨b, .copy w, _⟩ => if t.program = none ∧ t.retry = none then none else some ⟨b, .copy w, true⟩
      | _ => none } := by
  obtain ⟨array, banks, headBank, appendPos, nextSeq, queue, program, retry, erase, history, fault, reclaim⟩ := t
  have hfree : (program.isNone && retry.isNone) = decide (program = none ∧ retry = none) := by
    cases program <;> cases retry <;> rfl
  cases reclaim with
  | none => cases program <;> cases retry <;> rfl
  | some r =>
    obtain ⟨b, phase, abandoned⟩ := r
    cases phase <;>
      simp [Store.cancelErasing, Store.endErasePhase, Store.afterReset, Store.circuitFree, hfree]

theorem eraseGivenUp_eq (s : State) :
    s.eraseGivenUp = { s.store with array := s.eraseGivenUp.array, banks := s.eraseGivenUp.banks, erase := none } := by
  unfold State.eraseGivenUp
  obtain ⟨array, banks, headBank, appendPos, nextSeq, queue, program, retry, erase, history, fault, reclaim⟩ := s.store
  cases erase <;> rfl

theorem eraseGivenUp_bank (s : State) (b : BankNo) :
    s.eraseGivenUp.banks[b] = if s.store.erase = some b then .needsErase else s.store.banks[b] := by
  unfold State.eraseGivenUp
  cases s.store.erase with
  | none => rfl
  | some b' =>
    refine (getElem_set_fin _ _ _ _).trans ?_
    simp only [Option.some.injEq]

theorem rowAt_eraseGivenUp (s : State) {l : Location} (h : s.store.erase ≠ some l.bank) :
    rowAt s.eraseGivenUp.array l = rowAt s.store.array l := by
  unfold State.eraseGivenUp
  cases herase : s.store.erase with
  | none => rfl
  | some b => exact rowAt_eraseRows _ _ fun e => h (by rw [herase, e])

theorem staysAtReset_eq (q : QueuedAppend) :
    q.staysAtReset = decide (q = .timeMark ∨ q = .tamper .cover ∨ q = .tamper .field) := by
  cases q with
  | tamper i => cases i <;> rfl
  | _ => simp [QueuedAppend.staysAtReset]

/-- The job of the record in hand (R71). -/
theorem jobInProgram_eq_some {t : Store} (h : t.program = none ∨ t.retry = none) (j : JobId) :
    t.jobInProgram = some j ↔
      (t.program.any (fun p => p.requester.job? = some j) || t.retry.any fun r => r.requester.job? = some j) = true := by
  unfold Store.jobInProgram
  cases hp : t.program <;> cases hr : t.retry <;> simp_all

/-- Of a write list the write whose record is in hand stays, without its job (R71). -/
theorem entry_afterReset {t : Store} (h : t.program = none ∨ t.retry = none) (e : HandleEntry) :
    e.afterReset t.jobInProgram = { e with
      writeList := (e.writeList.filter fun w => w.owner.any fun j =>
        t.program.any (fun p => p.requester.job? = some j) ||
          t.retry.any fun r => r.requester.job? = some j).map fun w => { w with owner := none } } := by
  have hkept : ∀ w : WriteEntry, (w.owner.isSome && w.owner == t.jobInProgram) = w.owner.any fun j =>
      t.program.any (fun p => p.requester.job? = some j) || t.retry.any fun r => r.requester.job? = some j := by
    intro w
    cases hw : w.owner with
    | none => rfl
    | some j =>
      rw [Option.any_some, Bool.eq_iff_iff, ← jobInProgram_eq_some h j]
      rw [Option.isSome_some, Bool.true_and, beq_iff_eq]
      exact eq_comm
  unfold HandleEntry.afterReset
  simp only [hkept]

theorem notify_iff (x : Job) : x.notify = true ↔ x.header.getD 2 0 &&& 1 = 1 := by
  have h : ∀ v : Byte, v.getLsbD 0 = true ↔ v &&& 1 = 1 := by decide
  exact h _

/-- The jobs in hand of a group, counted by their records. -/
theorem countP_jobsInHand (s : State) (g : Group) : s.jobsInHand.countP (fun x => cardGroup x.card = g) =
    (List.finRange 6).countP fun j => (s.job j).any fun x => cardGroup x.card = g := by
  have hall : allJobs = List.finRange 6 := by decide
  rw [State.jobsInHand, List.countP_filterMap, hall]
  refine List.countP_congr fun j _ => ?_
  cases s.job j <;> simp

/-- The cards that a warm reset finds TAKEN are those of the jobs in hand. -/
theorem jobsInHand_card_iff {s : State} (h : s.RecordLaw) (n : CardNo) :
    (∃ x ∈ s.jobsInHand, x.card = n) ↔ s.port.cards[n] = .taken := by
  rw [h.1 n]
  constructor
  · rintro ⟨x, hx, e⟩
    obtain ⟨j, hj⟩ := mem_jobsInHand.mp hx
    exact ⟨j, x, hj, e⟩
  · rintro ⟨j, x, hj, e⟩
    exact ⟨x, mem_jobsInHand.mpr ⟨j, hj⟩, e⟩

/-- Settles O15: the blocks by `beginWarmReset_eq`, the port by what the completions of the jobs in hand leave. -/
theorem warmResetEmptiesThePart : Obligations.WarmResetEmptiesThePart := by
  unfold Obligations.WarmResetEmptiesThePart
  intro s cause hlaw hmem hhand t results status jobsOf raised' erasing inHand
  obtain ⟨draws, ht⟩ := beginWarmReset_eq s cause
  have hstore : t.store = _ := (congrArg State.store ht).trans (store_afterReset s.eraseGivenUp)
  have hmemory : t.port.memory = (s.jobsInHand.foldl Port.aborted s.port).memory := congrArg (·.port.memory) ht
  have hcards : ∀ n : CardNo, t.port.cards[n] = if s.port.cards[n] = .taken then .done else s.port.cards[n] := by
    intro n
    have h : t.port.cards = (s.jobsInHand.foldl Port.aborted s.port).cards := congrArg (·.port.cards) ht
    simp only [h, abortedAll_cards, jobsInHand_card_iff hlaw]
  have hread : ∀ j x, s.job j = some x → ∃ q : Port, Memory.wf q.memory = true ∧
      ∀ y, x.writesAt y → Memory.read t.port.memory y = Memory.read (q.aborted x).memory y := by
    intro j x hx
    rw [hmemory]
    exact abortedAll_read (jobsInHand_cards hlaw) hmem.1 (mem_jobsInHand.mpr ⟨j, hx⟩)
  refine ⟨(congrArg State.resetCtl ht :), hcards, ?results, ?frame, ?doneMap, ?port, fun j => ?jobs, (congrArg (·.engine.lane) ht :),
    (congrArg (·.engine.laneWaiting) ht :), (congrArg State.cipher ht :), fun i => ?slots, (congrArg (·.slots.package) ht :),
    (congrArg State.settings ht :), (congrArg State.time ht :), (congrArg State.tamper ht :), (congrArg State.authorities ht :),
    (congrArg State.custody ht :), (congrArg State.supply ht :), (congrArg State.pending ht :), fun h => ?entries, ?store, fun b => ?banks,
    fun l hl => ?rows⟩
  case results =>
    intro j x hx
    obtain ⟨q, hq, hy⟩ := hread j x hx
    refine ⟨?_, fun y ⟨f, hf, hfy⟩ => ?_⟩
    · rw [← aborted_header hq x, Memory.readBytes, Memory.readBytes]
      refine List.map_congr_left fun i hi => hy _ (.inl ?_)
      have := List.mem_range.mp hi
      omega
    · rw [hy y (.inr ⟨f, hf, hfy⟩)]
      exact aborted_result hq x hf hfy
  case frame =>
    intro y hy
    rw [hmemory]
    refine abortedAll_frame _ hmem.1 fun x hx hw => ?_
    obtain ⟨j, hj⟩ := mem_jobsInHand.mp hx
    exact hw.elim (hy j x hj).1 (hy j x hj).2
  case doneMap =>
    intro n
    have h : t.port.doneMap = (s.jobsInHand.foldl Port.aborted s.port).doneMap := congrArg (·.port.doneMap) ht
    rw [h, abortedAll_doneMap]
    simp only [mem_jobsInHand, notify_iff]
    refine or_congr_right ⟨?_, ?_⟩
    · rintro ⟨x, ⟨j, hj⟩, hx⟩
      exact ⟨j, x, hj, hx⟩
    · rintro ⟨j, x, hj, hx⟩
      exact ⟨x, ⟨j, hj⟩, hx⟩
  case port =>
    have hp : t.port = { s.port with
        memory := t.port.memory, cards := t.port.cards, doneMap := t.port.doneMap, arrival := t.port.arrival
        figures := { s.port.figures with
          jobsRefusedM := raised s.port.figures.jobsRefusedM (s.jobsInHand.countP fun x => cardGroup x.card = .m)
          jobsRefusedC := raised s.port.figures.jobsRefusedC (s.jobsInHand.countP fun x => cardGroup x.card = .c)
          erasesAbandoned := raised s.port.figures.erasesAbandoned (if s.store.erase.isSome then 1 else 0) } } := by
      rw [show t = _ from ht, abortedAll_eq]
    have harrival : t.port.arrival = (List.finRange 32).filter fun n : CardNo => s.port.cards[n] = .posted := by
      have h : t.port.arrival = t.port.postedCards := by
        rw [show t = _ from ht]
        rfl
      rw [h]
      refine List.filter_congr fun n _ => ?_
      rw [hcards]
      cases s.port.cards[n] <;> rfl
    rw [countP_jobsInHand, countP_jobsInHand, harrival] at hp
    exact hp
  case jobs =>
    have h : t.engine.jobs = Vector.replicate 6 none := (congrArg (·.engine.jobs) ht :)
    simp [State.job, h]
  case slots =>
    have h : t.slots.host = Vector.replicate 4 ⟨.empty, 0, []⟩ := (congrArg (·.slots.host) ht :)
    simp [State.slot, h]
  case entries =>
    have he : t.directory = mapVector (fun e => e.afterReset s.store.jobInProgram) s.directory := (congrArg State.directory ht :)
    rw [State.entry, he]
    exact (mapVector_getElem _ _ _ _).trans (entry_afterReset hhand _)
  case store =>
    have hqueue : s.store.queue.filter QueuedAppend.staysAtReset =
        s.store.queue.filter fun q => q = .timeMark ∨ q = .tamper .cover ∨ q = .tamper .field :=
      List.filter_congr fun q _ => staysAtReset_eq q
    rw [hstore, ← hqueue, eraseGivenUp_eq] <;> rfl
  case banks =>
    have hbanks : t.store.banks = mapVector (fun x => if x = .erasing then .needsErase else x) s.eraseGivenUp.banks :=
      (congrArg Store.banks hstore :)
    have hb : t.store.banks[b] = if s.eraseGivenUp.banks[b] = .erasing then .needsErase else s.eraseGivenUp.banks[b] := by
      rw [hbanks]
      exact mapVector_getElem _ _ _ _
    rw [hb, eraseGivenUp_bank]
    by_cases h : s.store.erase = some b <;> simp [h]
  case rows =>
    have h : t.store.array = s.eraseGivenUp.array := (congrArg Store.array hstore :)
    rw [h]
    exact rowAt_eraseGivenUp s hl

end Sys2Proof.Machine


/-! PROOFS about the end of the cold-start scan: what it reads of the array, the HEAD it settles, and the state it rebuilds
(R126, R143, R163, R165, R168). -/

namespace Sys2Proof.Machine

open Sys2Proof

/-! ## The largest of a list, and rows in order of seq -/

theorem maxOf_eq_max? (l : List Nat) : maxOf l = l.max? := by
  cases l <;> rfl

theorem maxOf_eq_some_iff {l : List Nat} {n : Nat} : maxOf l = some n ↔ n ∈ l ∧ ∀ m ∈ l, m ≤ n := by
  rw [maxOf_eq_max?, List.max?_eq_some_iff]

theorem maxOf_eq_none_iff {l : List Nat} : maxOf l = none ↔ l = [] := by
  rw [maxOf_eq_max?, List.max?_eq_none_iff]

theorem insertBySeq_perm (r : PlacedRow) (l : List PlacedRow) : (insertBySeq r l).Perm (r :: l) := by
  induction l with
  | nil => exact .refl _
  | cons x xs ih =>
    unfold insertBySeq
    split
    · exact .refl _
    · exact (ih.cons x).trans (.swap r x xs)

theorem sortBySeq_perm (l : List PlacedRow) : (sortBySeq l).Perm l := by
  induction l with
  | nil => exact .refl _
  | cons x xs ih => exact (insertBySeq_perm x _).trans (ih.cons x)

/-- The restored trusted time is the largest stamp, and 0 without rows (R165). -/
theorem scanTime_spec (rows : List PlacedRow) : (∀ r ∈ rows, r.2.stamp ≤ scanTime rows) ∧
    (scanTime rows = 0 ∨ ∃ r ∈ rows, r.2.stamp = scanTime rows) := by
  unfold scanTime
  cases h : maxOf (rows.map fun r => r.2.stamp) with
  | none =>
    rw [maxOf_eq_none_iff, List.map_eq_nil_iff] at h
    exact ⟨by simp [h], .inl rfl⟩
  | some n =>
    obtain ⟨hmem, hle⟩ := maxOf_eq_some_iff.mp h
    obtain ⟨r, hr, e⟩ := List.mem_map.mp hmem
    exact ⟨fun r hr => hle _ (List.mem_map_of_mem hr), .inr ⟨r, hr, e⟩⟩

/-- The next seq is one more than the largest of a valid row, and 0 without one (R165). -/
theorem scanNextSeq_spec (a : RowArray) : (∀ r ∈ validRows a, r.2.seq < scanNextSeq a) ∧
    (scanNextSeq a = 0 ∨ ∃ r ∈ validRows a, r.2.seq + 1 = scanNextSeq a) := by
  unfold scanNextSeq
  cases h : maxOf ((validRows a).map fun r => r.2.seq) with
  | none =>
    rw [maxOf_eq_none_iff, List.map_eq_nil_iff] at h
    exact ⟨by simp [h], .inl rfl⟩
  | some n =>
    obtain ⟨hmem, hle⟩ := maxOf_eq_some_iff.mp h
    obtain ⟨r, hr, e⟩ := List.mem_map.mp hmem
    exact ⟨fun r hr => Nat.lt_succ_of_le (hle _ (List.mem_map_of_mem hr)), .inr ⟨r, hr, congrArg (· + 1) e⟩⟩

theorem newestRow_eq_none_iff {rows : List PlacedRow} : newestRow rows = none ↔ rows = [] := by
  unfold newestRow
  cases h : maxOf (rows.map fun r => r.2.seq) with
  | none =>
    rw [maxOf_eq_none_iff, List.map_eq_nil_iff] at h
    exact ⟨fun _ => h, fun _ => rfl⟩
  | some n =>
    obtain ⟨r, hr, e⟩ := List.mem_map.mp (maxOf_eq_some_iff.mp h).1
    constructor
    · intro hnone
      exact absurd (decide_eq_true e) (List.find?_eq_none.mp hnone r hr)
    · rintro rfl
      cases hr

theorem newestRow_spec {rows : List PlacedRow} {r : PlacedRow} (h : newestRow rows = some r) :
    r ∈ rows ∧ ∀ r' ∈ rows, r'.2.seq ≤ r.2.seq := by
  unfold newestRow at h
  split at h
  · cases h
  next n hn =>
    have hr : r.2.seq = n := by simpa using List.find?_some h
    refine ⟨List.mem_of_find?_eq_some h, fun r' hr' => ?_⟩
    rw [hr]
    exact (maxOf_eq_some_iff.mp hn).2 _ (List.mem_map_of_mem hr')

/-- Rows of different seqs have one of highest seq. -/
theorem newestRow_eq_some_iff {rows : List PlacedRow} (hnodup : (rows.map fun r => r.2.seq).Nodup) {r : PlacedRow} :
    newestRow rows = some r ↔ r ∈ rows ∧ ∀ r' ∈ rows, r'.2.seq ≤ r.2.seq := by
  refine ⟨newestRow_spec, fun ⟨hr, hle⟩ => ?_⟩
  cases h : newestRow rows with
  | none => rw [newestRow_eq_none_iff.mp h] at hr; cases hr
  | some x =>
    obtain ⟨hx, hxle⟩ := newestRow_spec h
    rw [List.inj_on_of_nodup_map hnodup hx hr (Nat.le_antisymm (hle x hx) (hxle r hr))]

/-! ## The rows of a bank -/

theorem toList_eq_map_finRange {α : Type} {n : Nat} (v : Vector α n) : v.toList = (List.finRange n).map fun i => v[i] := by
  apply List.ext_getElem <;> simp

theorem written_eq_false_iff (r : Row) : r.written = false ↔ r = .blank := by
  cases r <;> simp [Row.written]

/-- A valid row of the list stands at its place. -/
theorem rowAt_of_mem_validRowsOf {a : RowArray} {b : BankNo} {r : PlacedRow} (h : r ∈ validRowsOf a b) :
    rowAt a r.1 = .valid r.2 := by
  obtain ⟨⟨x, n⟩, hx, hdata⟩ := List.mem_filterMap.mp h
  have hrow : x = a[b][n] := by
    rw [toList_eq_map_finRange, allRows, List.zip_map_left, List.mem_map] at hx
    obtain ⟨⟨i, j⟩, hij, e⟩ := hx
    obtain ⟨rfl, rfl⟩ := Prod.mk.inj e
    obtain ⟨k, hk, e⟩ := List.mem_iff_getElem.mp hij
    rw [List.getElem_zip] at e
    obtain ⟨rfl, rfl⟩ := Prod.mk.inj e
    rfl
  cases x with
  | valid d =>
    obtain rfl := Option.some.inj hdata
    exact hrow.symm
  | blank => cases hdata
  | torn => cases hdata

theorem rowAt_of_mem_countedRows {a : RowArray} {r : PlacedRow} (h : r ∈ countedRows a) : rowAt a r.1 = .valid r.2 := by
  obtain ⟨l, hl, hr⟩ := List.mem_flatten.mp h
  obtain ⟨b, -, rfl⟩ := List.mem_map.mp hl
  exact rowAt_of_mem_validRowsOf (List.mem_filter.mp hr).1

/-- Every row of the bank is blank. -/
def bankBlank (a : RowArray) (b : BankNo) : Bool := a[b].toList.all fun r => !r.written

theorem bankBlank_iff (a : RowArray) (b : BankNo) : bankBlank a b = true ↔ ∀ n : RowNo, rowAt a ⟨b, n⟩ = .blank := by
  simp [bankBlank, toList_eq_map_finRange, written_eq_false_iff, rowAt]

theorem bankBlank_eq_false_of_row {a : RowArray} {l : Location} (h : rowAt a l ≠ .blank) : bankBlank a l.bank = false := by
  rw [Bool.eq_false_iff]
  exact fun hb => h ((bankBlank_iff a l.bank).mp hb l.row)

/-- The extent of a list of rows: the number of them up to the last that is not blank. -/
def extentOf (l : List Row) : Nat := l.zipIdx.foldl (fun n (r, i) => if r.written then i + 1 else n) 0

theorem extentOf_concat (l : List Row) (r : Row) :
    extentOf (l ++ [r]) = if r.written then l.length + 1 else extentOf l := by
  simp [extentOf, List.zipIdx_append]

theorem extentOf_spec (l : List Row) : extentOf l ≤ l.length ∧
    ∀ (i : Nat) (h : i < l.length), (extentOf l ≤ i → l[i].written = false) ∧ (i + 1 = extentOf l → l[i].written = true) := by
  induction l using List.reverseRecOn with
  | nil => exact ⟨Nat.le_refl 0, fun i h => absurd h (Nat.not_lt_zero i)⟩
  | append_singleton l r ih =>
    obtain ⟨hle, hrow⟩ := ih
    rw [extentOf_concat]
    refine ⟨by rw [List.length_append, List.length_singleton]; split <;> omega, fun i hi => ?_⟩
    rw [List.length_append, List.length_singleton] at hi
    rcases Nat.lt_succ_iff_lt_or_eq.mp hi with hlt | rfl
    · rw [List.getElem_append_left hlt]
      refine ⟨fun h => (hrow i hlt).1 (by split at h <;> omega), fun h => (hrow i hlt).2 (by split at h <;> omega)⟩
    · rw [List.getElem_concat_length rfl]
      cases hr : r.written
      · exact ⟨fun _ => rfl, fun h => by simp at h; omega⟩
      · exact ⟨fun h => by simp at h, fun _ => rfl⟩

/-- The rows from the extent of a bank on are blank, and the row before it is not (R168). -/
theorem writtenExtent_spec (a : RowArray) (b : BankNo) : writtenExtent a[b] ≤ 64 ∧
    (∀ n : RowNo, writtenExtent a[b] ≤ n.val → rowAt a ⟨b, n⟩ = .blank) ∧
    ∀ n : RowNo, n.val + 1 = writtenExtent a[b] → rowAt a ⟨b, n⟩ ≠ .blank := by
  obtain ⟨hle, hrow⟩ := extentOf_spec a[b].toList
  rw [Vector.length_toList] at hle
  have hrow' : ∀ n : RowNo, (writtenExtent a[b] ≤ n.val → (rowAt a ⟨b, n⟩).written = false) ∧
      (n.val + 1 = writtenExtent a[b] → (rowAt a ⟨b, n⟩).written = true) := by
    intro n
    have h := hrow n.val (by simp)
    simp only [Vector.getElem_toList] at h
    exact h
  refine ⟨hle, fun n h => (written_eq_false_iff _).mp ((hrow' n).1 h), fun n h e => ?_⟩
  have := (hrow' n).2 h
  rw [e] at this
  cases this

theorem writtenExtent_lt_iff (a : RowArray) (b : BankNo) : writtenExtent a[b] < 64 ↔ rowAt a ⟨b, 63⟩ = .blank := by
  obtain ⟨hle, hblank, hrow⟩ := writtenExtent_spec a b
  refine ⟨fun h => hblank 63 (Nat.le_of_lt_succ h), fun h => Nat.lt_of_le_of_ne hle fun e => ?_⟩
  exact hrow 63 e.symm h

theorem writtenExtent_of_bankBlank {a : RowArray} {b : BankNo} (h : bankBlank a b = true) : writtenExtent a[b] = 0 := by
  obtain ⟨hle, -, hrow⟩ := writtenExtent_spec a b
  by_contra hne
  exact hrow ⟨writtenExtent a[b] - 1, by omega⟩ (by simp only; omega) ((bankBlank_iff a b).mp h _)

/-! ## The HEAD that the scan settles -/

/-- The first blank bank from `n` upward in circular order. -/
def firstBlank (a : RowArray) (n : BankNo) : Option BankNo := ((List.finRange 8).map fun k => n + k).find? (bankBlank a)

theorem firstBlank_eq_some_iff {a : RowArray} {n b : BankNo} : firstBlank a n = some b ↔
    ∃ k : BankNo, b = n + k ∧ bankBlank a b = true ∧ ∀ m : BankNo, m < k → bankBlank a (n + m) = false := by
  unfold firstBlank
  rw [List.find?_eq_some_iff_getElem]
  simp only [List.length_map, List.length_finRange, List.getElem_map, List.getElem_finRange, Bool.not_eq_true']
  constructor
  · rintro ⟨hb, i, hi, e, hbefore⟩
    exact ⟨⟨i, hi⟩, e.symm, hb, fun m hm => hbefore m.val hm⟩
  · rintro ⟨k, e, hb, hbefore⟩
    exact ⟨hb, k.val, k.isLt, e.symm, fun j hj => hbefore ⟨j, by omega⟩ hj⟩

/-- A bank that is not blank may be looked at first or last. -/
theorem find?_banksAfter {a : RowArray} {n : BankNo} (h : bankBlank a n = false) :
    (banksAfter n).find? (bankBlank a) = firstBlank a n := by
  have hall : ∀ n : BankNo, (List.finRange 8).map (fun k => n + k) =
      n :: [n + 1, n + 2, n + 3, n + 4, n + 5, n + 6, n + 7] := by decide
  have hafter : banksAfter n = [n + 1, n + 2, n + 3, n + 4, n + 5, n + 6, n + 7] ++ [n] := rfl
  have hlast : [n].find? (bankBlank a) = none := by simp [h]
  have hfirst : ∀ l, (n :: l).find? (bankBlank a) = l.find? (bankBlank a) := fun l => by rw [List.find?_cons, h]
  rw [firstBlank, hall, hafter, List.find?_append, hlast, Option.or_none, hfirst]

/-- The bank that the scan makes HEAD (R168). -/
def scanHeadBank (a : RowArray) (rows : List PlacedRow) : Option BankNo :=
  match newestRow rows with
  | none => firstBlank a 0
  | some r => if rowAt a ⟨r.1.bank, 63⟩ = .blank then some r.1.bank else firstBlank a r.1.bank

/-- The state of a bank that the scan does not make HEAD (R168). -/
def restState (a : RowArray) (rows : List PlacedRow) (b : BankNo) : BankState :=
  if bankBlank a b then .erased else if rows.any (fun r => r.1.bank = b) then .full else .needsErase

theorem restState_eq_erased_iff {a : RowArray} {rows : List PlacedRow} {b : BankNo} :
    restState a rows b = .erased ↔ bankBlank a b = true := by
  unfold restState
  split
  · simp [*]
  · split <;> simp [*]

/-- `u` is the store `t` after the scan settled its banks, `o` being the HEAD it found. -/
structure Store.SettledAs (t u : Store) (rows : List PlacedRow) (o : Option BankNo) : Prop where
  banks : ∀ b : BankNo, u.banks[b] = if o = some b then .head else restState t.array rows b
  head : ∀ b, o = some b → u.headBank = b ∧ u.appendPos = writtenExtent t.array[b] ∧ u.fault = t.fault
  none : o = none → u.fault = true
  others : u = { t with banks := u.banks, headBank := u.headBank, appendPos := u.appendPos, fault := u.fault }

/-- With no bank HEAD yet, the first blank bank of the order becomes HEAD. -/
theorem headFrom_settled {t : Store} {rows : List PlacedRow} (hbanks : ∀ b : BankNo, t.banks[b] = restState t.array rows b)
    (order : List BankNo) (old : BankNo) : t.SettledAs (t.headFrom order old) rows (order.find? (bankBlank t.array)) := by
  have hfind : (order.find? fun b => t.banks[b] = .erased) = order.find? (bankBlank t.array) := by
    refine congrArg (order.find? ·) (funext fun b => ?_)
    rw [hbanks, Bool.eq_iff_iff, decide_eq_true_iff, restState_eq_erased_iff]
  unfold Store.headFrom
  rw [hfind]
  cases h : order.find? (bankBlank t.array) with
  | none => exact ⟨hbanks, fun b hb => (by cases hb), fun _ => rfl, rfl⟩
  | some x =>
    refine ⟨fun b => ?_, fun b hb => ?_, fun hn => (by cases hn), rfl⟩
    · rw [getElem_set_fin, hbanks]
      simp only [Option.some.injEq]
    · obtain rfl := Option.some.inj hb
      exact ⟨rfl, (writtenExtent_of_bankBlank (List.find?_some h)).symm, rfl⟩

theorem scanBanks_getElem (a : RowArray) (rows : List PlacedRow) (newest : Option BankNo) (b : BankNo) :
    (scanBanks a rows newest)[b] = scanBankState a rows newest b := by
  fin_cases b <;> rfl

/-- A bank but the one of the newest row starts in its state of rest. -/
theorem scanBankState_of_ne {a : RowArray} {rows : List PlacedRow} {newest : Option BankNo} {b : BankNo}
    (h : newest ≠ some b) : scanBankState a rows newest b = restState a rows b := by
  unfold scanBankState
  rw [if_neg h]
  rfl

/-- The banks, the HEAD and the append position as the scan settles them (R168). -/
theorem scanHead_settled (t : Store) {rows : List PlacedRow} (hrows : ∀ r ∈ rows, rowAt t.array r.1 ≠ .blank) :
    t.SettledAs (t.scanHead rows) rows (scanHeadBank t.array rows) := by
  unfold Store.scanHead scanHeadBank
  cases hnew : newestRow rows with
  | none =>
    have hbanks : ∀ b : BankNo, (scanBanks t.array rows none)[b] = restState t.array rows b := fun b => by
      rw [scanBanks_getElem, scanBankState_of_ne (by simp)]
    obtain ⟨h1, h2, h3, h4⟩ := headFrom_settled (t := { t with banks := scanBanks t.array rows none }) hbanks
      [0, 1, 2, 3, 4, 5, 6, 7] 0
    exact ⟨h1, h2, h3, h4⟩
  | some r =>
    obtain ⟨hr, -⟩ := newestRow_spec hnew
    have hblank : bankBlank t.array r.1.bank = false := bankBlank_eq_false_of_row (hrows r hr)
    dsimp only
    simp only [writtenExtent_lt_iff]
    split
    · refine ⟨fun b => ?_, fun b hb => ?_, fun hn => (by cases hn), rfl⟩
      · rw [scanBanks_getElem]
        by_cases hb : r.1.bank = b
        · subst hb
          rw [scanBankState, if_pos rfl, if_pos rfl, if_neg]
          exact fun h => by rw [bankBlank, h] at hblank; cases hblank
        · have hne : some r.1.bank ≠ some b := fun e => hb (Option.some.inj e)
          rw [if_neg hne, scanBankState_of_ne hne]
      · obtain rfl := Option.some.inj hb
        exact ⟨rfl, rfl, rfl⟩
    · have hfull : restState t.array rows r.1.bank = .full := by
        have hany : rows.any (fun r' => r'.1.bank = r.1.bank) = true := List.any_eq_true.mpr ⟨r, hr, decide_eq_true rfl⟩
        rw [restState, hblank, hany]
        rfl
      have hbanks : ∀ b : BankNo, ((scanBanks t.array rows (some r.1.bank)).set r.1.bank .full)[b] =
          restState t.array rows b := by
        intro b
        rw [getElem_set_fin]
        split
        next e => rw [← e, hfull]
        next e => rw [scanBanks_getElem, scanBankState_of_ne fun h => e (Option.some.inj h)]
      obtain ⟨h1, h2, h3, h4⟩ := headFrom_settled (t := { t with
        banks := (scanBanks t.array rows (some r.1.bank)).set r.1.bank .full, headBank := r.1.bank
        appendPos := writtenExtent t.array[r.1.bank] }) hbanks (banksAfter r.1.bank) r.1.bank
      rw [find?_banksAfter hblank] at h1 h2 h3
      exact ⟨h1, h2, h3, h4⟩

end Sys2Proof.Machine


/-! PROOFS of SCAN_END: the condition for a bank to become HEAD, the state that the scan rebuilds, and what the part shows at
READY (R21, R23, R143, R162, R168). -/

namespace Sys2Proof.Machine

open Sys2Proof

/-! ## The HEAD, in terms of the counted rows -/

/-- Bank `b` holds the row of highest seq. -/
def holdsNewest (rows : List PlacedRow) (b : BankNo) : Prop := ∃ r ∈ rows, r.1.bank = b ∧ ∀ r' ∈ rows, r'.2.seq ≤ r.2.seq

/-- Every row of the bank is blank, as the rules of the scan say it. -/
def allBlank (a : RowArray) (b : BankNo) : Prop := ∀ n : RowNo, rowAt a ⟨b, n⟩ = .blank

/-- Bank `b` is to become HEAD: it holds the newest row and has room, or is the first blank bank after the one that holds
it, or there is no row at all and it is the first blank bank (R168). -/
def becomesHead (a : RowArray) (rows : List PlacedRow) (b : BankNo) : Prop :=
  (holdsNewest rows b ∧ rowAt a ⟨b, 63⟩ = .blank) ∨
  (∃ n k : BankNo, holdsNewest rows n ∧ rowAt a ⟨n, 63⟩ ≠ .blank ∧ k ≠ 0 ∧ b = n + k ∧ allBlank a b ∧
    ∀ m : BankNo, m ≠ 0 → m < k → ¬allBlank a (n + m)) ∨
  (rows = [] ∧ allBlank a b ∧ ∀ b' : BankNo, b' < b → ¬allBlank a b')

theorem bankBlank_eq_false_iff (a : RowArray) (b : BankNo) : bankBlank a b = false ↔ ¬allBlank a b := by
  rw [← Bool.not_eq_true, bankBlank_iff]
  rfl

theorem holdsNewest_iff {rows : List PlacedRow} (hnodup : (rows.map fun r => r.2.seq).Nodup) {r : PlacedRow}
    (h : newestRow rows = some r) (b : BankNo) : holdsNewest rows b ↔ r.1.bank = b := by
  constructor
  · rintro ⟨x, hx, e, hle⟩
    obtain rfl := Option.some.inj (h.symm.trans ((newestRow_eq_some_iff hnodup).mpr ⟨hx, hle⟩))
    exact e
  · intro e
    obtain ⟨hr, hle⟩ := newestRow_spec h
    exact ⟨r, hr, e, hle⟩

/-- The HEAD that the scan settles is the bank that is to become HEAD. -/
theorem scanHeadBank_eq_some_iff {a : RowArray} {rows : List PlacedRow} (hnodup : (rows.map fun r => r.2.seq).Nodup)
    (hrows : ∀ r ∈ rows, rowAt a r.1 ≠ .blank) (b : BankNo) : scanHeadBank a rows = some b ↔ becomesHead a rows b := by
  unfold scanHeadBank becomesHead
  cases hnew : newestRow rows with
  | none =>
    obtain rfl := newestRow_eq_none_iff.mp hnew
    have hno : ∀ n, ¬holdsNewest [] n := fun n ⟨r, hr, _⟩ => by cases hr
    simp only [firstBlank_eq_some_iff, bankBlank_iff, bankBlank_eq_false_iff, hno, false_and, exists_false, true_and, false_or,
      zero_add, exists_eq_left', allBlank]
  | some r =>
    obtain ⟨hr, -⟩ := newestRow_spec hnew
    have hne : rows ≠ [] := List.ne_nil_of_mem hr
    have hblank := bankBlank_eq_false_of_row (hrows r hr)
    simp only [holdsNewest_iff hnodup hnew, hne, false_and, or_false]
    split
    next h63 =>
      rw [Option.some.injEq]
      constructor
      · rintro rfl
        exact .inl ⟨rfl, h63⟩
      · rintro (⟨e, -⟩ | ⟨n, k, rfl, h, -⟩)
        · exact e
        · exact absurd h63 h
    next h63 =>
      rw [firstBlank_eq_some_iff]
      simp only [bankBlank_iff, bankBlank_eq_false_iff]
      constructor
      · rintro ⟨k, rfl, hb, hbefore⟩
        refine .inr ⟨r.1.bank, k, rfl, h63, ?_, rfl, hb, fun m _ hm => hbefore m hm⟩
        rintro rfl
        rw [add_zero] at hb
        exact (bankBlank_eq_false_iff _ _).mp hblank hb
      · rintro (⟨rfl, h⟩ | ⟨n, k, rfl, -, -, rfl, hb, hbefore⟩)
        · exact absurd h h63
        · refine ⟨k, rfl, hb, fun m hm => ?_⟩
          by_cases h0 : m = 0
          · rw [h0, add_zero]
            exact (bankBlank_eq_false_iff _ _).mp hblank
          · exact hbefore m h0 hm

/-! ## The state that the scan rebuilds -/

/-- The replay of a row changes the directory, the authorities, the custody map and the tamper inputs alone. -/
theorem replayRow_eq (s : State) (r : PlacedRow) : s.replayRow r = { s with
    directory := (s.replayRow r).directory, authorities := (s.replayRow r).authorities
    custody := (s.replayRow r).custody, tamper := (s.replayRow r).tamper } := by
  have hauth : ∀ (l : List AuthNo) (u : State), ∃ v,
      l.foldl (fun s k => s.onAuthority k fun a => a.replay k r.2) u = { u with authorities := v } := by
    intro l
    induction l with
    | nil => exact fun u => ⟨u.authorities, rfl⟩
    | cons k l ih =>
      intro u
      obtain ⟨v, hv⟩ := ih (u.onAuthority k fun a => a.replay k r.2)
      exact ⟨v, hv⟩
  unfold State.replayRow
  dsimp only
  cases r.2.record.handle? with
  | none =>
    obtain ⟨v, hv⟩ := hauth allAuthorities s
    simp only [hv]
    split <;> rfl
  | some h =>
    obtain ⟨v, hv⟩ := hauth allAuthorities (s.onEntry h fun e => e.replay r.1 r.2)
    simp only [hv]
    split <;> rfl

theorem replayRows_eq (l : List PlacedRow) (s : State) : l.foldl State.replayRow s = { s with
    directory := (l.foldl State.replayRow s).directory, authorities := (l.foldl State.replayRow s).authorities
    custody := (l.foldl State.replayRow s).custody, tamper := (l.foldl State.replayRow s).tamper } := by
  induction l generalizing s with
  | nil => rfl
  | cons r l ih => rw [List.foldl_cons, ih (s.replayRow r), replayRow_eq s r]

/-- The rows that the scan replays, in order. -/
def State.scanRows (s : State) : List PlacedRow := sortBySeq (countedRows s.store.array)

/-- What SCAN_END rebuilds beside the blocks that it replays. -/
theorem rebuilt_eq (s : State) : ∃ directory authorities custody tamper, s.rebuilt = { s with
    directory := directory, authorities := authorities, custody := custody, tamper := tamper
    store := s.store.scanned s.scanRows
    time := { s.time with
      tt := scanTime s.scanRows, drift := 0, subCount := 0, secondsDue := 0, creditsDue := 0
      lastStamp := scanTime s.scanRows, timeMark := .none } } := by
  refine ⟨s.rebuilt.directory, s.rebuilt.authorities, s.rebuilt.custody, s.rebuilt.tamper, ?_⟩
  unfold State.rebuilt State.scanRows
  dsimp only
  rw [replayRows_eq]
  rfl

/-- `u` is the store `t` as the scan leaves it, `o` being the HEAD that it found (R165, R168). -/
structure Store.ScannedAs (t u : Store) (rows : List PlacedRow) (o : Option BankNo) : Prop where
  banks : ∀ b : BankNo, u.banks[b] = if o = some b then .head else restState t.array rows b
  headBank : ∀ b, o = some b → u.headBank = b
  appendPos : ∀ b, o = some b → u.appendPos = writtenExtent t.array[b]
  nextSeq : u.nextSeq = scanNextSeq t.array
  fault : u.fault = true ↔ u.nextSeq = seqEnd ∨ o = none
  others : u = { t with
    banks := u.banks, headBank := u.headBank, appendPos := u.appendPos, nextSeq := u.nextSeq, fault := u.fault }

/-- The HEAD is settled, then the next seq fixed. -/
theorem scanned_as {t : Store} (ht : t.fault = false) {rows : List PlacedRow}
    (hrows : ∀ r ∈ rows, rowAt t.array r.1 ≠ .blank) :
    t.ScannedAs (t.scanned rows) rows (scanHeadBank t.array rows) := by
  obtain ⟨hbanks, hhead, hnone, hothers⟩ := scanHead_settled t hrows
  have harray : (t.scanHead rows).array = t.array := (congrArg Store.array hothers :)
  have hnext : (t.scanned rows).nextSeq = scanNextSeq t.array := congrArg scanNextSeq harray
  have hfault : (t.scanHead rows).fault = true ↔ scanHeadBank t.array rows = none := by
    cases ho : scanHeadBank t.array rows with
    | none => exact iff_of_true (hnone ho) rfl
    | some b => simp [(hhead b ho).2.2, ht]
  refine ⟨hbanks, fun b ho => (hhead b ho).1, fun b ho => (hhead b ho).2.1, hnext, ?_, ?_⟩
  · change ((t.scanHead rows).fault || decide ((t.scanned rows).nextSeq = seqEnd)) = true ↔ _
    rw [Bool.or_eq_true, decide_eq_true_iff, hfault]
    exact or_comm
  · unfold Store.scanned
    dsimp only
    rw [hothers]

theorem becomesHead_perm {a : RowArray} {rows rows' : List PlacedRow} (h : rows.Perm rows') (b : BankNo) :
    becomesHead a rows b ↔ becomesHead a rows' b := by
  have hnil : rows = [] ↔ rows' = [] := ⟨fun e => (e ▸ h).nil_eq.symm, fun e => (e ▸ h).eq_nil⟩
  simp only [becomesHead, holdsNewest, h.mem_iff, hnil]

theorem readyAlert_bit (s : State) : ∀ b, b < 16 → s.readyAlert.getLsbD b = (if b = 11 then s.store.fault
    else if b = 12 then decide (0 < s.port.figures.cardFaults) else decide (b = 15)) := by
  have hbits : ∀ (c f : Bool) (b : Nat), b < 16 →
      (alertResetDone ||| (if c then alertCardFault else 0) ||| if f then alertStoreFault else 0).getLsbD b =
        if b = 11 then f else if b = 12 then c else decide (b = 15) := by decide
  intro b hb
  rw [← hbits _ _ b hb, State.readyAlert]
  simp only [decide_eq_true_eq]

/-- The TORN rows of the HEAD and the FULL banks, counted (R163). -/
theorem tornCount_eq (t : Store) : t.tornCount = ((List.finRange 8).map fun b : BankNo =>
    if t.banks[b] = .head ∨ t.banks[b] = .full then
      (List.finRange 64).countP fun n : RowNo => rowAt t.array ⟨b, n⟩ = .torn
    else 0).sum := by
  have hall : allBanks = List.finRange 8 := by decide
  unfold Store.tornCount
  rw [hall]
  refine congrArg List.sum (List.map_congr_left fun b _ => ?_)
  rw [← List.countP_eq_length_filter, toList_eq_map_finRange, List.countP_map]
  rfl

/-- A bank that is to become HEAD has room. -/
theorem becomesHead_room {a : RowArray} {rows : List PlacedRow} {b : BankNo} (h : becomesHead a rows b) :
    rowAt a ⟨b, 63⟩ = .blank := by
  rcases h with ⟨-, h⟩ | ⟨_, _, -, -, -, -, h, -⟩ | ⟨-, h, -⟩
  · exact h
  · exact h 63
  · exact h 63

/-- Settles O17: the replay leaves the other blocks, `scanned_as` gives the store, and `scanHeadBank_eq_some_iff` says which
bank becomes HEAD. -/
theorem scanEndRestoresThePart : Obligations.ScanEndRestoresThePart := by
  unfold Obligations.ScanEndRestoresThePart
  intro s hdue a rows hnodup blank holds newest heads
  have hperm : s.scanRows.Perm rows := sortBySeq_perm _
  have hrows : ∀ r ∈ s.scanRows, rowAt a r.1 ≠ .blank := fun r hr e => by
    rw [rowAt_of_mem_countedRows (hperm.mem_iff.mp hr)] at e
    cases e
  have hheads : ∀ b, scanHeadBank a s.scanRows = some b ↔ heads b := fun b =>
    (scanHeadBank_eq_some_iff ((hperm.map _).nodup_iff.mpr hnodup) hrows b).trans (becomesHead_perm hperm b)
  have hnone : scanHeadBank a s.scanRows = none ↔ ∀ b, ¬heads b := by
    simp only [← hheads, Option.eq_none_iff_forall_ne_some, ne_eq]
  have hscan := scanned_as (by rw [ScanDue.store hdue]; rfl) hrows
  obtain ⟨directory, authorities, custody, tamper, hrebuilt⟩ := rebuilt_eq s
  generalize s.store.scanned s.scanRows = u at hscan hrebuilt
  obtain ⟨hbanks, hheadBank, happend, hnext, hfault, hothers⟩ := hscan
  obtain ⟨hseqs, hseq⟩ := scanNextSeq_spec a
  obtain ⟨hstamps, htime⟩ := scanTime_spec s.scanRows
  refine ⟨s.rebuilt.enterReady, congrArg Host.Outcome.next (if_pos (ScanDue.part hdue)), ?_⟩
  rw [hrebuilt]
  refine ⟨rfl, hothers, fun r hr => hstamps r (hperm.mem_iff.mpr hr), ?time, rfl, ?seqs, ?seq, fun b hb => ?head,
    fun b hb => ?rest, ?fault, fun b hb => ?alert, ?port⟩
  case time => exact htime.imp_right fun ⟨r, hr, e⟩ => ⟨r, hperm.mem_iff.mp hr, e⟩
  case seqs => exact fun r hr => (hseqs r hr).trans_eq hnext.symm
  case seq => exact hnext ▸ hseq
  case head =>
    have ho := (hheads b).mpr hb
    have hpos := happend b ho
    obtain ⟨-, hafter, hbefore⟩ := writtenExtent_spec a b
    exact ⟨hheadBank b ho, (hbanks b).trans (if_pos ho),
      hpos.trans_lt ((writtenExtent_lt_iff a b).mpr (becomesHead_room hb)),
      fun n hn => hafter n (hpos.symm.trans_le hn), fun n hn => hbefore n (hn.trans hpos)⟩
  case rest =>
    have hrest : u.banks[b] = restState a s.scanRows b := (hbanks b).trans (if_neg fun ho => hb ((hheads b).mp ho))
    have hholds : s.scanRows.any (fun r => r.1.bank = b) = true ↔ holds b := by
      simp only [List.any_eq_true, decide_eq_true_eq, hperm.mem_iff, holds]
    refine ⟨fun h => hrest.trans (restState_eq_erased_iff.mpr ((bankBlank_iff a b).mpr h)), fun h hh => hrest.trans ?_,
      fun h hh => hrest.trans ?_⟩
    · rw [restState, (bankBlank_eq_false_iff a b).mpr h, hholds.mpr hh]
      rfl
    · rw [restState, (bankBlank_eq_false_iff a b).mpr h, Bool.eq_false_iff.mpr (fun e => hh (hholds.mp e))]
      rfl
  case fault => exact hfault.trans (or_congr_right hnone)
  case alert =>
    refine (readyAlert_bit _ b hb).trans ?_
    interval_cases b <;> rfl
  case port =>
    have htorn := tornCount_eq u
    have harray : u.array = a := (congrArg Store.array hothers :)
    rw [harray] at htorn
    exact congrArg (fun k => ({ s.port with
      alert := _, figures := { s.port.figures with nextSeq := _, erasedRows := _, tornRows := k } } : Port)) htorn

end Sys2Proof.Machine

/-!
PROOFS about the service of jobs. First what the operations shared by the commands do: the completion of a job, the end of a
use, wipes, grants, and the settling of an event (R10, R32, R34, R41, R46, R48).
-/

namespace Sys2Proof.Machine

open Sys2Proof

/-! ## Readings that other updates leave -/

@[simp] theorem job_onCipher (s : State) (f : Cipher → Cipher) (j : JobId) : (s.onCipher f).job j = s.job j := rfl
@[simp] theorem job_onEntry (s : State) (h : HandleNo) (f : HandleEntry → HandleEntry) (j : JobId) :
    (s.onEntry h f).job j = s.job j := rfl
@[simp] theorem slot_onCipher (s : State) (f : Cipher → Cipher) (i : Fin 4) : (s.onCipher f).slot i = s.slot i := rfl
@[simp] theorem slot_onEntry (s : State) (h : HandleNo) (f : HandleEntry → HandleEntry) (i : Fin 4) :
    (s.onEntry h f).slot i = s.slot i := rfl
@[simp] theorem slot_setJob (s : State) (j : JobId) (x : Option Job) (i : Fin 4) : (s.setJob j x).slot i = s.slot i := rfl

theorem job_onJob (s : State) (j i : JobId) (f : Job → Job) :
    (s.onJob j f).job i = if j = i then (s.job j).map f else s.job i := State.job_setJob s j i _

/-- A record replaced by what it holds. -/
theorem setJob_self (s : State) (j : JobId) : s.setJob j (s.job j) = s := by
  simp only [State.setJob, State.onEngine, Engine.setJob, State.job, Fin.getElem_fin, Vector.set_getElem_self]

theorem setJob_setJob (s : State) (j : JobId) (x y : Option Job) : (s.setJob j x).setJob j y = s.setJob j y := by
  simp only [State.setJob, State.onEngine, Engine.setJob, Vector.set_set]

theorem onJob_setJob (s : State) (j : JobId) (x : Job) (f : Job → Job) :
    (s.setJob j (some x)).onJob j f = s.setJob j (some (f x)) := by
  rw [State.onJob, State.job_setJob_self, setJob_setJob, Option.map_some]

/-- A job's change is the change of the record that holds it. -/
theorem onJob_eq_setJob {s : State} {j : JobId} {x : Job} (h : s.job j = some x) (f : Job → Job) :
    s.onJob j f = s.setJob j (some (f x)) := by rw [State.onJob, h, Option.map_some]

theorem onSlot_onSlot (s : State) (i : Fin 4) (f g : Slot → Slot) : (s.onSlot i f).onSlot i g = s.onSlot i (g ∘ f) := by
  simp only [State.onSlot, State.onSlots, Fin.getElem_fin, Vector.getElem_set_self, Vector.set_set, Function.comp]

theorem onEntry_onEntry (s : State) (h : HandleNo) (f g : HandleEntry → HandleEntry) :
    (s.onEntry h f).onEntry h g = s.onEntry h (g ∘ f) := by
  simp only [State.onEntry, Fin.getElem_fin, Vector.getElem_set_self, Vector.set_set, Function.comp]

/-- An entry replaced by what it holds. -/
theorem onEntry_of_same {s : State} {h : HandleNo} {f : HandleEntry → HandleEntry} (hf : f (s.entry h) = s.entry h) :
    s.onEntry h f = s := by
  rw [State.entry, Fin.getElem_fin] at hf
  simp only [State.onEntry, Fin.getElem_fin, hf, Vector.set_getElem_self]

/-! ## The frame of the service of uses -/

/-- What the service of uses leaves stands if the state is the old one but for the blocks that it changes. -/
theorem sameElsewhere_iff (s t : State) : s.sameElsewhere t ↔ t = { s with
    port := t.port, engine := t.engine, cipher := t.cipher, slots := t.slots, directory := t.directory } := by
  constructor
  · rintro ⟨h1, h2, h3, h4, h5, h6, h7, h8, h9, h10⟩
    cases t
    simp only at h1 h2 h3 h4 h5 h6 h7 h8 h9 h10
    subst h1 h2 h3 h4 h5 h6 h7 h8 h9 h10
    rfl
  · intro h
    rw [h]
    exact ⟨rfl, rfl, rfl, rfl, rfl, rfl, rfl, rfl, rfl, rfl⟩

theorem sameElsewhere_trans {s t u : State} (h : s.sameElsewhere t) (k : t.sameElsewhere u) : s.sameElsewhere u := by
  obtain ⟨h1, h2, h3, h4, h5, h6, h7, h8, h9, h10⟩ := h
  obtain ⟨k1, k2, k3, k4, k5, k6, k7, k8, k9, k10⟩ := k
  exact ⟨k1.trans h1, k2.trans h2, k3.trans h3, k4.trans h4, k5.trans h5, k6.trans h6, k7.trans h7, k8.trans h8,
    k9.trans h9, k10.trans h10⟩

theorem sameElsewhere_onCipher (s : State) (f : Cipher → Cipher) : s.sameElsewhere (s.onCipher f) :=
  (sameElsewhere_iff _ _).mpr rfl
theorem sameElsewhere_onEntry (s : State) (h : HandleNo) (f : HandleEntry → HandleEntry) : s.sameElsewhere (s.onEntry h f) :=
  (sameElsewhere_iff _ _).mpr rfl
theorem sameElsewhere_setJob (s : State) (j : JobId) (x : Option Job) : s.sameElsewhere (s.setJob j x) :=
  (sameElsewhere_iff _ _).mpr rfl

/-! ## Completion -/

/-- The job engine without record `j`'s job (R34, R90). -/
def Engine.without (e : Engine) (j : JobId) : Engine where
  jobs := e.jobs.set j none
  lane := if e.lane = some j then none else e.lane
  laneWaiting := e.laneWaiting.filter (· != j)

/-- A slot without a job in its pending list (R40). -/
def Slot.without (u : Slot) (j : JobId) : Slot := { u with list := u.list.filter (· != j) }

/-- A pending list from which an absent job is taken. -/
theorem Slot.without_of_not_mem {u : Slot} {j : JobId} (h : j ∉ u.list) : u.without j = u := by
  have hlist : u.list.filter (· != j) = u.list := List.filter_eq_self.mpr fun i hi => by
    have hne : i ≠ j := fun e => h (e ▸ hi)
    simpa using hne
  rw [Slot.without, hlist]

section Completion

variable {s : State} {j : JobId} {x : Job} (hx : s.job j = some x) (st : Status) (values : List Nat)
include hx

/-- A completion is that of the job's card and the release of its record (R10, R34). -/
theorem finishJob_eq : s.finishJob j st values = (s.onPort fun p => p.jobDone x st values).freeRecord j x := by
  rw [State.finishJob, hx]
  rfl

theorem finishJob_port : (s.finishJob j st values).port = s.port.jobDone x st values := by
  obtain ⟨-, hport, -⟩ := freeRecord_blocks (s.onPort fun p => p.jobDone x st values) j x
  rw [finishJob_eq hx, hport, State.onPort_port]

theorem finishJob_engine : (s.finishJob j st values).engine = s.engine.without j := by
  rw [finishJob_eq hx]
  unfold State.freeRecord
  dsimp only
  split <;> rfl

theorem finishJob_cipher : (s.finishJob j st values).cipher = s.cipher.dropJob j := by
  rw [finishJob_eq hx]
  unfold State.freeRecord
  dsimp only
  split <;> rfl

theorem slot_finishJob (i : Fin 4) : (s.finishJob j st values).slot i = (s.slot i).without j := by
  rw [finishJob_eq hx, freeRecord_slot]
  rfl

theorem entry_finishJob (h : HandleNo) : (s.finishJob j st values).entry h =
    { s.entry h with writeList := ((s.finishJob j st values).entry h).writeList } := by
  rw [finishJob_eq hx]
  rcases freeRecord_entry (s.onPort fun p => p.jobDone x st values) j x h with e | e <;> rw [e] <;> rfl

/-- The completion of a job that joins no write list leaves every entry. -/
theorem directory_finishJob (hk : x.kind ≠ .check ∧ x.kind ≠ .package) :
    (s.finishJob j st values).directory = s.directory := by
  rw [finishJob_eq hx, State.freeRecord, if_neg (by simp [hk])]
  rfl

theorem finishJob_sameElsewhere : s.sameElsewhere (s.finishJob j st values) := by
  obtain ⟨h1, -, h3, h4, h5, h6, h7, h8, h9, h10, h11, -, -⟩ :=
    freeRecord_blocks (s.onPort fun p => p.jobDone x st values) j x
  rw [finishJob_eq hx]
  exact ⟨h1, h3, h4, h5, h6, h7, h8, h9, h10, h11⟩

theorem job_finishJob (i : JobId) : (s.finishJob j st values).job i = if i = j then none else s.job i := by
  rw [State.job, finishJob_engine hx]
  simp only [Engine.without, getElem_set_fin, eq_comm (a := j)]
  rfl

end Completion

/-! ## Wipes and the end of a use -/

/-- A slot once its wipe, if it is OPEN, has begun (R48). -/
def Slot.wiped (u : Slot) (now : Nat) : Slot :=
  match u.state with
  | .opened _ _ _ _ => { u with state := .closing now, idle := 0 }
  | _ => u

/-- A slot once a use that had passed the match has ended (R46, R47). -/
def Slot.afterUse (u : Slot) (close : Bool) (now : Nat) : Slot :=
  if close then { u with idle := 0 }.wiped now else { u with idle := 0 }

@[simp] theorem Slot.wiped_list (u : Slot) (now : Nat) : (u.wiped now).list = u.list := by
  unfold Slot.wiped
  split <;> rfl

@[simp] theorem Slot.afterUse_list (u : Slot) (close : Bool) (now : Nat) : (u.afterUse close now).list = u.list := by
  unfold Slot.afterUse
  split <;> simp

theorem wipe_eq (s : State) (i : SlotId) : s.wipe i = { s with slots := (s.wipe i).slots } := by
  unfold State.wipe
  split
  · cases i <;> rfl
  · rfl

theorem slot_wipe (s : State) (n i : Fin 4) :
    (s.wipe (.host n)).slot i = if n = i then (s.slot n).wiped s.time.milli else s.slot i := by
  unfold State.wipe Slot.wiped
  split
  next h g p k e =>
    rw [State.setSlotState, State.slot_onSlot, show (s.slot n).state = .opened h g p k from e]
  next e =>
    split
    next hi =>
      subst hi
      split
      next h g p k e' => exact absurd e' (e h g p k)
      next => rfl
    next => rfl

/-- What the end of a use that had passed the match does to its slot (R46, R47). -/
def State.releaseSlot (s : State) (x : Job) : State :=
  let s := s.resetIdle x.slotNo
  if x.autoClose then s.wipe (.host x.slotNo) else s

theorem package_wipe_host (s : State) (n : Fin 4) : (s.wipe (.host n)).slots.package = s.slots.package := by
  unfold State.wipe
  split <;> rfl

theorem releaseSlot_frame (s : State) (x : Job) : s.releaseSlot x = { s with slots := (s.releaseSlot x).slots } := by
  unfold State.releaseSlot
  dsimp only
  split
  · rw [wipe_eq]
    rfl
  · rfl

theorem slot_releaseSlot (s : State) (x : Job) (i : Fin 4) : (s.releaseSlot x).slot i =
    if x.slotNo = i then (s.slot i).afterUse x.autoClose s.time.milli else s.slot i := by
  unfold State.releaseSlot Slot.afterUse State.resetIdle
  by_cases hi : x.slotNo = i
  · subst hi
    cases x.autoClose
    · simp
    · simp only [if_true, slot_wipe, State.slot_onSlot_self]
      rfl
  · cases x.autoClose
    · simp [State.slot_onSlot, hi]
    · simp [slot_wipe, State.slot_onSlot, hi]

/-- What the end of use `x` does beside its completion (R46, R47, R69). -/
def State.useEnds (s : State) (x : Job) (st : Status) : State :=
  let s := if st = .ok then s.onEntry x.handle fun e => { e with touched := true } else s
  if x.matched then s.releaseSlot x else s

theorem useEnds_frame (s : State) (x : Job) (st : Status) :
    s.useEnds x st = { s with slots := (s.useEnds x st).slots, directory := (s.useEnds x st).directory } := by
  unfold State.useEnds
  dsimp only
  split
  · rw [releaseSlot_frame]
    split <;> rfl
  · split <;> rfl

theorem slot_useEnds (s : State) (x : Job) (st : Status) (i : Fin 4) : (s.useEnds x st).slot i =
    if x.matched = true ∧ x.slotNo = i then (s.slot i).afterUse x.autoClose s.time.milli else s.slot i := by
  unfold State.useEnds
  cases x.matched
  · by_cases hst : st = .ok <;> simp [hst]
  · by_cases hst : st = .ok <;> simp [hst, slot_releaseSlot]

theorem entry_useEnds (s : State) (x : Job) (st : Status) (h : HandleNo) : (s.useEnds x st).entry h =
    if st = .ok ∧ x.handle = h then { s.entry h with touched := true } else s.entry h := by
  have hslots : ∀ u : State, (u.releaseSlot x).entry h = u.entry h := fun u => by rw [releaseSlot_frame]; rfl
  unfold State.useEnds
  by_cases hh : x.handle = h
  · subst hh
    cases x.matched <;> by_cases hst : st = .ok <;> simp [hst, hslots]
  · cases x.matched <;> by_cases hst : st = .ok <;> simp [hst, hslots, State.entry_onEntry, hh]

theorem package_useEnds (s : State) (x : Job) (st : Status) : (s.useEnds x st).slots.package = s.slots.package := by
  have hrelease : ∀ u : State, (u.releaseSlot x).slots.package = u.slots.package := by
    intro u
    unfold State.releaseSlot
    cases x.autoClose
    · rfl
    · exact package_wipe_host _ _
  unfold State.useEnds
  cases x.matched <;> by_cases hst : st = .ok <;> simp [hst, hrelease]

section UseEnds

variable {s : State} {j : JobId} {x : Job} (hx : s.job j = some x) (st : Status) (values : List Nat)
include hx

theorem finishUse_eq : s.finishUse j st values = (s.finishJob j st values).useEnds x st := by
  rw [State.finishUse, hx]
  rfl

theorem finishUse_port : (s.finishUse j st values).port = s.port.jobDone x st values := by
  rw [finishUse_eq hx, useEnds_frame]
  exact finishJob_port hx st values

theorem finishUse_engine : (s.finishUse j st values).engine = s.engine.without j := by
  rw [finishUse_eq hx, useEnds_frame]
  exact finishJob_engine hx st values

theorem finishUse_cipher : (s.finishUse j st values).cipher = s.cipher.dropJob j := by
  rw [finishUse_eq hx, useEnds_frame]
  exact finishJob_cipher hx st values

theorem job_finishUse (i : JobId) : (s.finishUse j st values).job i = if i = j then none else s.job i := by
  rw [finishUse_eq hx, useEnds_frame]
  exact job_finishJob hx st values i

theorem finishUse_sameElsewhere : s.sameElsewhere (s.finishUse j st values) := by
  rw [finishUse_eq hx, useEnds_frame]
  exact sameElsewhere_trans (finishJob_sameElsewhere hx st values) ((sameElsewhere_iff _ _).mpr rfl)

theorem package_finishUse : (s.finishUse j st values).slots.package = s.slots.package := by
  obtain ⟨-, -, -, -, -, -, -, -, -, -, -, -, hpackage⟩ := freeRecord_blocks (s.onPort fun p => p.jobDone x st values) j x
  rw [finishUse_eq hx, package_useEnds, finishJob_eq hx]
  exact hpackage

theorem slot_finishUse (i : Fin 4) : (s.finishUse j st values).slot i =
    if x.matched = true ∧ x.slotNo = i then ((s.slot i).without j).afterUse x.autoClose s.time.milli
    else (s.slot i).without j := by
  obtain ⟨-, -, -, -, -, htime, -⟩ := finishJob_sameElsewhere hx st values
  rw [finishUse_eq hx, slot_useEnds, slot_finishJob hx, htime]

theorem entry_finishUse (h : HandleNo) : (s.finishUse j st values).entry h = { s.entry h with
    writeList := ((s.finishUse j st values).entry h).writeList, touched := ((s.finishUse j st values).entry h).touched } := by
  have hentry := entry_finishJob hx st values h
  rw [finishUse_eq hx, entry_useEnds]
  split
  · rw [hentry]
  · rw [hentry]

/-- A use that does not end OK leaves touched (R69). -/
theorem entry_finishUse_of_ne_ok (hst : st ≠ .ok) (h : HandleNo) : (s.finishUse j st values).entry h =
    { s.entry h with writeList := ((s.finishUse j st values).entry h).writeList } := by
  rw [finishUse_eq hx, entry_useEnds, if_neg (fun e => hst e.1)]
  exact entry_finishJob hx st values h

/-- The end of a SIGN leaves every write list (R64). -/
theorem writeList_finishUse_of_sign (hk : x.kind = .sign) (h : HandleNo) :
    ((s.finishUse j st values).entry h).writeList = (s.entry h).writeList := by
  have hdirectory := directory_finishJob hx st values (by rw [hk]; decide)
  rw [finishUse_eq hx, entry_useEnds]
  split <;> rw [State.entry_congr hdirectory]

end UseEnds

/-! ## Grants -/

/-- The last group once a request is granted (R33). -/
def State.groupServed (s : State) : Request → Group
  | .use j => ((s.job j).map fun x => cardGroup x.card).getD .m
  | _ => s.cipher.lastGroup

/-- The job of a granted request goes on to its operation (R31, R32). -/
def State.beginJob (s : State) : Request → State
  | .slotUnwrap _ => s
  | .lane j | .use j => s.onJob j fun x => { x with step := x.step.begun }

theorem setStep_eq_begun {s : State} {j : JobId} {x : Job} (hx : s.job j = some x) :
    s.setStep j x.step.begun = s.onJob j fun x => { x with step := x.step.begun } := by
  rw [State.setStep, onJob_eq_setJob hx, onJob_eq_setJob hx]

/-- A grant begins the request's operation, where it names one (R32, R33). -/
theorem grant_eq {s : State} {r : Request} {op : CoreOp} (h : s.granted r = some op) :
    s.grant r = (s.onCipher fun c => { c with running := some ⟨op, false⟩, lastGroup := s.groupServed r }).beginJob r := by
  cases r with
  | slotUnwrap i =>
    simp only [State.granted] at h
    simp only [State.grant]
    split at h
    next => cases h; rfl
    next => cases h
  | lane j =>
    cases hx : s.job j with
    | none => simp [State.granted, hx] at h
    | some x =>
      simp only [State.granted, hx, Option.bind_some] at h
      have hbegun := setStep_eq_begun (s := s.runCore op) (j := j) (x := x) hx
      simp only [State.grant, hx]
      split at h
      next second e => cases h; rw [e] at hbegun; exact hbegun
      next e => cases h; rw [e] at hbegun; exact hbegun
      next => cases h
  | use j =>
    cases hx : s.job j with
    | none => simp [State.granted, hx] at h
    | some x =>
      simp only [State.granted, hx, Option.bind_some] at h
      have hbegun := setStep_eq_begun (s := (s.onCipher fun c => { c with lastGroup := x.group }).runCore op)
        (j := j) (x := x) hx
      simp only [State.grant, hx, State.grantUse, State.groupServed, Option.map_some, Option.getD_some]
      split at h
      next e => cases h; rw [e] at hbegun; exact hbegun
      next e => cases h; rw [e] at hbegun; exact hbegun
      next e => cases h; rw [e] at hbegun; exact hbegun
      next => cases h

/-- The operation of a granted request is the requesting job's. -/
theorem granted_byJob {s : State} {r : Request} {op : CoreOp} (h : s.granted r = some op) (j : JobId) :
    op.byJob j = r.byJob j := by
  cases r with
  | slotUnwrap i =>
    simp only [State.granted] at h
    split at h <;> cases h
    rfl
  | lane j =>
    obtain ⟨x, -, hx⟩ := Option.bind_eq_some_iff.mp h
    split at hx <;> cases hx <;> rfl
  | use j =>
    obtain ⟨x, -, hx⟩ := Option.bind_eq_some_iff.mp h
    split at hx <;> cases hx <;> rfl

/-- A use whose turn has come begins in an idle core, and waits for a busy one (R32). -/
theorem requestCore_use {s : State} {j : JobId} {y : Job} {op : CoreOp} (hy : s.job j = some y)
    (hop : s.granted (.use j) = some op) : s.requestCore (.use j) =
      (s.onJob j fun x => { x with step := if s.cipher.running.isSome then x.step else x.step.begun }).onCipher
        fun q => q.useAsked j y.group op := by
  unfold State.requestCore
  cases hr : s.cipher.running with
  | none =>
    simp only [Option.isNone_none, if_true]
    rw [grant_eq hop, State.groupServed, hy]
    simp only [State.beginJob, Option.isSome_none, State.onJob, State.setJob, State.onEngine, State.onCipher,
      Cipher.useAsked, hr]
    rfl
  | some run =>
    have hself : (s.onJob j fun x => { x with step := x.step }) = s := by
      rw [onJob_eq_setJob hy, ← hy, setJob_self]
    simp only [Option.isNone_some, Option.isSome_some, if_true, hself]
    simp [State.onCipher, Cipher.useAsked, hr]

/-! ## Settling -/

section Moves

variable {s : State}

/-- No front of a write list is judged where no job waits for it (R65). -/
theorem writeFront_eq_none {j : JobId} (h : ∀ x, s.job j = some x → x.step = .writeWait ∨ x.step = .confirmWait →
    s.atWriteFront j x = false) : s.writeFront j = none := by
  unfold State.writeFront
  cases hx : s.job j with
  | none => rfl
  | some x =>
    simp only
    split
    next hat =>
      have hnot : ¬(x.step = .writeWait ∨ x.step = .confirmWait) := fun hs => by simp [h x hx hs] at hat
      split
      next e => exact absurd (.inl e) hnot
      next e => exact absurd (.inr e) hnot
      next => rfl
    next => rfl

/-- A closed lane admits no job (R90). -/
theorem laneOpen_of_closed (hlane : s.engine.lane = none) (h : s.LaneClosed) : s.laneOpen = false := by
  have hprogram : ∀ r : Requester, r.abortedLane = true → s.store.holdsRecordOf r → s.laneOpen = false := by
    intro r hr hh
    rcases hh with ⟨p, hp, rfl⟩ | ⟨p, hp, rfl⟩ <;> simp [State.laneOpen, hp, hr]
  rcases h with h | h | h
  · exact absurd hlane h
  · exact hprogram _ rfl h
  · exact hprogram _ rfl h

/-- The lane stands where its job waits for P or the core, and no job may enter it (R90). -/
theorem laneStep_eq_none (hwaiting : s.engine.laneWaiting = [] ∨ s.LaneClosed)
    (hlane : ∀ j x, s.engine.lane = some j → s.job j = some x → s.slots.package = .empty →
      (∀ k g, x.step ≠ .keyWait k g) ∧ ∀ n, x.step ≠ .releasing n) : s.laneStep = none := by
  unfold State.laneStep
  split
  next j hj =>
    split
    next x hx hp =>
      obtain ⟨hkey, hrel⟩ := hlane j x hj hx hp
      split
      next e => exact absurd e (hrel _)
      next e => exact absurd e (hkey _ _)
      next => rfl
    next => rfl
  next hj =>
    rcases hwaiting with hw | hclosed
    · rw [hw]; rfl
    · split
      next => rfl
      next => split <;> simp [laneOpen_of_closed hj hclosed]

/-- The front of a pending list waits unless it is to be served and its slot is EMPTY or OPEN (R41). -/
theorem serveFront_eq_none {i : Fin 4} (h : ∀ j x, (s.slot i).list.head? = some j → s.job j = some x →
    x.step = .slotQueue → (s.slot i).state ≠ .empty ∧ ∀ a g p k, (s.slot i).state ≠ .opened a g p k) :
    s.serveFront i = none := by
  unfold State.serveFront
  split
  next => rfl
  next j hj =>
    split
    next => rfl
    next x hx =>
      split
      next => rfl
      next hs =>
        obtain ⟨hempty, hopened⟩ := h j x hj hx (not_not.mp hs)
        cases hst : (s.slot i).state with
        | empty => exact absurd hst hempty
        | opened a g p k => exact absurd hst (hopened a g p k)
        | reading => rfl
        | unwrapping => rfl
        | closing => rfl

/-- Where every job in hand waits for an event from outside, no move is open. -/
theorem internalStep_of_still (h : s.Still) : s.internalStep = none := by
  obtain ⟨hwrite, hwaiting, hlane, hfront⟩ := h
  have hw : ∀ j, s.writeFront j = none := fun j => writeFront_eq_none fun x hx hs => by
    unfold State.atWriteFront
    cases hh : (s.entry x.writeHandle).writeList.head? with
    | none => rfl
    | some w => simpa using hwrite j x hx hs w hh
  rw [State.internalStep, List.findSome?_eq_none_iff.mpr fun j _ => hw j, laneStep_eq_none hwaiting hlane,
    List.findSome?_eq_none_iff.mpr fun i _ => serveFront_eq_none (hfront i)]
  rfl

/-- Where every job in hand waits for an event from outside, settling changes nothing. -/
theorem settle_of_still (h : s.Still) : s.settle = s := settle_of_internalStep_none (internalStep_of_still h)

end Moves

/-- The steps at which a job may go on by itself within an event (R41, R65, R90). -/
def JobStep.goesOnAlone : JobStep → Bool
  | .slotQueue | .writeWait | .confirmWait | .keyWait _ _ | .releasing _ => true
  | _ => false

/-- Every job goes on waiting where no job has come to a step at which it may go on by itself, no write list has changed, the
lane is as closed as before, and no slot whose list still holds a job has changed. -/
theorem State.Still.transport {s t : State} (h : s.Still)
    (hjob : ∀ j y, t.job j = some y → y.step.goesOnAlone = true → s.job j = some y)
    (hentry : ∀ a, (t.entry a).writeList = (s.entry a).writeList)
    (hwaiting : t.engine.laneWaiting = [] ∨ t.LaneClosed)
    (hlane : ∀ j, t.engine.lane = some j → s.engine.lane = some j) (hpackage : t.slots.package = s.slots.package)
    (hslot : ∀ i, (t.slot i).list = [] ∨ t.slot i = s.slot i) : t.Still := by
  obtain ⟨hwrite, -, hkey, hfront⟩ := h
  refine ⟨fun j y hy hs w hw => ?_, hwaiting, fun j y hj hy hp => ?_, fun i j y hj hy hs => ?_⟩
  · have hy' : s.job j = some y := hjob j y hy (by rcases hs with e | e <;> rw [e] <;> rfl)
    exact hwrite j y hy' hs w (by rw [← hentry]; exact hw)
  · refine ⟨fun k g e => ?_, fun n e => ?_⟩
    · have hy' : s.job j = some y := hjob j y hy (by rw [e]; rfl)
      exact (hkey j y (hlane j hj) hy' (hpackage ▸ hp)).1 k g e
    · have hy' : s.job j = some y := hjob j y hy (by rw [e]; rfl)
      exact (hkey j y (hlane j hj) hy' (hpackage ▸ hp)).2 n e
  · have hy' : s.job j = some y := hjob j y hy (by rw [hs]; rfl)
    rcases hslot i with e | e
    · rw [e] at hj; cases hj
    · rw [e] at hj ⊢
      exact hfront i j y hj hy' hs

/-- No move is open but, perhaps, at the front of slot `n`'s list: no job waits for a write list or for the lane, the lane
goes on with none, and the other lists are empty. -/
def State.OnlyFront (s : State) (n : Fin 4) : Prop :=
  (∀ j x, s.job j = some x → x.step ≠ .writeWait ∧ x.step ≠ .confirmWait) ∧ s.engine.laneWaiting = [] ∧
  (∀ j x, s.engine.lane = some j → s.job j = some x →
    (∀ k g, x.step ≠ .keyWait k g) ∧ ∀ m, x.step ≠ .releasing m) ∧
  ∀ i, i ≠ n → (s.slot i).list = []

theorem internalStep_of_onlyFront {s : State} {n : Fin 4} (h : s.OnlyFront n) : s.internalStep = s.serveFront n := by
  obtain ⟨hsteps, hwaiting, hlane, hlists⟩ := h
  have hw : ∀ j, s.writeFront j = none := fun j => writeFront_eq_none fun x hx hs => by
    obtain ⟨h1, h2⟩ := hsteps j x hx
    exact absurd hs (by simp [h1, h2])
  have hothers : ∀ i, i ≠ n → s.serveFront i = none := fun i hi =>
    serveFront_eq_none fun j x hj => by simp [hlists i hi] at hj
  have hslots : allSlots.findSome? s.serveFront = s.serveFront n := by
    cases hn : s.serveFront n with
    | none =>
      refine List.findSome?_eq_none_iff.mpr fun i _ => ?_
      by_cases hi : i = n
      · rw [hi, hn]
      · exact hothers i hi
    | some t =>
      fin_cases n <;> simp_all [allSlots]
  rw [State.internalStep, List.findSome?_eq_none_iff.mpr fun j _ => hw j,
    laneStep_eq_none (.inl hwaiting) fun j x hj hx _ => hlane j x hj hx, hslots]
  rfl

/-- One move, after which none is open. -/
theorem settle_of_one {s t : State} (h : s.internalStep = some t) (ht : t.internalStep = none) : s.settle = t := by
  rw [State.settle, State.settleFor, h]
  simp only
  rw [State.settleFor, ht]

/-- Two moves, after which none is open. -/
theorem settle_of_two {s t u : State} (h : s.internalStep = some t) (ht : t.internalStep = some u)
    (hu : u.internalStep = none) : s.settle = u := by
  rw [State.settle, State.settleFor, h]
  simp only
  rw [State.settleFor, ht]
  simp only
  rw [State.settleFor, hu]

end Sys2Proof.Machine

/-!
PROOFS about intake: which card it takes, and the commands by which it takes one (R24 to R29, R18, R37).
-/

namespace Sys2Proof.Machine

open Sys2Proof

/-! ## Which card is taken -/

theorem cardGroup_eq_iff (m n : CardNo) : cardGroup m = cardGroup n ↔ (m.val < 16 ↔ n.val < 16) := by
  unfold cardGroup
  split <;> split <;> simp <;> omega

theorem cardGroup_m_iff (n : CardNo) : cardGroup n = .m ↔ n.val < 16 := by
  unfold cardGroup
  split <;> simp_all

theorem groupRecords_eq (s : State) (n : CardNo) : s.groupRecords (cardGroup n) =
    (List.finRange 6).countP fun j => (s.job j).any fun x => decide (x.card.val < 16 ↔ n.val < 16) := by
  have hall : allJobs = List.finRange 6 := by decide
  rw [State.groupRecords, ← List.countP_eq_length_filter, hall]
  simp only [Job.group, cardGroup_eq_iff]

/-- The kinds that intake takes in RESERVE are those of the kind bytes 1 to 5 (R25). -/
theorem reserveAllowed_iff (b : Byte) : (kindOfByte b).any Kind.reserveAllowed = true ↔ 1 ≤ b.toNat ∧ b.toNat ≤ 5 := by
  unfold kindOfByte
  split
  case h_10 =>
    simp only [Option.any_none, Bool.false_eq_true, false_iff]
    rintro ⟨h1, h2⟩
    interval_cases b.toNat <;> simp_all
  all_goals next e => rw [e]; decide

theorem takable_iff (s : State) (n : CardNo) : s.takable n = true ↔
    (List.finRange 6).countP (fun j => (s.job j).any fun x => decide (x.card.val < 16 ↔ n.val < 16)) < 4 ∧
      (n.val < 16 ∨ s.settings.admitC = true) ∧
      (s.supply.power = .mains ∨ (1 ≤ (s.kindByte n).toNat ∧ (s.kindByte n).toNat ≤ 5)) := by
  rw [State.takable, Bool.and_eq_true, Bool.and_eq_true, Bool.or_eq_true, Bool.or_eq_true, reserveAllowed_iff, groupRecords_eq]
  simp only [decide_eq_true_eq, cardGroup_m_iff, and_assoc]

theorem freeRecordNo_isSome_iff (s : State) : (∃ j, s.freeRecordNo = some j) ↔ ∃ j, s.job j = none := by
  rw [State.freeRecordNo, ← Option.isSome_iff_exists, List.find?_isSome]
  simp [mem_allJobs]

theorem nextTake_eq_some_iff (s : State) (n : CardNo) (j : JobId) : s.nextTake = some (n, j) ↔
    s.intakeRuns = true ∧ s.port.arrival.find? s.takable = some n ∧ s.freeRecordNo = some j := by
  unfold State.nextTake
  cases s.intakeRuns <;> cases s.port.arrival.find? s.takable <;> cases s.freeRecordNo <;> simp

/-- Settles O19: the conditions of R25 one by one, and the first takable card of the list. -/
theorem intakeTakesTheFirstTakableCard : Obligations.IntakeTakesTheFirstTakableCard := by
  unfold Obligations.IntakeTakesTheFirstTakableCard
  intro s n
  refine ⟨takable_iff s n, ?_, fun j h => (nextTake_some h).2.2.1⟩
  have hruns : s.intakeRuns = true ↔
      s.resetCtl.part = .ready ∧ s.supply.activity = .active ∧ s.resetCtl.warmReset = false := by
    simp [State.intakeRuns, and_assoc]
  have hfirst : s.port.arrival.find? s.takable = some n ↔
      ∃ before behind, s.port.arrival = before ++ n :: behind ∧ s.takable n = true ∧
        ∀ m ∈ before, s.takable m = false := by
    rw [List.find?_eq_some_iff_append]
    constructor
    · rintro ⟨hn, before, behind, he, hb⟩
      exact ⟨before, behind, he, hn, by simpa using hb⟩
    · rintro ⟨before, behind, he, hn, hb⟩
      exact ⟨hn, before, behind, he, by simpa using hb⟩
  simp only [nextTake_eq_some_iff, exists_and_left, freeRecordNo_isSome_iff, hruns, hfirst]
  exact and_congr_right fun _ => and_comm

/-! ## The take -/

/-- Card `n` taken into record `j` as job `x` (R27). -/
def State.taken (s : State) (n : CardNo) (j : JobId) (x : Job) : State := (s.onPort fun p => p.take n).setJob j (some x)

/-- What a job that passes the checks at take goes through in the event of its take, by its kind. -/
def Kind.course (k : Kind) (j : JobId) (x : Job) (s : State) : State :=
  match k with
  | .openKey | .closeSlot | .sign | .check => (s.joinSlot j x).settle
  | .query => s.serveQuery j x
  | .package => s.servePackage j x
  | .time => s.serveTime j x
  | .settings => s.serveSettings j x
  | .windows => s.serveWindows j x

theorem exec_command (k : Kind) (s : State) : exec k.command s = .next (s.takeKind k k.course) := by
  cases k <;> rfl

/-- Intake's command of a kind takes the card that is next, where it is of that kind (R24, R27). -/
theorem exec_command_of_next {s : State} {n : CardNo} {j : JobId} {k : Kind} (hnext : s.nextTake = some (n, j))
    (hkind : kindOfByte (s.kindByte n) = some k) :
    exec k.command s = .next (s.takeCard n j (s.snapshot n k) (k.course j (s.snapshot n k))) := by
  rw [exec_command, State.takeKind, hnext]
  simp only
  rw [if_pos hkind]

/-- A card that passes the checks at take goes on with its kind's course (R27, R28). -/
theorem exec_command_of_takes {s : State} {n : CardNo} {j : JobId} {k : Kind} (h : s.Takes n j k) :
    exec k.command s = .next (k.course j (s.snapshot n k) (s.taken n j (s.snapshot n k))) := by
  obtain ⟨hnext, hkind, hcheck⟩ := h
  have hcheck' : checkAtTake ((s.onPort fun p => p.take n).setJob j (some (s.snapshot n k))).port.windows
      (s.snapshot n k) = none := hcheck
  rw [exec_command_of_next hnext hkind, State.takeCard, hcheck']
  rfl

/-- A card that fails the checks at take completes with their first refusal (R28). -/
theorem exec_command_of_refused {s : State} {n : CardNo} {j : JobId} {k : Kind} {st : Status} (hnext : s.nextTake = some (n, j))
    (hkind : kindOfByte (s.kindByte n) = some k) (hcheck : checkAtTake s.port.windows (s.snapshot n k) = some st) :
    exec k.command s = .next ((s.taken n j (s.snapshot n k)).finishJob j st []) := by
  have hcheck' : checkAtTake ((s.onPort fun p => p.take n).setJob j (some (s.snapshot n k))).port.windows
      (s.snapshot n k) = some st := hcheck
  rw [exec_command_of_next hnext hkind, State.takeCard, hcheck']
  rfl

section Taken

variable (s : State) (n : CardNo) (j : JobId) (x : Job)

theorem job_taken (i : JobId) : (s.taken n j x).job i = if j = i then some x else s.job i := State.job_setJob _ j i _

@[simp] theorem job_taken_self : (s.taken n j x).job j = some x := by simp [job_taken]

theorem taken_sameElsewhere : s.sameElsewhere (s.taken n j x) := (sameElsewhere_iff _ _).mpr rfl

end Taken

/-- The record that a job was taken into is free again once the job has completed. -/
theorem job_finishJob_taken {s u : State} {n : CardNo} {j : JobId} {x : Job} (hj : s.job j = none)
    (hu : u.engine = (s.taken n j x).engine) (st : Status) (values : List Nat) (i : JobId) :
    (u.finishJob j st values).job i = s.job i := by
  have hx : u.job j = some x := (State.job_congr hu j).trans (job_taken_self s n j x)
  rw [job_finishJob hx, State.job_congr hu, job_taken]
  by_cases hi : i = j
  · subst hi; simp [hj]
  · simp [hi, Ne.symm hi]

theorem snapshot_fields (s : State) (n : CardNo) (k : Kind) : (s.snapshot n k).kind = k ∧ (s.snapshot n k).notes = 0 ∧
    (s.snapshot n k).output = [] ∧ (s.snapshot n k).step = .slotQueue ∧ (s.snapshot n k).matched = false := by
  unfold State.snapshot
  dsimp only
  split <;> exact ⟨rfl, rfl, rfl, rfl, rfl⟩

/-! ## Refusals at take -/

/-- The checks at take give three refusals (R28). -/
theorem checkAtTake_status {ws : Vector Window 8} {x : Job} {st : Status} (h : checkAtTake ws x = some st) :
    st = .groupDenied ∨ st = .fieldBad ∨ st = .windowDenied := by
  unfold checkAtTake at h
  repeat' split at h
  all_goals cases h
  all_goals simp

/-- A refusal at take raises no event bit (R35). -/
theorem completionEvent_of_refused {ws : Vector Window 8} {x : Job} {st : Status} (h : checkAtTake ws x = some st) (k : Kind) :
    completionEvent k st 0 = 0 := by
  rcases checkAtTake_status h with rfl | rfl | rfl <;> simp [completionEvent]

/-- Settles O21: a refusal is a take and a completion in one event. -/
theorem refusalAtTakeCompletesTheCard : Obligations.RefusalAtTakeCompletesTheCard := by
  unfold Obligations.RefusalAtTakeCompletesTheCard
  refine ⟨?_, ?_⟩
  · intro s n j k st hnext hkind hcheck
    obtain ⟨-, -, hfree, -⟩ := nextTake_some hnext
    obtain ⟨hk, hnotes, houtput, -, -⟩ := snapshot_fields s n k
    have hx := job_taken_self s n j (s.snapshot n k)
    refine ⟨_, exec_command_of_refused hnext hkind hcheck, ?_, job_finishJob_taken hfree rfl st [],
      sameElsewhere_trans (taken_sameElsewhere s n j _) (finishJob_sameElsewhere hx st []), fun i => ?_,
      fun h => entry_finishJob hx st [] h⟩
    · rw [finishJob_port hx, Port.jobDone, hk, hnotes, houtput, completionEvent_of_refused hcheck, snapshot_card]
      rfl
    · rw [slot_finishJob hx]
      rfl
  · intro s n j hnext hkind
    have hnotify : bitAt (s.cardHeader n) 2 0 = (Memory.read s.port.memory (cardBase n + 2)).getLsbD 0 := rfl
    rw [exec, execKindUnknownRefusal, hnext]
    simp only
    rw [if_pos hkind, State.refuseUnknown, completeCard_eq, hnotify]
    rfl

/-! ## SETTINGS and WINDOWS -/

/-- The settings and the time base as a SETTINGS job sets them (R37). -/
def State.withSettings (s : State) (x : Job) : State :=
  (s.onSettings fun _ => ⟨x.idleLimit, x.admitBit, true⟩).onTime fun t =>
    { t with stepMax := x.stepMax, drift := min t.drift x.stepMax }

/-- The port with the window table of a WINDOWS job (R18). -/
def State.withWindows (s : State) (x : Job) : State := s.onPort fun p => { p with windows := x.windows }

theorem windows_getElem (x : Job) (i : Fin 8) : x.windows[i] = x.window i.val := by
  fin_cases i <;> rfl

theorem exec_takeSettings {s : State} {n : CardNo} {j : JobId} (h : s.Takes n j .settings) :
    exec .takeSettings s =
      .next (((s.taken n j (s.snapshot n .settings)).withSettings (s.snapshot n .settings)).finishJob j .ok []) :=
  exec_command_of_takes h

theorem exec_takeWindows {s : State} {n : CardNo} {j : JobId} (h : s.Takes n j .windows) :
    exec .takeWindows s =
      .next (((s.taken n j (s.snapshot n .windows)).withWindows (s.snapshot n .windows)).finishJob j .ok []) :=
  exec_command_of_takes h

/-- Settles O25: both kinds change their block and complete OK. -/
theorem settingsAndWindowsJobsApply : Obligations.SettingsAndWindowsJobsApply := by
  unfold Obligations.SettingsAndWindowsJobsApply
  refine ⟨?_, ?_⟩
  · intro s n j h x
    obtain ⟨-, -, hfree, -⟩ := nextTake_some h.1
    have hx : ((s.taken n j x).withSettings x).job j = some x := job_taken_self s n j x
    have hengine : ((s.taken n j x).withSettings x).engine = (s.taken n j x).engine := rfl
    have hkind : x.kind ≠ .check ∧ x.kind ≠ .package := by rw [(snapshot_fields s n .settings).1]; decide
    obtain ⟨-, hsettings, -, -, hstore, htime, -, hsupply, -⟩ := finishJob_sameElsewhere hx .ok []
    refine ⟨_, exec_takeSettings h, hsettings, htime, finishJob_port hx .ok [], job_finishJob_taken hfree hengine .ok [],
      hstore, hsupply, State.entry_congr (directory_finishJob hx .ok [] hkind), fun i => ?_⟩
    have hslot := slot_finishJob hx .ok [] i
    exact ⟨(congrArg Slot.state hslot :), (congrArg Slot.idle hslot :)⟩
  · intro s n j h x
    obtain ⟨-, -, hfree, -⟩ := nextTake_some h.1
    have hx : ((s.taken n j x).withWindows x).job j = some x := job_taken_self s n j x
    have hengine : ((s.taken n j x).withWindows x).engine = (s.taken n j x).engine := rfl
    have hkind : x.kind ≠ .check ∧ x.kind ≠ .package := by rw [(snapshot_fields s n .windows).1]; decide
    have hport := finishJob_port hx .ok []
    have hwindows : (((s.taken n j x).withWindows x).finishJob j .ok []).port.windows = x.windows := congrArg Port.windows hport
    refine ⟨_, exec_takeWindows h, ?_, fun i => ?_, job_finishJob_taken hfree hengine .ok [], finishJob_sameElsewhere hx .ok [],
      State.entry_congr (directory_finishJob hx .ok [] hkind)⟩
    · rw [hwindows]
      exact hport
    · rw [hwindows, windows_getElem]
      rfl

/-! ## The queue -/

/-- Settles O1, by the two cases of `step`. -/
theorem stepRunsTheFrontCommand : Obligations.StepRunsTheFrontCommand := by
  unfold Obligations.StepRunsTheFrontCommand
  refine ⟨fun c rest s h => ?_, fun s h => ?_⟩ <;> rw [step, h]

end Sys2Proof.Machine

/-!
PROOFS about the events of the openings and of the arbiter: row reads, the pick of a request, and the end of an operation
(R32, R33, R43, R44, R128).
-/

namespace Sys2Proof.Machine

open Sys2Proof

/-! ## Row reads -/

theorem bankBusy_iff (t : Store) (b : BankNo) :
    t.bankBusy b = true ↔ (∃ p, t.program = some p ∧ p.location.bank = b) ∨ t.erase = some b := by
  unfold Store.bankBusy
  cases t.program <;> simp

/-- A slot's waiting read starts where its bank is free (R128). -/
theorem exec_rowReadStart_slot {s : State} {i : SlotId} {h : HandleNo} {g : Nat} {l : Location}
    (hslot : s.slotState i = .reading h g none) (hl : (s.entry h).locationOf g = some l) :
    exec (.rowReadStart (.slot i)) s =
      .next (if s.store.bankBusy l.bank then s else s.setSlotState i (.reading h g (some l))) := by
  simp only [exec, execRowReadStart, State.slotReadStart, State.startRead, hslot, hl]

/-- A fold's waiting read starts where its bank is free (R128). -/
theorem exec_rowReadStart_fold {s : State} {h : HandleNo} {g : Nat} {l : Location} {tail : BankNo} {w : CopyWalk}
    (hr : s.store.reclaim = some ⟨tail, .copy w, false⟩) (hw : w.stage = .reading h g none)
    (hl : (s.entry h).locationOf g = some l) : exec (.rowReadStart .fold) s =
      .next (if s.store.bankBusy l.bank then s else s.onStore fun t =>
        { t with reclaim := some ⟨tail, .copy { w with stage := .reading h g (some l) }, false⟩ }) := by
  simp only [exec, execRowReadStart, State.foldReadStart, Store.copyStage, hr, hw, hl, State.onStore, Store.setCopyStage]

/-- A slot that asks for its unwrap gets it from an idle core, and waits for a busy one (R32). -/
theorem requestCore_slotUnwrap {s : State} {i : SlotId} {h : HandleNo} {g : Nat} {p : Policy} {m : List Byte}
    (hslot : s.slotState i = .unwrapping h g p m) : s.requestCore (.slotUnwrap i) = s.onCipher fun c =>
      if s.cipher.running = none then { c with running := some ⟨.slotUnwrap i m, false⟩ }
      else { c with waiting := c.waiting ++ [.slotUnwrap i] } := by
  simp only [State.requestCore, State.grant, hslot]
  cases s.cipher.running <;> rfl

/-- The read of the KEY row of its handle and generation serves an opening (R44). -/
theorem keyRowFor_of_key {row : Row} {d : RowData} {h : HandleNo} {g : Nat} {k : KeyRecord} (hrow : row = .valid d)
    (hd : d.record = .key h g k) : keyRowFor row true h g = some k := by
  simp [keyRowFor, hrow, hd]

/-- Any other read does not (R44). -/
theorem keyRowFor_eq_none {row : Row} {crcOk : Bool} {h : HandleNo} {g : Nat}
    (hno : crcOk = false ∨ ∀ d k, row = .valid d → d.record ≠ .key h g k) : keyRowFor row crcOk h g = none := by
  unfold keyRowFor
  split
  next d =>
    split
    next x g' k hd =>
      refine if_neg ?_
      rintro ⟨hcrc, rfl, rfl⟩
      rcases hno with h | h
      · rw [h] at hcrc; cases hcrc
      · exact h d k rfl hd
    next => rfl
  next => rfl

/-- An opening that fails leaves its slot EMPTY and completes its job (R44). -/
theorem failOpening_eq {s : State} {i : SlotId} {j : JobId} (hj : s.servedBy i = some j) (st : Status) :
    s.failOpening i st = (s.setSlotState i .empty).finishJob j st [] := by
  have hserved : (s.setSlotState i .empty).servedBy i = some j := by
    cases i with
    | host n => rw [← hj, State.servedBy, State.setSlotState, State.slot_onSlot_self]; rfl
    | package => exact hj
  rw [State.failOpening]
  simp only [hserved]

theorem setSlotState_sameElsewhere (s : State) (i : SlotId) (u : SlotState) : s.sameElsewhere (s.setSlotState i u) := by
  cases i <;> exact (sameElsewhere_iff _ _).mpr rfl

theorem job_setSlotState (s : State) (i : SlotId) (u : SlotState) (j : JobId) : (s.setSlotState i u).job j = s.job j := by
  cases i <;> rfl

/-- A completion leaves every slot's state. -/
theorem slotState_finishJob {s : State} {j : JobId} {x : Job} (hx : s.job j = some x) (st : Status) (values : List Nat)
    (i : SlotId) : (s.finishJob j st values).slotState i = s.slotState i := by
  cases i with
  | host n => rw [State.slotState, slot_finishJob hx]; rfl
  | package =>
    obtain ⟨-, -, -, -, -, -, -, -, -, -, -, -, hpackage⟩ := freeRecord_blocks (s.onPort fun p => p.jobDone x st values) j x
    rw [finishJob_eq hx]
    exact hpackage

/-- Settles O30: the start of a read by the state of its bank, its end by the row that it gives. -/
theorem rowReadsStartAndEnd : Obligations.RowReadsStartAndEnd := by
  unfold Obligations.RowReadsStartAndEnd
  refine ⟨?_, ?_⟩
  · intro s h g l hl busy
    have hbusy : busy ↔ s.store.bankBusy l.bank = true := (bankBusy_iff _ _).symm
    refine ⟨fun i hi => ?_, fun tail w hr hw => ?_⟩
    · rw [exec_rowReadStart_slot hi hl, hbusy]
      exact ⟨fun hb => by rw [if_neg hb], fun hb => by rw [if_pos hb]⟩
    · rw [exec_rowReadStart_fold hr hw hl, hbusy]
      exact ⟨fun hb => by rw [if_neg hb], fun hb => by rw [if_pos hb]⟩
  · intro s i h g l hi
    refine ⟨?_, ?_⟩
    · intro d k hrow hd t
      have ht : t.slotState i = .unwrapping h g k.policy k.material := by
        rw [State.slotState_setSlotState, if_pos rfl]
      have hcipher : t.cipher = s.cipher := by cases i <;> rfl
      rw [exec, execKeyRowReadEnd, State.keyRowRead, hi]
      simp only [keyRowFor_of_key hrow hd]
      rw [requestCore_slotUnwrap ht, hcipher]
    · intro crcOk j x hno hj hx
      obtain ⟨hjob, hothers⟩ := hx
      have hjob' : (s.setSlotState i .empty).job j = some x := (job_setSlotState s i .empty j).trans hjob
      have hfree : ∀ j', ((s.setSlotState i .empty).finishJob j .storeFault []).job j' = none := by
        intro j'
        rw [job_finishJob hjob', job_setSlotState]
        split
        next => rfl
        next hj' => exact hothers j' hj'
      refine ⟨(s.setSlotState i .empty).finishJob j .storeFault [], ?_, ?_, ?_, hfree,
        sameElsewhere_trans (setSlotState_sameElsewhere s i .empty) (finishJob_sameElsewhere hjob' .storeFault [])⟩
      · rw [exec, execKeyRowReadEnd, State.keyRowRead, hi]
        simp only [keyRowFor_eq_none hno]
        rw [failOpening_eq hj, settle_of_no_jobs hfree]
      · rw [slotState_finishJob hjob', State.slotState_setSlotState, if_pos rfl]
      · rw [finishJob_port hjob']
        cases i <;> rfl

/-! ## The arbiter's pick -/

/-- The first element that meets a condition, by the list around it. -/
theorem find?_eq_some_iff_first {α : Type} {l : List α} {p : α → Bool} {f : α → Prop} (hp : ∀ q, p q = true ↔ f q)
    (r : α) : l.find? p = some r ↔ ∃ before behind, l = before ++ r :: behind ∧ f r ∧ ∀ q ∈ before, ¬f q := by
  simp only [List.find?_eq_some_iff_append, Bool.not_eq_true', ← Bool.not_eq_true, hp]
  constructor
  · rintro ⟨hr, before, behind, hl, hb⟩
    exact ⟨before, behind, hl, hr, hb⟩
  · rintro ⟨before, behind, hl, hr, hb⟩
    exact ⟨hr, before, behind, hl, hb⟩

theorem find?_eq_none_iff_none {α : Type} {l : List α} {p : α → Bool} {f : α → Prop} (hp : ∀ q, p q = true ↔ f q) :
    l.find? p = none ↔ ∀ q ∈ l, ¬f q := by
  simp only [List.find?_eq_none, hp]

theorem isUseOf_iff (s : State) (g : Machine.Group) (q : Request) :
    s.isUseOf g q = true ↔ ∃ j x, q = .use j ∧ s.job j = some x ∧ cardGroup x.card = g := by
  cases q with
  | use j =>
    simp only [State.isUseOf, Option.any_eq_true, decide_eq_true_eq, Request.use.injEq]
    exact ⟨fun ⟨x, hx, hg⟩ => ⟨j, x, rfl, hx, hg⟩, fun ⟨_, x, e, hx, hg⟩ => ⟨x, e ▸ hx, hg⟩⟩
  | lane j => simp [State.isUseOf]
  | slotUnwrap i => simp [State.isUseOf]

/-- A request of class 1 (R32). -/
def Request.ofSlot : Request → Bool
  | .slotUnwrap _ => true
  | _ => false

/-- A request of class 2 (R32). -/
def Request.ofLane : Request → Bool
  | .lane _ => true
  | _ => false

theorem ofSlot_iff (q : Request) : q.ofSlot = true ↔ ∃ i, q = .slotUnwrap i := by
  cases q <;> simp [Request.ofSlot]

theorem ofLane_iff (q : Request) : q.ofLane = true ↔ ∃ j, q = .lane j := by
  cases q <;> simp [Request.ofLane]

/-- The pick, as one search behind another: class 1, class 2, the uses of the other group, those of the group last served
(R33). -/
theorem pickRequest_eq (s : State) : s.pickRequest =
    (s.cipher.waiting.find? Request.ofSlot).or
      ((s.cipher.waiting.find? Request.ofLane).or
        ((s.cipher.waiting.find? (s.isUseOf (if s.cipher.lastGroup = .m then .c else .m))).or
          (s.cipher.waiting.find? (s.isUseOf s.cipher.lastGroup)))) := by
  have hpick : s.pickRequest = ((s.cipher.waiting.find? Request.ofSlot).or (s.cipher.waiting.find? Request.ofLane)).or
      (if s.cipher.lastGroup = .m then (s.cipher.waiting.find? (s.isUseOf .c)).or (s.cipher.waiting.find? (s.isUseOf .m))
        else (s.cipher.waiting.find? (s.isUseOf .m)).or (s.cipher.waiting.find? (s.isUseOf .c))) := rfl
  rw [hpick, Option.or_assoc]
  cases s.cipher.lastGroup <;> rfl

theorem pickRequest_mem {s : State} {r : Request} (h : s.pickRequest = some r) : r ∈ s.cipher.waiting := by
  simp only [pickRequest_eq, Option.or_eq_some_iff] at h
  rcases h with h | ⟨-, h | ⟨-, h | ⟨-, h⟩⟩⟩ <;> exact List.mem_of_find?_eq_some h

/-! ## The end of an operation -/

/-- An operation whose result is discarded ends in the grant alone (R32, R48). -/
theorem exec_end_of_discarded {s : State} {op : CoreOp} (h : s.cipher.running = some ⟨op, true⟩) :
    exec op.end_ s = .next s.coreIdle.settle := by
  cases op <;> simp [CoreOp.end_, exec, execSlotUnwrapEnd, execPackageTagCheckEnd, execStageUnwrapEnd,
    execSignOperationEnd, execTagComparisonEnd, execDecipherEnd, h]

theorem coreIdle_of_pick_none {s : State} (h : s.pickRequest = none) :
    s.coreIdle = s.onCipher fun c => { c with running := none } := by
  have h' : (s.onCipher fun c => { c with running := none }).pickRequest = none := h
  rw [State.coreIdle]
  simp only [h']

/-- The picked request leaves the waiting requests, and its operation begins (R32, R33). -/
theorem coreIdle_of_granted {s : State} {r : Request} {op : CoreOp} (hpick : s.pickRequest = some r)
    (hop : s.granted r = some op) : s.coreIdle = (s.onCipher fun c =>
      ⟨some ⟨op, false⟩, c.waiting.erase r, s.groupServed r⟩).beginJob r := by
  have hpick' : (s.onCipher fun c => { c with running := none }).pickRequest = some r := hpick
  have hop' : ((s.onCipher fun c => { c with running := none }).onCipher fun c =>
      { c with waiting := c.waiting.erase r }).granted r = some op := by cases r <;> exact hop
  have hgroup : ((s.onCipher fun c => { c with running := none }).onCipher fun c =>
      { c with waiting := c.waiting.erase r }).groupServed r = s.groupServed r := by cases r <;> rfl
  rw [State.coreIdle]
  simp only [hpick']
  rw [grant_eq hop', hgroup]
  rfl

theorem beginJob_frame (s : State) (r : Request) :
    s.beginJob r = { s with engine := { s.engine with jobs := (s.beginJob r).engine.jobs } } := by
  cases r <;> rfl

theorem job_beginJob (s : State) (r : Request) (j : JobId) : (s.beginJob r).job j =
    if r.byJob j then (s.job j).map fun x => { x with step := x.step.begun } else s.job j := by
  cases r with
  | slotUnwrap i => rfl
  | lane i =>
    simp only [State.beginJob, job_onJob, Request.byJob, beq_iff_eq]
    split
    next e => rw [e]
    next => rfl
  | use i =>
    simp only [State.beginJob, job_onJob, Request.byJob, beq_iff_eq]
    split
    next e => rw [e]
    next => rfl

/-- A step that an operation's begin changes is none at which a job goes on alone. -/
theorem begun_eq_self {u : JobStep} (h : u.begun.goesOnAlone = true) : u.begun = u := by
  cases u with
  | signWait | checkWait | decipherWait | tagWait | unwrapWait => cases h
  | _ => rfl

theorem still_onCipher {s : State} (h : s.Still) (f : Cipher → Cipher) : (s.onCipher f).Still := h

/-- A grant keeps every job waiting that waits. -/
theorem still_beginJob {s : State} (h : s.Still) (r : Request) : (s.beginJob r).Still := by
  obtain ⟨-, hwaiting, -⟩ := id h
  have hframe := beginJob_frame s r
  refine State.Still.transport h (fun j y hy hs => ?_) (fun a => by rw [hframe]; rfl) (by rw [hframe]; exact hwaiting)
    (fun j hj => by rw [hframe] at hj; exact hj) (by rw [hframe]) fun i => .inr (by rw [hframe]; rfl)
  rw [job_beginJob] at hy
  split at hy
  · obtain ⟨x, hx, rfl⟩ := Option.map_eq_some_iff.mp hy
    rw [hx, begun_eq_self hs]
  · exact hy

/-- The operation of a SIGN ends in the grant of the next request and the completion of its job (R76). -/
theorem exec_signOperationEnd {s : State} {j : JobId} {key : List Byte} {x : Job}
    (hrun : s.cipher.running = some ⟨.sign j key, false⟩) (hx : s.coreIdle.job j = some x) :
    ∃ output values, exec .signOperationEnd s =
      .next ((s.coreIdle.setJob j (some { x with output := output })).finishUse j .ok values).settle := by
  rw [exec, execSignOperationEnd, hrun]
  simp only [Bool.false_eq_true, if_false, State.signDone, hx, onJob_eq_setJob hx]
  exact ⟨_, _, rfl⟩

/-- A completed card is DONE (R10). -/
theorem jobDone_card (p : Port) (x : Job) (st : Status) (values : List Nat) : (p.jobDone x st values).cards[x.card] = .done :=
  (getElem_set_fin _ _ _ _).trans (if_pos rfl)

/-- The core keeps its operation and its waiting requests at the end of a job that has none of them. -/
theorem dropJob_of_not_byJob {op : CoreOp} {waiting : List Request} {g : Machine.Group} {j : JobId}
    (hop : op.byJob j = false) (hw : ∀ q ∈ waiting, q.byJob j = false) :
    (⟨some ⟨op, false⟩, waiting, g⟩ : Cipher).dropJob j = ⟨some ⟨op, false⟩, waiting, g⟩ := by
  have hlist : waiting.filter (fun r => !r.byJob j) = waiting := List.filter_eq_self.mpr fun q hq => by simp [hw q hq]
  simp [Cipher.dropJob, hop, hlist]

/-- What the grant at an operation's end changes (R32, R33). -/
theorem coreIdle_frame {s : State} {r : Request} {op : CoreOp} (hpick : s.pickRequest = some r) (hop : s.granted r = some op) :
    s.coreIdle = { s with
      cipher := ⟨some ⟨op, false⟩, s.cipher.waiting.erase r, s.groupServed r⟩
      engine := { s.engine with jobs := s.coreIdle.engine.jobs } } := by
  have hidle := coreIdle_of_granted hpick hop
  have hframe := beginJob_frame (s.onCipher fun c => ⟨some ⟨op, false⟩, c.waiting.erase r, s.groupServed r⟩) r
  rw [← hidle] at hframe
  exact hframe

theorem job_coreIdle {s : State} {r : Request} {op : CoreOp} (hpick : s.pickRequest = some r) (hop : s.granted r = some op)
    (j : JobId) : s.coreIdle.job j = if r.byJob j then (s.job j).map fun x => { x with step := x.step.begun } else s.job j := by
  rw [coreIdle_of_granted hpick hop, job_beginJob]
  rfl

/-- The grant at an operation's end keeps every job waiting that waits. -/
theorem still_coreIdle {s : State} {r : Request} {op : CoreOp} (hpick : s.pickRequest = some r) (hop : s.granted r = some op)
    (h : s.Still) : s.coreIdle.Still := by
  rw [coreIdle_of_granted hpick hop]
  exact still_beginJob (still_onCipher h _) r

/-- The end of a SIGN that is alone in its slot's list keeps every other job waiting that waits. -/
theorem still_finishUse_of_sign {s : State} {j : JobId} {x y : Job} (h : s.Still) (hkind : y.kind = .sign)
    (hslot : y.slotNo = x.slotNo) (hlist : (s.slot x.slotNo).list = [j])
    (hlists : ∀ i, i ≠ x.slotNo → j ∉ (s.slot i).list) (hlane : s.engine.lane ≠ some j) (st : Status) (values : List Nat) :
    ((s.setJob j (some y)).finishUse j st values).Still := by
  have hy := State.job_setJob_self s j (some y)
  have hengine : ((s.setJob j (some y)).finishUse j st values).engine = _ := finishUse_engine hy st values
  have hlane' : ((s.setJob j (some y)).finishUse j st values).engine.lane = s.engine.lane :=
    (congrArg Engine.lane hengine).trans (if_neg hlane)
  obtain ⟨-, -, -, -, hstore, -⟩ := finishUse_sameElsewhere hy st values
  obtain ⟨-, hwaiting, -⟩ := id h
  refine State.Still.transport h (fun i z hz _ => ?_) (writeList_finishUse_of_sign hy st values hkind) ?_
    (fun i hi => hlane' ▸ hi) ?_ fun i => ?_
  · rw [job_finishUse hy, State.job_setJob] at hz
    split at hz
    next => cases hz
    next hi => rwa [if_neg (Ne.symm hi)] at hz
  · rcases hwaiting with hw | hclosed
    · refine .inl ((congrArg Engine.laneWaiting hengine).trans ?_)
      exact congrArg (List.filter _) hw
    · refine .inr ?_
      rw [State.LaneClosed, hlane', hstore]
      exact hclosed
  · exact package_finishUse hy st values
  · rw [slot_finishUse hy, slot_setJob, hslot]
    by_cases hi : i = x.slotNo
    · subst hi
      refine .inl ?_
      split <;> simp [hlist, Slot.without]
    · rw [if_neg (fun e => hi e.2.symm), Slot.without_of_not_mem (hlists i hi)]
      exact .inr rfl

/-- Settles O37: the pick by `pickRequest_eq`, and what a grant changes by `coreIdle_frame`. -/
theorem arbiterGrantsByClassAndGroup : Obligations.ArbiterGrantsByClassAndGroup := by
  unfold Obligations.ArbiterGrantsByClassAndGroup
  intro s slot lane useOf none_ other
  refine ⟨fun r => ?_, fun op hrun hstill => ⟨fun hpick => ?_, fun r next hpick hop => ?_⟩, ?_⟩
  · simp only [pickRequest_eq, Option.or_eq_some_iff, find?_eq_some_iff_first ofSlot_iff,
      find?_eq_none_iff_none ofSlot_iff, find?_eq_some_iff_first ofLane_iff, find?_eq_none_iff_none ofLane_iff,
      find?_eq_some_iff_first (isUseOf_iff s _), find?_eq_none_iff_none (isUseOf_iff s _)]
    simp only [and_or_left]
    rfl
  · rw [exec_end_of_discarded hrun, coreIdle_of_pick_none hpick, settle_of_still (still_onCipher hstill _)]
  · have hframe := coreIdle_frame hpick hop
    have hcipher := congrArg State.cipher hframe
    have hengine := congrArg State.engine hframe
    refine ⟨s.coreIdle, ?_, hframe.trans (by rw [hcipher, hengine]), hengine, hcipher.trans ?_, job_coreIdle hpick hop⟩
    · rw [exec_end_of_discarded hrun, settle_of_still (still_coreIdle hpick hop hstill)]
    · cases r <;> rfl
  · intro j x key r next hrun hstill hx hkind hmatched hlist hlists hlane hw hpick hop
    have hr : r.byJob j = false := hw r (pickRequest_mem hpick)
    have hx' : s.coreIdle.job j = some x := by
      rw [job_coreIdle hpick hop, hr]
      exact hx
    obtain ⟨output, values, hexec⟩ := exec_signOperationEnd hrun hx'
    have hy := State.job_setJob_self s.coreIdle j (some { x with output := output })
    have hframe := coreIdle_frame hpick hop
    have hslot : ∀ i, s.coreIdle.slot i = s.slot i := fun i => by rw [hframe]; rfl
    have hend := still_finishUse_of_sign (x := x) (y := { x with output := output }) (still_coreIdle hpick hop hstill) hkind rfl
      (by rw [hslot]; exact hlist) (fun i hi => by rw [hslot]; exact hlists i hi) (by rw [hframe]; exact hlane) .ok values
    have hdrop : (s.coreIdle.setJob j (some { x with output := output })).cipher.dropJob j =
        ⟨some ⟨next, false⟩, s.cipher.waiting.erase r, s.groupServed r⟩ := by
      refine (congrArg (Cipher.dropJob · j) (congrArg State.cipher hframe)).trans (dropJob_of_not_byJob ?_ fun q hq => ?_)
      · rw [granted_byJob hop, hr]
      · exact hw q (List.mem_of_mem_erase hq)
    have hcipher := (finishUse_cipher hy .ok values).trans hdrop
    rw [settle_of_still hend] at hexec
    refine ⟨_, hexec, congrArg Cipher.running hcipher, congrArg Cipher.waiting hcipher, ?_, ?_⟩
    · rw [job_finishUse hy, if_pos rfl]
    · rw [finishUse_port hy]
      exact jobDone_card _ _ _ _

end Sys2Proof.Machine

/-!
PROOFS about uses: the front of a pending list, the judgement of a use against its slot, and a use that is taken by a part
without another job (R40, R41, R46, R79).
-/

namespace Sys2Proof.Machine

open Sys2Proof

/-! ## The front of a list -/

section Front

variable {s : State} {i : Fin 4} {j : JobId} {x : Job} (hj : (s.slot i).list.head? = some j) (hx : s.job j = some x)
  (hstep : x.step = .slotQueue)
include hj hx hstep

/-- A CLOSE at the front of an EMPTY slot's list completes OK (R45). -/
theorem serveFront_close_empty (hkind : x.kind = .closeSlot) (hst : (s.slot i).state = .empty) :
    s.serveFront i = some (s.finishJob j .ok []) := by
  simp only [State.serveFront, hj, hx, hstep, hkind, hst]
  rfl

/-- A use at the front of an EMPTY slot's list completes SLOT_EMPTY (R46). -/
theorem serveFront_use_empty (hkind : x.kind = .sign ∨ x.kind = .check) (hst : (s.slot i).state = .empty) :
    s.serveFront i = some (s.finishUse j .slotEmpty []) := by
  rcases hkind with hkind | hkind <;> simp only [State.serveFront, hj, hx, hstep, hkind, hst] <;> rfl

/-- A use at the front of an OPEN slot's list is judged against what the slot holds (R46). -/
theorem serveFront_use_opened {h : HandleNo} {g : Nat} {p : Policy} {key : List Byte}
    (hkind : x.kind = .sign ∨ x.kind = .check) (hst : (s.slot i).state = .opened h g p key) :
    s.serveFront i = some (s.serveUse i j x h g) := by
  rcases hkind with hkind | hkind <;> simp only [State.serveFront, hj, hx, hstep, hkind, hst] <;> rfl

end Front

/-- Jobs at no step that goes on alone wait, where none waits for the lane. -/
theorem still_of_waiting {s : State} (hjobs : ∀ j x, s.job j = some x → x.step.goesOnAlone = false)
    (hlane : s.engine.laneWaiting = []) : s.Still := by
  have hno : ∀ {j x}, s.job j = some x → ∀ u, u.goesOnAlone = true → x.step ≠ u := fun hx u hu e => by
    have := hjobs _ _ hx
    rw [e, hu] at this
    cases this
  refine ⟨fun j x hx hs => ?_, .inl hlane, fun j x _ hx _ => ⟨fun k g => hno hx _ rfl, fun n => hno hx _ rfl⟩,
    fun i j x _ hx hs => absurd hs (hno hx _ rfl)⟩
  rcases hs with e | e
  · exact absurd e (hno hx _ rfl)
  · exact absurd e (hno hx _ rfl)

/-- Jobs that all wait at the fronts of pending lists, in slot `n` alone. -/
theorem onlyFront_of_slotQueue {s : State} {n : Fin 4} (hjobs : ∀ j x, s.job j = some x → x.step = .slotQueue)
    (hlane : s.engine.laneWaiting = []) (hlists : ∀ i, i ≠ n → (s.slot i).list = []) : s.OnlyFront n :=
  ⟨fun j x hx => by simp [hjobs j x hx], hlane, fun j x _ hx => by simp [hjobs j x hx], hlists⟩

/-! ## The judgement of a use -/

/-- A use that has passed the match against generation `g` (R46, step 2). -/
def Job.passed (x : Job) (g : Nat) : Job := { x with matched := true, gen := g }

theorem checks_eq (p : Policy) (x : Job) : p.checks x.group = if x.card.val < 16 then p.checkM else p.checkC := by
  unfold Job.group cardGroup
  split <;> rfl

theorem signs_eq (p : Policy) (x : Job) : p.signs x.group = if x.card.val < 16 then p.signM else p.signC := by
  unfold Job.group cardGroup
  split <;> rfl

section Use

variable {s : State} {i : Fin 4} {j : JobId} {x : Job} {h : HandleNo} {g : Nat}

/-- R46, step 1. -/
theorem serveUse_of_mismatch (hno : x.handle ≠ h ∨ (x.genField ≠ 0 ∧ x.genField ≠ g)) :
    s.serveUse i j x h g = s.finishUse j .slotMismatch [] := by rw [State.serveUse, if_pos hno]

variable (hx : s.job j = some x) (hh : x.handle = h) (hg : x.genField = 0 ∨ x.genField = g)
include hx hh hg

/-- R46, step 2: the use has passed the match. -/
theorem serveUse_of_match : s.serveUse i j x h g =
    match (s.entry h).standing s.time.tt g with
    | none => ((s.setJob j (some (x.passed g))).wipe (.host i)).finishUse j .noKey []
    | some st => if x.kind = .sign then (s.setJob j (some (x.passed g))).serveSign j x g
      else (s.setJob j (some (x.passed g))).serveCheck j x st := by
  have hno : ¬(x.handle ≠ h ∨ (x.genField ≠ 0 ∧ x.genField ≠ g)) := by
    rintro (e | ⟨h0, h1⟩)
    · exact e hh
    · rcases hg with e | e
      · exact h0 e
      · exact h1 e
  rw [State.serveUse, if_neg hno, onJob_eq_setJob hx]
  rfl

/-- A CHECK whose generation grants its group the right asks for its tag comparison (R79). -/
theorem serveUse_check_allowed {st : Standing} {p : Policy} {key : List Byte}
    (hslot : (s.slot x.slotNo).state = .opened h g p key) (hkind : x.kind = .check)
    (hst : (s.entry h).standing s.time.tt g = some st)
    (hright : (if x.card.val < 16 then ((s.entry h).policyAt st).checkM else ((s.entry h).policyAt st).checkC) = true)
    (hoption : x.option = true → ((s.entry h).policyAt st).payload = true) :
    s.serveUse i j x h g = (s.setJob j (some { x.passed g with
      step := if s.cipher.running.isSome then .checkWait else .checkRun })).onCipher
        fun q => q.useAsked j x.group (.check j key) := by
  have hallowed : (!(((s.entry h).policyAt st).checks x.group) || (x.option && !((s.entry h).policyAt st).payload)) = false := by
    rw [checks_eq, hright]
    cases ho : x.option
    · rfl
    · rw [hoption ho]; rfl
  have hop : (s.setJob j (some { x.passed g with step := .checkWait })).granted (.use j) = some (.check j key) := by
    have hkey : (s.setJob j (some { x.passed g with step := .checkWait })).keyIn (.host x.slotNo) = key := by
      rw [State.keyIn, State.slotState, slot_setJob, hslot]
    rw [State.granted, State.job_setJob_self, ← hkey]
    rfl
  have hserve : (s.setJob j (some (x.passed g))).serveCheck j x st =
      (s.setJob j (some { x.passed g with step := .checkWait })).requestCore (.use j) := by
    rw [State.serveCheck]
    subst hh
    simp only
    rw [show (s.setJob j (some (x.passed g))).entry x.handle = s.entry x.handle from rfl, hallowed]
    rw [State.setStep, onJob_setJob]
    rfl
  rw [serveUse_of_match hx hh hg, hst]
  simp only [hkind]
  rw [if_neg (by decide), hserve, requestCore_use (State.job_setJob_self _ _ _) hop, onJob_setJob]
  rfl

/-- A CHECK without the right completes USE_DENIED (R79). -/
theorem serveUse_check_denied {st : Standing} (hkind : x.kind = .check) (hst : (s.entry h).standing s.time.tt g = some st)
    (hdenied : ¬((if x.card.val < 16 then ((s.entry h).policyAt st).checkM else ((s.entry h).policyAt st).checkC) = true ∧
      (x.option = true → ((s.entry h).policyAt st).payload = true))) :
    s.serveUse i j x h g = (s.setJob j (some (x.passed g))).finishUse j .useDenied [] := by
  have hno : (!(((s.entry h).policyAt st).checks x.group) || (x.option && !((s.entry h).policyAt st).payload)) = true := by
    rw [checks_eq]
    by_contra hall
    simp only [Bool.or_eq_true, Bool.not_eq_true', Bool.and_eq_true, not_or, not_and] at hall
    exact hdenied (by simpa using hall)
  rw [serveUse_of_match hx hh hg, hst]
  simp only [hkind]
  subst hh
  rw [if_neg (by decide), State.serveCheck]
  rw [show (s.setJob j (some (x.passed g))).entry x.handle = s.entry x.handle from rfl, hno]
  rfl

end Use

/-! ## A use taken by a part without another job -/

/-- Card `n` taken into record `j` as job `y`, alone in slot `i`'s list (R27, R40). -/
def State.holding (s : State) (n : CardNo) (j : JobId) (i : Fin 4) (y : Job) : State :=
  (s.taken n j y).onSlot i fun u => { u with list := [j] }

theorem onSlot_congr {s : State} {i : Fin 4} {f g : Slot → Slot} (h : f (s.slot i) = g (s.slot i)) :
    s.onSlot i f = s.onSlot i g := by
  rw [State.slot, Fin.getElem_fin] at h
  simp only [State.onSlot, State.onSlots, Fin.getElem_fin, h]

theorem slots_ext {s t : State} (hhost : ∀ i, t.slot i = s.slot i) (hpackage : t.slots.package = s.slots.package) :
    t.slots = s.slots := by
  have h : t.slots.host = s.slots.host := Vector.ext fun i hi => hhost ⟨i, hi⟩
  calc t.slots = ⟨t.slots.host, t.slots.package⟩ := rfl
    _ = s.slots := by rw [h, hpackage]

section Holding

variable {s : State} (n : CardNo) (j : JobId) (i : Fin 4) (y : Job)

@[simp] theorem job_holding_self : (s.holding n j i y).job j = some y := job_taken_self s n j y

theorem holding_setJob (z : Job) : (s.holding n j i y).setJob j (some z) = s.holding n j i z :=
  congrArg (State.onSlot · i fun u => { u with list := [j] }) (setJob_setJob (s.onPort fun p => p.take n) j (some y) (some z))

theorem slot_holding (i' : Fin 4) :
    (s.holding n j i y).slot i' = if i = i' then { s.slot i with list := [j] } else s.slot i' :=
  State.slot_onSlot _ i i' _

theorem holding_sameElsewhere : s.sameElsewhere (s.holding n j i y) := (sameElsewhere_iff _ _).mpr rfl

variable (hno : s.NoJob)
include hno

theorem job_holding (j' : JobId) : (s.holding n j i y).job j' = if j = j' then some y else none := by
  obtain ⟨hjobs, -⟩ := hno
  exact (job_taken s n j y j').trans (by rw [hjobs])

theorem joinSlot_taken : (s.taken n j y).joinSlot j y = s.holding n j y.slotNo y := by
  obtain ⟨-, -, -, hlists⟩ := hno
  refine onSlot_congr ?_
  rw [show (s.taken n j y).slot y.slotNo = s.slot y.slotNo from rfl, hlists]
  rfl

theorem onlyFront_holding (hstep : y.step = .slotQueue) : (s.holding n j i y).OnlyFront i := by
  obtain ⟨-, -, hwaiting, hlists⟩ := id hno
  refine onlyFront_of_slotQueue (fun j' x hx => ?_) hwaiting fun i' hi => ?_
  · rw [job_holding n j i y hno] at hx
    split at hx <;> cases hx
    exact hstep
  · rw [slot_holding, if_neg (Ne.symm hi)]
    exact hlists i'

end Holding

/-- A use is taken, and served at once at the front of its slot's list, after which no move is open. -/
theorem exec_use {s u : State} {n : CardNo} {j : JobId} {k : Kind} (hk : k = .sign ∨ k = .check) (htake : s.Takes n j k)
    (hno : s.NoJob)
    (hserve : (s.holding n j (s.snapshot n k).slotNo (s.snapshot n k)).serveFront (s.snapshot n k).slotNo = some u)
    (hu : u.internalStep = none) : exec k.command s = .next u := by
  obtain ⟨-, -, -, hstep, -⟩ := snapshot_fields s n k
  have hcourse : k.course j (s.snapshot n k) (s.taken n j (s.snapshot n k)) =
      ((s.taken n j (s.snapshot n k)).joinSlot j (s.snapshot n k)).settle := by rcases hk with rfl | rfl <;> rfl
  have hfirst := internalStep_of_onlyFront (onlyFront_holding n j (s.snapshot n k).slotNo (s.snapshot n k) hno hstep)
  rw [exec_command_of_takes htake, hcourse, joinSlot_taken n j _ hno, settle_of_one (hfirst.trans hserve) hu]

/-- The part is without a job again once the only job has completed. -/
theorem noJob_finishUse {s : State} {j : JobId} {x : Job} (hx : s.job j = some x) (hothers : ∀ i, i ≠ j → s.job i = none)
    (hlane : s.engine.lane = none) (hwaiting : s.engine.laneWaiting = []) (hlists : ∀ i, ∀ m ∈ (s.slot i).list, m = j)
    (st : Status) (values : List Nat) : (s.finishUse j st values).NoJob := by
  have hengine := finishUse_engine hx st values
  have hlist : ∀ i, ((s.slot i).without j).list = [] := fun i => by
    simpa [Slot.without, List.filter_eq_nil_iff] using hlists i
  refine ⟨fun i => ?_, ?_, ?_, fun i => ?_⟩
  · rw [job_finishUse hx]
    split
    next => rfl
    next hi => exact hothers i hi
  · rw [hengine]
    simp [Engine.without, hlane]
  · rw [hengine]
    simp [Engine.without, hwaiting]
  · rw [slot_finishUse hx]
    split
    · rw [Slot.afterUse_list, hlist]
    · exact hlist i

/-- What a use that was taken alone leaves when it has completed: its card, and no job. -/
theorem holding_finishUse {s : State} (hno : s.NoJob) (n : CardNo) (j : JobId) (i : Fin 4) (y : Job) (st : Status)
    (values : List Nat) : ((s.holding n j i y).finishUse j st values).port = (s.port.take n).jobDone y st values ∧
      ((s.holding n j i y).finishUse j st values).NoJob ∧ s.sameElsewhere ((s.holding n j i y).finishUse j st values) := by
  obtain ⟨-, hlane, hwaiting, hlists⟩ := id hno
  have hy := job_holding_self (s := s) n j i y
  refine ⟨finishUse_port hy st values, noJob_finishUse hy (fun j' hj' => ?_) hlane hwaiting (fun i' m hm => ?_) st values,
    sameElsewhere_trans (holding_sameElsewhere n j i y) (finishUse_sameElsewhere hy st values)⟩
  · rw [job_holding n j i y hno, if_neg (Ne.symm hj')]
  · rw [slot_holding] at hm
    split at hm
    · simpa using hm
    · rw [hlists] at hm
      cases hm

/-- The slot of a use that was taken alone, when it has completed. -/
theorem slot_holding_finishUse {s : State} (hno : s.NoJob) (n : CardNo) (j : JobId) (i : Fin 4) (y : Job) (hi : y.slotNo = i)
    (st : Status) (values : List Nat) (i' : Fin 4) : ((s.holding n j i y).finishUse j st values).slot i' =
      if y.matched = true ∧ i = i' then (s.slot i').afterUse y.autoClose s.time.milli else s.slot i' := by
  obtain ⟨-, -, -, hlists⟩ := id hno
  have hwithout : ((s.holding n j i y).slot i').without j = s.slot i' := by
    have hback : ∀ u : Slot, u.list = [] → ({ u with list := [j] } : Slot).without j = u := fun u hu => by
      obtain ⟨state, idle, list⟩ := u
      change list = [] at hu
      subst hu
      simp [Slot.without]
    rw [slot_holding]
    split
    next e => rw [hback _ (hlists i), e]
    next => exact Slot.without_of_not_mem (by rw [hlists]; simp)
  have htime : (s.holding n j i y).time = s.time := rfl
  rw [slot_finishUse (job_holding_self n j i y), hwithout, hi, htime]

end Sys2Proof.Machine

/-!
PROOFS about uses behind another job of their slot, and about the refusals of a use (R41, R46, R79).
-/

namespace Sys2Proof.Machine

open Sys2Proof

/-! ## A use behind another job of its slot -/

/-- A SIGN's operation ends while another job `y` waits behind it in slot `n`'s list: `u` is the state in which `y` is served
(R76, R41). -/
structure State.SignEnded (s u : State) (n : Fin 4) (j' : JobId) (x y : Job) : Prop where
  jobs : ∀ i, u.job i = if i = j' then some y else none
  waiting : u.engine.laneWaiting = []
  lists : ∀ i, i ≠ n → (u.slot i).list = []
  slot : u.slot n = ⟨if x.autoClose then .closing s.time.milli else (s.slot n).state, 0, [j']⟩
  cipher : u.cipher = ⟨none, [], s.cipher.lastGroup⟩
  card : u.port.cards[x.card] = .done
  entries : ∀ h, u.entry h = { s.entry h with touched := (u.entry h).touched }
  elsewhere : s.sameElsewhere u

/-- Of two jobs, the second is left once the first has completed. -/
theorem onlyJobs_without {s : State} {j j' : JobId} {x y : Job} (h : s.OnlyJobs j x j' y) (i : JobId) :
    (if i = j then none else s.job i) = if i = j' then some y else none := by
  obtain ⟨hne, -, hy, hothers⟩ := h
  by_cases hi : i = j
  · rw [if_pos hi, if_neg (hi ▸ hne)]
  · by_cases hi' : i = j'
    · rw [if_neg hi, if_pos hi', hi', hy]
    · rw [if_neg hi, if_neg hi', hothers i hi hi']

/-- Two jobs that wait in one list can go on at its front alone. -/
theorem onlyFront_of_pair {s : State} {n : Fin 4} {j j' : JobId} {x y : Job} (hjobs : s.OnlyJobs j x j' y)
    (hlists : s.ListsAre n [j, j']) (hx : x.step = .slotQueue) (hy : y.step = .slotQueue) : s.OnlyFront n := by
  obtain ⟨-, hempty, hwaiting⟩ := hlists
  refine onlyFront_of_slotQueue (fun i z hz => ?_) hwaiting hempty
  by_cases hi : i = j
  · obtain ⟨-, hjx, -⟩ := hjobs
    rw [hi, hjx] at hz
    cases hz
    exact hx
  · have hz' := onlyJobs_without hjobs i
    rw [if_neg hi, hz] at hz'
    split at hz' <;> cases hz'
    exact hy

/-- One job that waits in one list can go on at its front alone. -/
theorem onlyFront_of_single {s : State} {n : Fin 4} {j' : JobId} {y : Job}
    (hjobs : ∀ i, s.job i = if i = j' then some y else none) (hwaiting : s.engine.laneWaiting = [])
    (hlists : ∀ i, i ≠ n → (s.slot i).list = []) (hy : y.step = .slotQueue) : s.OnlyFront n := by
  refine onlyFront_of_slotQueue (fun i z hz => ?_) hwaiting hlists
  rw [hjobs] at hz
  split at hz <;> cases hz
  exact hy

/-- A slot whose first use has ended while another waits behind it. -/
theorem without_afterUse {u : Slot} {j j' : JobId} {h : HandleNo} {g : Nat} {p : Policy} {m : List Byte}
    (hopen : u.state = .opened h g p m) (hlist : u.list = [j, j']) (hne : j ≠ j') (close : Bool) (now : Nat) :
    (u.without j).afterUse close now = ⟨if close then .closing now else u.state, 0, [j']⟩ := by
  obtain ⟨state, idle, list⟩ := u
  subst hopen hlist
  cases close <;> simp [Slot.without, Slot.afterUse, Slot.wiped, hne.symm]

theorem signEnds {s : State} {n : Fin 4} {j j' : JobId} {x y : Job} {key : List Byte} {h : HandleNo} {g : Nat} {p : Policy}
    {m : List Byte} (hjobs : s.OnlyJobs j x j' y) (hlists : s.ListsAre n [j, j']) (hcore : s.CoreEnds (.sign j key))
    (hkind : x.kind = .sign) (hmatched : x.matched = true) (hslot : x.slotNo = n) (hopen : (s.slot n).state = .opened h g p m) :
    ∃ u, exec .signOperationEnd s = .next u.settle ∧ s.SignEnded u n j' x y := by
  obtain ⟨hne, hx, -⟩ := id hjobs
  obtain ⟨hlist, hempty, hwaiting⟩ := hlists
  obtain ⟨hrun, hnone⟩ := hcore
  have hpick : s.pickRequest = none := by simp [pickRequest_eq, hnone]
  have hidle := coreIdle_of_pick_none hpick
  obtain ⟨output, values, hexec⟩ := exec_signOperationEnd hrun (x := x) (by rw [hidle]; exact hx)
  rw [hidle] at hexec
  have hx' := State.job_setJob_self (s.onCipher fun c => { c with running := none }) j (some { x with output := output })
  have hslot_u := slot_finishUse hx' .ok values
  refine ⟨_, hexec, fun i => ?_, ?_, fun i hi => ?_, ?_, ?_, ?_, fun h => ?_, ?_⟩
  · rw [← onlyJobs_without hjobs, job_finishUse hx', State.job_setJob, job_onCipher]
    by_cases hi : i = j
    · rw [if_pos hi, if_pos hi]
    · rw [if_neg hi, if_neg hi, if_neg (Ne.symm hi)]
  · rw [finishUse_engine hx']
    exact congrArg (List.filter _) hwaiting
  · rw [hslot_u, if_neg (fun e => hi (e.2.symm.trans hslot))]
    exact congrArg (List.filter _) (hempty i hi)
  · rw [hslot_u, if_pos ⟨hmatched, hslot⟩]
    exact without_afterUse hopen hlist hne _ _
  · rw [finishUse_cipher hx']
    simp [Cipher.dropJob, State.setJob, hnone]
  · rw [finishUse_port hx']
    exact jobDone_card _ _ _ _
  · have hentry := entry_finishUse hx' .ok values h
    rw [writeList_finishUse_of_sign hx' .ok values hkind] at hentry
    exact hentry
  · exact sameElsewhere_trans (sameElsewhere_trans (sameElsewhere_onCipher _ _) (sameElsewhere_setJob _ _ _))
      (finishUse_sameElsewhere hx' .ok values)

/-- The standing of a generation, its policy and the current generation do not depend on touched. -/
theorem State.SignEnded.entry_reads {s u : State} {n : Fin 4} {j' : JobId} {x y : Job} (hu : s.SignEnded u n j' x y)
    (h : HandleNo) : (∀ tt g, (u.entry h).standing tt g = (s.entry h).standing tt g) ∧
      (∀ st, (u.entry h).policyAt st = (s.entry h).policyAt st) ∧ (u.entry h).current = (s.entry h).current := by
  rw [hu.entries h]
  exact ⟨fun _ _ => rfl, fun st => by cases st <;> rfl, rfl⟩

/-- The job that waits behind the ended SIGN is served. -/
theorem State.SignEnded.internalStep {s u : State} {n : Fin 4} {j' : JobId} {x y : Job} (hu : s.SignEnded u n j' x y)
    (hstep : y.step = .slotQueue) : u.internalStep = u.serveFront n :=
  internalStep_of_onlyFront (onlyFront_of_single hu.jobs hu.waiting hu.lists hstep)

/-- The state in which the job behind the ended SIGN has gone on to the core keeps what `SignEnded` says of the rest. -/
theorem State.SignEnded.still_of_served {s u t : State} {n : Fin 4} {j' : JobId} {x y z : Job} (hu : s.SignEnded u n j' x y)
    (ht : t.engine = (u.setJob j' (some z)).engine) (hz : z.step.goesOnAlone = false) :
    (∀ i, t.job i = if i = j' then some z else none) ∧ t.Still := by
  have hjobs : ∀ i, t.job i = if i = j' then some z else none := by
    intro i
    rw [State.job_congr ht, State.job_setJob, hu.jobs]
    by_cases hi : i = j'
    · rw [if_pos hi.symm, if_pos hi]
    · rw [if_neg (Ne.symm hi), if_neg hi, if_neg hi]
  refine ⟨hjobs, still_of_waiting (fun i w hw => ?_) (by rw [ht]; exact hu.waiting)⟩
  rw [hjobs] at hw
  split at hw <;> cases hw
  exact hz

/-- R41, R79: a CHECK behind a SIGN begins its comparison when the SIGN completes, and waits where the SIGN's AUTO_CLOSE wipes
the slot. -/
theorem check_behind_sign {s : State} {n : Fin 4} {j j' : JobId} {x y : Job} {key : List Byte} {g : Nat} {p : Policy}
    {m : List Byte} {st : Standing} (hjobs : s.OnlyJobs j x j' y) (hlists : s.ListsAre n [j, j'])
    (hcore : s.CoreEnds (.sign j key)) (hkind : x.kind = .sign) (hmatched : x.matched = true) (hslot : x.slotNo = n)
    (hopen : (s.slot n).state = .opened y.handle g p m) (hstep : y.step = .slotQueue) (hy : y.kind = .check)
    (hslot' : y.slotNo = n) (hg : y.genField = 0 ∨ y.genField = g) (hst : (s.entry y.handle).standing s.time.tt g = some st)
    (hright : (if y.card.val < 16 then ((s.entry y.handle).policyAt st).checkM
      else ((s.entry y.handle).policyAt st).checkC) = true)
    (hoption : y.option = true → ((s.entry y.handle).policyAt st).payload = true) :
    ∃ t, exec .signOperationEnd s = .next t ∧ t.port.cards[x.card] = .done ∧ s.sameElsewhere t ∧
      (x.autoClose = false →
        (∀ i, t.job i = if i = j' then some { y with step := .checkRun, matched := true, gen := g } else none) ∧
        t.slot n = ⟨.opened y.handle g p m, 0, [j']⟩ ∧
        t.cipher = ⟨some ⟨.check j' m, false⟩, [], if y.card.val < 16 then .m else .c⟩) ∧
      (x.autoClose = true → (∀ i, t.job i = if i = j' then some y else none) ∧
        t.slot n = ⟨.closing s.time.milli, 0, [j']⟩ ∧ t.cipher.running = none) := by
  obtain ⟨u, hexec, hu⟩ := signEnds hjobs hlists hcore hkind hmatched hslot hopen
  have hfront : (u.slot n).list.head? = some j' := by rw [hu.slot]; rfl
  have hy' : u.job j' = some y := by rw [hu.jobs, if_pos rfl]
  cases hclose : x.autoClose with
  | false =>
    obtain ⟨hstanding, hpolicy, -⟩ := hu.entry_reads y.handle
    obtain ⟨-, -, -, -, -, htime, -⟩ := hu.elsewhere
    have hopen' : (u.slot y.slotNo).state = .opened y.handle g p m := by rw [hslot', hu.slot, hclose]; exact hopen
    have hserve := (serveFront_use_opened hfront hy' hstep (.inr hy) (hslot' ▸ hopen')).trans (congrArg some
      (serveUse_check_allowed hy' rfl hg hopen' hy (by rw [hstanding, htime]; exact hst) (by rw [hpolicy]; exact hright)
        (by rw [hpolicy]; exact hoption)))
    rw [hu.cipher] at hserve
    obtain ⟨hjobs_t, hstill⟩ := hu.still_of_served (t := (u.setJob j' (some { y.passed g with step := .checkRun })).onCipher
      fun q => q.useAsked j' y.group (.check j' m)) rfl rfl
    rw [settle_of_one ((hu.internalStep hstep).trans hserve) (internalStep_of_still hstill)] at hexec
    refine ⟨_, hexec, hu.card, sameElsewhere_trans hu.elsewhere (sameElsewhere_trans (sameElsewhere_setJob _ _ _)
      (sameElsewhere_onCipher _ _)), fun _ => ⟨hjobs_t, ?_, ?_⟩, nofun⟩
    · rw [slot_onCipher, slot_setJob, hu.slot, hclose, ← hopen]
      rfl
    · exact congrArg (Cipher.useAsked · j' y.group (.check j' m)) hu.cipher
  | true =>
    have hwaits : u.internalStep = none := by
      rw [hu.internalStep hstep]
      refine serveFront_eq_none fun _ _ _ _ _ => ?_
      rw [hu.slot, hclose]
      simp
    rw [settle_of_internalStep_none hwaits] at hexec
    refine ⟨u, hexec, hu.card, hu.elsewhere, nofun, fun _ => ⟨hu.jobs, ?_, ?_⟩⟩
    · rw [hu.slot, hclose]
      rfl
    · rw [hu.cipher]

section BehindClose

variable {s : State} {n : Fin 4} {j j' : JobId} {x y : Job} (hjobs : s.OnlyJobs j x j' y) (hlists : s.ListsAre n [j, j'])
  (hslot : s.slot n = ⟨.empty, 0, [j, j']⟩) (hkind : x.kind = .closeSlot) (hx : x.step = .slotQueue)
  (hkind' : y.kind = .sign ∨ y.kind = .check) (hy : y.step = .slotQueue) (hmatched : y.matched = false)
include hjobs hlists hslot hkind hx hkind' hy hmatched

/-- A CLOSE completes at the front of an EMPTY slot's list, and the use behind it completes SLOT_EMPTY (R45, R46). -/
theorem settle_close_use : ∃ t, s.settle = t ∧ t.port = (s.port.jobDone x .ok []).jobDone y .slotEmpty [] ∧
    (∀ i, t.job i = none) ∧ t.slot n = ⟨.empty, 0, []⟩ ∧ s.sameElsewhere t := by
  obtain ⟨hne, hjx, -⟩ := id hjobs
  obtain ⟨-, hempty, hwaiting⟩ := id hlists
  have hfirst : s.internalStep = some (s.finishJob j .ok []) := by
    rw [internalStep_of_onlyFront (onlyFront_of_pair hjobs hlists hx hy)]
    exact serveFront_close_empty (by rw [hslot]; rfl) hjx hx hkind (by rw [hslot])
  have hslot' : (s.finishJob j .ok []).slot n = ⟨.empty, 0, [j']⟩ := by
    rw [slot_finishJob hjx, hslot]
    simp [Slot.without, hne.symm]
  have hjobs' : ∀ i, (s.finishJob j .ok []).job i = if i = j' then some y else none := fun i => by
    rw [job_finishJob hjx, onlyJobs_without hjobs]
  have hjy : (s.finishJob j .ok []).job j' = some y := by rw [hjobs', if_pos rfl]
  have honly : (s.finishJob j .ok []).OnlyFront n := by
    refine onlyFront_of_single hjobs' ?_ (fun i hi => ?_) hy
    · rw [finishJob_engine hjx]
      exact congrArg (List.filter _) hwaiting
    · rw [slot_finishJob hjx]
      exact congrArg (List.filter _) (hempty i hi)
  have hsecond : (s.finishJob j .ok []).internalStep = some ((s.finishJob j .ok []).finishUse j' .slotEmpty []) := by
    rw [internalStep_of_onlyFront honly]
    exact serveFront_use_empty (by rw [hslot']; rfl) hjy hy hkind' (by rw [hslot'])
  have hfree : ∀ i, ((s.finishJob j .ok []).finishUse j' .slotEmpty []).job i = none := fun i => by
    rw [job_finishUse hjy, hjobs']
    split <;> rfl
  refine ⟨_, settle_of_two hfirst hsecond (internalStep_of_no_jobs hfree), ?_, hfree, ?_, ?_⟩
  · rw [finishUse_port hjy, finishJob_port hjx]
  · rw [slot_finishUse hjy, if_neg (by simp [hmatched]), hslot']
    simp [Slot.without]
  · exact sameElsewhere_trans (finishJob_sameElsewhere hjx .ok []) (finishUse_sameElsewhere hjy .slotEmpty [])

end BehindClose

/-- R41, R46: a use behind a CLOSE completes SLOT_EMPTY when the wipe ends. -/
theorem use_behind_close {s : State} {n : Fin 4} {j j' : JobId} {x y : Job} {since : Nat} (hjobs : s.OnlyJobs j x j' y)
    (hlists : s.ListsAre n [j, j']) (hclosing : (s.slot n).state = .closing since) (hdue : since < s.time.milli)
    (hkind : x.kind = .closeSlot) (hx : x.step = .slotQueue) (hkind' : y.kind = .sign ∨ y.kind = .check)
    (hy : y.step = .slotQueue) (hmatched : y.matched = false) : ∃ t, exec (.wipeCompletion (.host n)) s = .next t ∧
      t.port = (s.port.jobDone x .ok []).jobDone y .slotEmpty [] ∧ (∀ i, t.job i = none) ∧ t.slot n = ⟨.empty, 0, []⟩ ∧
      s.sameElsewhere t := by
  obtain ⟨hlist, hempty, hwaiting⟩ := hlists
  have hslots : ∀ i, (s.setSlotState (.host n) .empty).slot i = if n = i then ⟨.empty, 0, [j, j']⟩ else s.slot i := by
    intro i
    rw [State.setSlotState, State.slot_onSlot, hlist]
  have hslot : (s.setSlotState (.host n) .empty).slot n = ⟨.empty, 0, [j, j']⟩ := by rw [hslots, if_pos rfl]
  have hlists' : (s.setSlotState (.host n) .empty).ListsAre n [j, j'] :=
    ⟨by rw [hslot], fun i hi => by rw [hslots, if_neg (Ne.symm hi)]; exact hempty i hi, hwaiting⟩
  have hjobs' : (s.setSlotState (.host n) .empty).OnlyJobs j x j' y := hjobs
  obtain ⟨t, hsettle, hport, hfree, hempty', hsame⟩ :=
    settle_close_use hjobs' hlists' hslot hkind hx hkind' hy hmatched
  have hstate : s.slotState (.host n) = .closing since := hclosing
  refine ⟨t, ?_, hport, hfree, hempty', sameElsewhere_trans (setSlotState_sameElsewhere s _ _) hsame⟩
  rw [exec, execWipeCompletion, hstate]
  simp only [hdue, if_true, hsettle]

/-- A wipe changes no job and no list. -/
theorem noJob_wipe {s : State} (h : s.NoJob) (i : Fin 4) : (s.wipe (.host i)).NoJob := by
  obtain ⟨hjobs, hlane, hwaiting, hlists⟩ := h
  have hframe := wipe_eq s (.host i)
  refine ⟨fun j => by rw [hframe]; exact hjobs j, by rw [hframe]; exact hlane, by rw [hframe]; exact hwaiting, fun i' => ?_⟩
  rw [slot_wipe]
  split
  · rw [Slot.wiped_list, hlists]
  · exact hlists i'

theorem wipe_of_opened {s : State} {i : Fin 4} {h : HandleNo} {g : Nat} {p : Policy} {key : List Byte}
    (hopen : s.slotState (.host i) = .opened h g p key) :
    s.wipe (.host i) = s.onSlot i fun u => { u with state := .closing s.time.milli, idle := 0 } := by
  rw [State.wipe, hopen]
  rfl

/-- The wipe of the slot that a use waits for may as well come before the take. -/
theorem holding_wipe {s : State} (n : CardNo) (j : JobId) (i : Fin 4) (y : Job) {h : HandleNo} {g : Nat} {p : Policy}
    {key : List Byte} (hopen : s.slotState (.host i) = .opened h g p key) :
    (s.holding n j i y).wipe (.host i) = (s.wipe (.host i)).holding n j i y := by
  have hopen' : (s.holding n j i y).slotState (.host i) = .opened h g p key := by
    rw [State.slotState, slot_holding, if_pos rfl]
    exact hopen
  have hleft : (s.holding n j i y).wipe (.host i) =
      (s.taken n j y).onSlot i fun u => ⟨.closing s.time.milli, 0, [j]⟩ := by
    rw [wipe_of_opened hopen', State.holding, onSlot_onSlot]
    rfl
  have hright : (s.wipe (.host i)).holding n j i y = (s.taken n j y).onSlot i fun u => ⟨.closing s.time.milli, 0, [j]⟩ := by
    rw [wipe_of_opened hopen]
    exact onSlot_onSlot (s.taken n j y) i (fun u => { u with state := .closing s.time.milli, idle := 0 })
      fun u => { u with list := [j] }
  rw [hleft, hright]

/-! ## Refusals and the CHECK -/

/-- R46: what completes without the slot's key: SLOT_EMPTY, SLOT_MISMATCH and NO_KEY. -/
theorem use_refused {s : State} {n : CardNo} {j : JobId} {k : Kind} (hk : k = .sign ∨ k = .check) (htake : s.Takes n j k)
    (hno : s.NoJob) :
    let x := s.snapshot n k
    let refused := fun (st : Status) (t : State) => exec k.command s = .next t ∧
      t.port = (s.port.take n).jobDone x st [] ∧ t.NoJob ∧ s.sameElsewhere t
    (s.slotState (.host x.slotNo) = .empty → ∃ t, refused .slotEmpty t ∧ t.slots = s.slots) ∧
    ∀ h g p key, s.slotState (.host x.slotNo) = .opened h g p key →
      (x.handle ≠ h ∨ (x.genField ≠ 0 ∧ x.genField ≠ g) → ∃ t, refused .slotMismatch t ∧ t.slots = s.slots) ∧
      (x.handle = h → x.genField = 0 ∨ x.genField = g → (s.entry h).standing s.time.tt g = none →
        ∃ t, refused .noKey t ∧ (t.slot x.slotNo).state = .closing s.time.milli ∧ (t.slot x.slotNo).idle = 0) := by
  intro x refused
  obtain ⟨hkind, -, -, hstep, hmatched⟩ := snapshot_fields s n k
  have hkind' : x.kind = .sign ∨ x.kind = .check := by rw [hkind]; exact hk
  have hx := job_holding_self (s := s) n j x.slotNo x
  have hslot : (s.holding n j x.slotNo x).slot x.slotNo = { s.slot x.slotNo with list := [j] } := by
    rw [slot_holding, if_pos rfl]
  have hfront : ((s.holding n j x.slotNo x).slot x.slotNo).list.head? = some j := by rw [hslot]; rfl
  -- a use that has not passed the match leaves the slots as they were
  have hunmatched : ∀ st, (s.holding n j x.slotNo x).serveFront x.slotNo =
      some ((s.holding n j x.slotNo x).finishUse j st []) → ∃ t, refused st t ∧ t.slots = s.slots := by
    intro st hserve
    obtain ⟨hport, hnojob, hsame⟩ := holding_finishUse hno n j x.slotNo x st []
    have hexec := exec_use hk htake hno hserve (internalStep_of_no_jobs hnojob.1)
    refine ⟨_, ⟨hexec, hport, hnojob, hsame⟩, slots_ext (fun i => ?_) (package_finishUse hx st [])⟩
    rw [slot_holding_finishUse hno n j x.slotNo x rfl, if_neg (fun e => by rw [hmatched] at e; cases e.1)]
  refine ⟨fun hempty => ?_, fun h g p key hopen => ⟨fun hmis => ?_, fun hh hg hnone => ?_⟩⟩
  · exact hunmatched .slotEmpty (serveFront_use_empty hfront hx hstep hkind' (by rw [hslot]; exact hempty))
  · refine hunmatched .slotMismatch ((serveFront_use_opened hfront hx hstep hkind' (by rw [hslot]; exact hopen)).trans ?_)
    rw [serveUse_of_mismatch hmis]
  · have hserve : (s.holding n j x.slotNo x).serveFront x.slotNo =
        some (((s.wipe (.host x.slotNo)).holding n j x.slotNo (x.passed g)).finishUse j .noKey []) := by
      rw [serveFront_use_opened hfront hx hstep hkind' (by rw [hslot]; exact hopen), serveUse_of_match hx hh hg]
      rw [show (s.holding n j x.slotNo x).entry h = s.entry h from rfl,
        show (s.holding n j x.slotNo x).time = s.time from rfl, hnone]
      simp only
      rw [holding_setJob, holding_wipe n j x.slotNo (x.passed g) hopen]
    have hframe := wipe_eq s (.host x.slotNo)
    have hnojob := noJob_wipe hno x.slotNo
    obtain ⟨hport, hnojob', hsame⟩ := holding_finishUse hnojob n j x.slotNo (x.passed g) .noKey []
    have hexec := exec_use hk htake hno hserve (internalStep_of_no_jobs hnojob'.1)
    have hslot' := slot_holding_finishUse hnojob n j x.slotNo (x.passed g) rfl .noKey [] x.slotNo
    rw [if_pos ⟨rfl, rfl⟩, slot_wipe, if_pos rfl] at hslot'
    have hwiped : (s.slot x.slotNo).wiped s.time.milli = { s.slot x.slotNo with state := .closing s.time.milli, idle := 0 } := by
      have hstate : (s.slot x.slotNo).state = .opened h g p key := hopen
      rw [Slot.wiped, hstate]
    rw [hwiped] at hslot'
    refine ⟨_, ⟨hexec, hport.trans ?_, hnojob', ?_⟩, ?_⟩
    · rw [hframe]
      rfl
    · refine sameElsewhere_trans ((sameElsewhere_iff _ _).mpr ?_) hsame
      rw [hframe]
    · rw [hslot', Slot.afterUse]
      split <;> exact ⟨rfl, rfl⟩

theorem ite_isSome {α β : Type} (r : Option α) [Decidable (r = none)] (a b : β) :
    (if r.isSome = true then a else b) = if r = none then b else a := by
  cases r <;> simp

theorem useAsked_eq (c : Cipher) (j : JobId) (g : Machine.Group) (op : CoreOp) : c.useAsked j g op =
    if c.running = none then { c with running := some ⟨op, false⟩, lastGroup := g }
    else { c with waiting := c.waiting ++ [.use j] } := ite_isSome _ _ _

theorem onCipher_congr {s : State} {f g : Cipher → Cipher} (h : f s.cipher = g s.cipher) : s.onCipher f = s.onCipher g := by
  simp only [State.onCipher, h]

/-- R79: a CHECK taken by a part without another job, against the slot that holds its generation. -/
theorem check_judged {s : State} {n : CardNo} {j : JobId} {g : Nat} {p : Policy} {key : List Byte} {st : Standing}
    (htake : s.Takes n j .check) (hno : s.NoJob) :
    let x := s.snapshot n .check
    s.slotState (.host x.slotNo) = .opened x.handle g p key → x.genField = 0 ∨ x.genField = g →
    (s.entry x.handle).standing s.time.tt g = some st →
    let policy := (s.entry x.handle).policyAt st
    let allowed := (if x.card.val < 16 then policy.checkM else policy.checkC) = true ∧ (x.option = true → policy.payload = true)
    (allowed → exec .takeCheck s = .next ((((s.onPort fun q => q.take n).setJob j (some { x with
        step := if s.cipher.running = none then .checkRun else .checkWait, matched := true, gen := g })).onSlot x.slotNo
        fun u => { u with list := [j] }).onCipher fun q =>
          if s.cipher.running = none then
            { q with running := some ⟨.check j key, false⟩, lastGroup := if x.card.val < 16 then .m else .c }
          else { q with waiting := q.waiting ++ [.use j] })) ∧
    (¬allowed → ∃ t, exec .takeCheck s = .next t ∧ t.port = (s.port.take n).jobDone x .useDenied [] ∧ t.NoJob ∧
      (x.autoClose = true → (t.slot x.slotNo).state = .closing s.time.milli) ∧
      (x.autoClose = false → t.slot x.slotNo = { s.slot x.slotNo with idle := 0 })) := by
  intro x hopen hg hst policy allowed
  obtain ⟨hkind, -, -, hstep, -⟩ := snapshot_fields s n .check
  obtain ⟨-, -, hwaiting, -⟩ := id hno
  have hx := job_holding_self (s := s) n j x.slotNo x
  have hslot : (s.holding n j x.slotNo x).slot x.slotNo = { s.slot x.slotNo with list := [j] } := by
    rw [slot_holding, if_pos rfl]
  have hopen' : ((s.holding n j x.slotNo x).slot x.slotNo).state = .opened x.handle g p key := by rw [hslot]; exact hopen
  have hserve := serveFront_use_opened (by rw [hslot]; rfl) hx hstep (.inr hkind) hopen'
  refine ⟨fun hall => ?_, fun hdenied => ?_⟩
  · obtain ⟨hright, hoption⟩ := hall
    rw [serveUse_check_allowed hx rfl hg hopen' hkind hst hright hoption, holding_setJob] at hserve
    rw [show (s.holding n j x.slotNo x).cipher = s.cipher from rfl, ite_isSome] at hserve
    refine (exec_use (.inr rfl) htake hno hserve (internalStep_of_still ?_)).trans
      (congrArg _ (onCipher_congr (useAsked_eq s.cipher j x.group (.check j key))))
    refine still_of_waiting (fun j' y hy => ?_) hwaiting
    rw [job_onCipher, job_holding n j x.slotNo _ hno] at hy
    split at hy <;> cases hy
    change JobStep.goesOnAlone (if _ then _ else _) = false
    split <;> rfl
  · rw [serveUse_check_denied hx rfl hg hkind hst hdenied, holding_setJob] at hserve
    obtain ⟨hport, hnojob, -⟩ := holding_finishUse hno n j x.slotNo (x.passed g) .useDenied []
    have hexec := exec_use (.inr rfl) htake hno hserve (internalStep_of_no_jobs hnojob.1)
    have hslot' := slot_holding_finishUse hno n j x.slotNo (x.passed g) rfl .useDenied [] x.slotNo
    rw [if_pos ⟨rfl, rfl⟩] at hslot'
    refine ⟨_, hexec, hport, hnojob, fun hclose => ?_, fun hclose => ?_⟩
    · have hstate : (s.slot x.slotNo).state = .opened x.handle g p key := hopen
      rw [hslot', show (x.passed g).autoClose = true from hclose]
      simp [Slot.afterUse, Slot.wiped, hstate]
    · rw [hslot', show (x.passed g).autoClose = false from hclose]
      rfl

/-- Settles O28, part by part. -/
theorem usesAreJudgedAgainstTheSlot : Obligations.UsesAreJudgedAgainstTheSlot := by
  unfold Obligations.UsesAreJudgedAgainstTheSlot
  refine ⟨fun s n j j' x y hjobs hlists hy => ⟨?_, ?_⟩, ?_, ?_⟩
  · intro since hclosing hdue hkind hx hkind' hmatched
    exact use_behind_close hjobs hlists hclosing hdue hkind hx hkind' hy hmatched
  · intro key g p m st hcore hkind hmatched hslot hopen hkind' hslot' hg hst policy hright hoption
    exact check_behind_sign hjobs hlists hcore hkind hmatched hslot hopen hy hkind' hslot' hg hst hright hoption
  · intro s n j k hk htake hno
    exact use_refused hk htake hno
  · intro s n j g p key st htake hno
    exact check_judged htake hno

end Sys2Proof.Machine

/-!
PROOFS about the counters that SIGNs are issued, and about the asks for a raise of the ceiling (R66, R67, R73 to R78).
-/

namespace Sys2Proof.Machine

open Sys2Proof

/-! ## Asks for a raise -/

theorem foldl_eq_self {α : Type} {f : State → α → State} {s : State} {l : List α} (h : ∀ a ∈ l, f s a = s) :
    l.foldl f s = s := by
  induction l with
  | nil => rfl
  | cons a l ih =>
    rw [List.foldl_cons, h a List.mem_cons_self]
    exact ih fun b hb => h b (List.mem_cons_of_mem a hb)

/-- Nobody waits for a counter of the handle, to be told of a refusal. -/
def State.NoCounterWaiter (s : State) (h : HandleNo) : Prop :=
  ∀ j x, s.job j = some x → ¬(x.step = .counterWait ∧ x.handle = h)

theorem failCounterWaiters_of_none {s : State} {h : HandleNo} (hno : s.NoCounterWaiter h) : s.failCounterWaiters h = s := by
  refine foldl_eq_self fun j _ => ?_
  cases hx : s.job j with
  | none => rfl
  | some x => exact if_neg (hno j x hx)

/-- The only job in hand, waiting for a counter of the handle, completes STORE_FAULT (R67, R78). -/
theorem failCounterWaiters_of_onlyJob {s : State} {h : HandleNo} {j : JobId} {x : Job} (hjob : s.OnlyJob j x)
    (hstep : x.step = .counterWait) (hh : x.handle = h) : s.failCounterWaiters h = s.finishUse j .storeFault [] := by
  obtain ⟨hx, hothers⟩ := hjob
  obtain ⟨before, behind, hall⟩ := List.append_of_mem (mem_allJobs j)
  have hnodup : (before ++ j :: behind).Nodup := hall ▸ by decide
  have hbefore : ∀ i ∈ before, s.job i = none := fun i hi => hothers i fun e =>
    List.disjoint_of_nodup_append hnodup hi (by rw [e]; exact List.mem_cons_self)
  have hfree : ∀ i, (s.finishUse j .storeFault []).job i = none := fun i => by
    rw [job_finishUse hx]
    split
    next => rfl
    next hi => exact hothers i hi
  rw [State.failCounterWaiters, hall, List.foldl_append, List.foldl_cons,
    foldl_eq_self (s := s) (l := before) fun i hi => by rw [hbefore i hi], hx]
  simp only
  rw [if_pos ⟨hstep, hh⟩]
  exact foldl_eq_self fun i _ => by rw [hfree i]

theorem mergeWant_eq (a b : Option Nat) : mergeWant a b =
    if a.isSome && b.isSome then some (max (a.getD 0) (b.getD 0)) else if a.isSome then a else b := by
  cases a <;> cases b <;> rfl

/-- In FAULT, where no write is pending, the ask is refused: those who wait for a counter complete STORE_FAULT (R67, R131). -/
theorem askCounter_of_fault {s : State} {h : HandleNo} (ha : s.supply.activity = .active) (hf : s.store.fault = true)
    (hp : (s.entry h).counterPending = none) (ceiling floor : Option Nat) :
    s.askCounter h ceiling floor = s.failCounterWaiters h := by
  have hwake : (s.onEntry h fun e => { e with counterPending := some ⟨ceiling, floor⟩ }).wake = _ := wake_of_active ha
  have hback : (s.onEntry h fun e => { e with counterPending := some ⟨ceiling, floor⟩ }).onEntry h
      (fun e => { e with counterPending := none }) = s := by
    rw [onEntry_onEntry]
    refine onEntry_of_same ?_
    simp only [Function.comp, ← hp]
  rw [State.askCounter, hp]
  simp only
  rw [State.askAppend, hwake]
  simp only [State.onEntry_store, hf, if_true]
  rw [State.refuseQueued, hback]

/-- An ask for a raise by an ACTIVE part is what `raiseAsked` says, where a refusal would have nobody to tell (R66, R67). -/
theorem askCounter_eq {s : State} {h : HandleNo} (ha : s.supply.activity = .active)
    (hno : s.store.fault = true → (s.entry h).counterPending = none → s.NoCounterWaiter h) (ceiling floor : Option Nat) :
    s.askCounter h ceiling floor = s.raiseAsked h ceiling floor := by
  cases hp : (s.entry h).counterPending with
  | some w => simp only [State.askCounter, State.raiseAsked, hp, mergeWant_eq]
  | none =>
    cases hf : s.store.fault with
    | true =>
      rw [askCounter_of_fault ha hf hp, failCounterWaiters_of_none (hno hf hp), State.raiseAsked]
      simp only [hp, hf, if_true]
    | false =>
      have hwake : (s.onEntry h fun e => { e with counterPending := some ⟨ceiling, floor⟩ }).wake = _ := wake_of_active ha
      simp only [State.askCounter, State.raiseAsked, hp, State.askAppend, hwake, State.onEntry_store, hf]
      rfl

/-- The reservation check asks for the raise of R77, where it asks for one. -/
theorem reservationCheck_of_raises {s : State} {h : HandleNo} {c : CurrentGen} (hc : (s.entry h).current = some c)
    (hr : (s.entry h).raises c) : s.reservationCheck h = s.askCounter h (some (min (c.txCeiling + 256) c.signLimit)) none := by
  obtain ⟨hnear, hbelow, hflight, hpending⟩ := hr
  have hall : (s.entry h).counterPending.all (fun w => w.ceiling.isNone) = true := by
    simpa [Option.all_eq_true] using hpending
  rw [State.reservationCheck, HandleEntry.wantsRaise, hc]
  simp only
  rw [if_pos ⟨hnear, hbelow, by rw [hflight]; rfl, hall⟩]

theorem reservationCheck_of_not_raises {s : State} {h : HandleNo} {c : CurrentGen} (hc : (s.entry h).current = some c)
    (hr : ¬(s.entry h).raises c) : s.reservationCheck h = s := by
  rw [State.reservationCheck, HandleEntry.wantsRaise, hc]
  simp only
  rw [if_neg]
  rintro ⟨hnear, hbelow, hflight, hall⟩
  exact hr ⟨hnear, hbelow, Option.isNone_iff_eq_none.mp hflight, by simpa [Option.all_eq_true] using hall⟩

/-! ## The issue of a counter -/

/-- What `raiseAsked` changes is not what a job's record or the core holds. -/
theorem raiseAsked_setJob (s : State) (h : HandleNo) (ceiling floor : Option Nat) (j : JobId) (x : Option Job) :
    (s.raiseAsked h ceiling floor).setJob j x = (s.setJob j x).raiseAsked h ceiling floor := by
  unfold State.raiseAsked
  rw [show (s.setJob j x).entry h = s.entry h from rfl, show (s.setJob j x).store = s.store from rfl]
  cases (s.entry h).counterPending with
  | some w => rfl
  | none => cases s.store.fault <;> rfl

theorem raiseAsked_onCipher (s : State) (h : HandleNo) (ceiling floor : Option Nat) (f : Cipher → Cipher) :
    (s.raiseAsked h ceiling floor).onCipher f = (s.onCipher f).raiseAsked h ceiling floor := by
  unfold State.raiseAsked
  rw [show (s.onCipher f).entry h = s.entry h from rfl, show (s.onCipher f).store = s.store from rfl]
  cases (s.entry h).counterPending with
  | some w => rfl
  | none => cases s.store.fault <;> rfl

/-- Its frame. -/
theorem raiseAsked_frame (s : State) (h : HandleNo) (ceiling floor : Option Nat) : s.raiseAsked h ceiling floor =
    { s with directory := (s.raiseAsked h ceiling floor).directory, store := (s.raiseAsked h ceiling floor).store } := by
  unfold State.raiseAsked
  split
  · rfl
  · split <;> rfl

theorem raiseAsked_engine (s : State) (h : HandleNo) (ceiling floor : Option Nat) :
    (s.raiseAsked h ceiling floor).engine = s.engine := by rw [raiseAsked_frame]

/-- A SIGN that has its counter: what its record holds when its operation begins, or waits for the core (R74). -/
def Job.issued (x : Job) (g : Nat) (c : CurrentGen) (tt : Nat) (busy : Bool) : Job :=
  { x with
    step := if busy then .signWait else .signRun, matched := true, gen := g, counter := c.txNext
    notes := x.notes ||| issueNotes c (c.txNext + 1) tt }

/-- The current generation once a counter is issued (R74). -/
def CurrentGen.issue (c : CurrentGen) : CurrentGen := { c with txNext := c.txNext + 1 }

theorem judgeSign_eq_ok {e : HandleEntry} {tt g : Nat} {group : Machine.Group} {encipher : Bool} {c : CurrentGen}
    (hc : e.current = some c) (hgen : c.gen = g) (hright : c.policy.signs group = true)
    (hoption : encipher = true → c.policy.payload = true) (hexpiry : tt < c.expiry) (hlimit : c.txNext < c.signLimit) :
    judgeSign e tt g group encipher = .ok c := by
  have hallowed : (!c.policy.signs group || (encipher && !c.policy.payload)) = false := by
    rw [hright]
    cases encipher
    · rfl
    · rw [hoption rfl]; rfl
  have husable : c.condition tt = .usable := by
    rw [CurrentGen.condition, if_neg (Nat.not_le.mpr hexpiry), if_neg (Nat.not_le.mpr hlimit)]
  rw [judgeSign, hc]
  simp only
  rw [if_neg (not_not.mpr hgen), hallowed, husable]
  rfl

theorem standing_of_current {e : HandleEntry} {c : CurrentGen} (hc : e.current = some c) (tt : Nat) :
    e.standing tt c.gen = some .current := by
  simp [HandleEntry.standing, hc]

/-- A SIGN that has its counter asks the core (R32, R74). -/
theorem requestCore_sign {s : State} {j : JobId} {y : Job} {h : HandleNo} {g : Nat} {p : Policy} {key : List Byte}
    (hy : s.job j = some y) (hstep : y.step = .signWait) (hopen : (s.slot y.slotNo).state = .opened h g p key) :
    s.requestCore (.use j) =
      (s.setJob j (some { y with step := if s.cipher.running.isSome then .signWait else .signRun })).onCipher
        fun q => q.useAsked j y.group (.sign j key) := by
  have hkey : s.keyIn (.host y.slotNo) = key := by rw [State.keyIn, State.slotState, hopen]
  have hop : s.granted (.use j) = some (.sign j key) := by
    rw [State.granted, hy, Option.bind_some, hstep, ← hkey]
  rw [requestCore_use hy hop, onJob_eq_setJob hy, hstep]
  rfl

/-- A SIGN that has its counter and is to ask the core (R74). -/
def Job.counted (x : Job) (g : Nat) (c : CurrentGen) (tt : Nat) : Job :=
  { x.passed g with counter := c.txNext, notes := x.notes ||| issueNotes c (c.txNext + 1) tt, step := .signWait }

/-- The state in which SIGN `x` has its counter and is to ask the core (R74). -/
def State.countedTo (s : State) (j : JobId) (x : Job) (h : HandleNo) (g : Nat) (c : CurrentGen) : State :=
  (s.onEntry h fun e => { e with current := some c.issue }).setJob j (some (x.counted g c s.time.tt))

/-- The state in which SIGN `x` has its counter and its operation begins, or waits for the core (R74). -/
def State.issuedTo (s : State) (j : JobId) (x : Job) (h : HandleNo) (g : Nat) (c : CurrentGen) (key : List Byte) : State :=
  ((s.onEntry h fun e => { e with current := some c.issue }).setJob j
    (some (x.issued g c s.time.tt s.cipher.running.isSome))).onCipher fun q => q.useAsked j x.group (.sign j key)

theorem issueCounter_eq (s : State) (j : JobId) (x : Job) (h : HandleNo) (g : Nat) (c : CurrentGen) :
    (s.setJob j (some (x.passed g))).issueCounter j h c = ((s.countedTo j x h g c).reservationCheck h).requestCore (.use j) :=
  congrArg (fun t => (t.reservationCheck h).requestCore (.use j))
    (onJob_setJob (s.onEntry h fun e => { e with current := some c.issue }) j (x.passed g) fun y =>
      { y with counter := c.txNext, notes := y.notes ||| issueNotes c (c.txNext + 1) s.time.tt, step := .signWait })

theorem job_countedTo (s : State) (j : JobId) (x : Job) (h : HandleNo) (g : Nat) (c : CurrentGen) :
    (s.countedTo j x h g c).job j = some (x.counted g c s.time.tt) := State.job_setJob_self _ _ _

theorem entry_countedTo (s : State) (j : JobId) (x : Job) (h : HandleNo) (g : Nat) (c : CurrentGen) :
    (s.countedTo j x h g c).entry h = { s.entry h with current := some c.issue } :=
  State.entry_onEntry_self s h fun e => { e with current := some c.issue }

theorem current_countedTo (s : State) (j : JobId) (x : Job) (h : HandleNo) (g : Nat) (c : CurrentGen) :
    ((s.countedTo j x h g c).entry h).current = some c.issue := by rw [entry_countedTo]

section Sign

variable {s : State} {i : Fin 4} {j : JobId} {x : Job} {h : HandleNo} {g : Nat} {p : Policy} {key : List Byte} {c : CurrentGen}
  (hx : s.job j = some x) (hh : x.handle = h) (hg : x.genField = 0 ∨ x.genField = g)
  (hopen : (s.slot x.slotNo).state = .opened h g p key) (hkind : x.kind = .sign)
  (hc : (s.entry h).current = some c) (hgen : c.gen = g)
  (hright : (if x.card.val < 16 then c.policy.signM else c.policy.signC) = true)
  (hoption : x.option = true → c.policy.payload = true) (hexpiry : s.time.tt < c.expiry) (hlimit : c.txNext < c.signLimit)
include hx hh hg hkind hc hgen hright hoption hexpiry hlimit

/-- A SIGN that passes R73 is issued a counter below the ceiling, and waits at it (R74, R75). -/
theorem serveUse_sign : s.serveUse i j x h g =
    if c.txNext < c.txCeiling then (s.setJob j (some (x.passed g))).issueCounter j h c
    else (s.setJob j (some { x.passed g with step := .counterWait })).reservationCheck h := by
  have hst : (s.entry h).standing s.time.tt g = some .current := hgen ▸ standing_of_current hc _
  have hjudge : judgeSign ((s.setJob j (some (x.passed g))).entry x.handle) (s.setJob j (some (x.passed g))).time.tt g x.group
      x.option = .ok c :=
    judgeSign_eq_ok (by rw [hh]; exact hc) hgen (by rw [signs_eq]; exact hright) hoption hexpiry hlimit
  rw [serveUse_of_match hx hh hg, hst]
  simp only [hkind, if_true]
  rw [State.serveSign, hjudge]
  simp only
  rw [State.setStep, onJob_setJob, hh]

include hopen

/-- A counter issued without an ask for a raise (R74). -/
theorem serveUse_sign_issued (hbelow : c.txNext < c.txCeiling) (hr : ¬(s.entry h).raises c.issue) :
    s.serveUse i j x h g = s.issuedTo j x h g c key := by
  have hnot : ¬((s.countedTo j x h g c).entry h).raises c.issue := by rw [entry_countedTo]; exact hr
  rw [serveUse_sign hx hh hg hkind hc hgen hright hoption hexpiry hlimit, if_pos hbelow, issueCounter_eq,
    reservationCheck_of_not_raises (current_countedTo s j x h g c) hnot,
    requestCore_sign (job_countedTo s j x h g c) rfl hopen]
  exact congrArg (State.onCipher · _) (setJob_setJob _ _ _ _)

/-- A counter issued with an ask for a raise (R74, R77). -/
theorem serveUse_sign_raises (ha : s.supply.activity = .active) (hothers : ∀ i, i ≠ j → s.job i = none)
    (hbelow : c.txNext < c.txCeiling) (hr : (s.entry h).raises c.issue) : s.serveUse i j x h g =
      (s.issuedTo j x h g c key).raiseAsked h (some (min (c.txCeiling + 256) c.signLimit)) none := by
  have hraises : ((s.countedTo j x h g c).entry h).raises c.issue := by rw [entry_countedTo]; exact hr
  have hnowaiter : (s.countedTo j x h g c).NoCounterWaiter h := by
    intro i y hy
    rw [State.countedTo, State.job_setJob] at hy
    split at hy
    next => cases hy; exact fun e => nomatch e.1
    next hi => rw [job_onEntry, hothers i (Ne.symm hi)] at hy; cases hy
  have hask : (s.countedTo j x h g c).reservationCheck h =
      (s.countedTo j x h g c).raiseAsked h (some (min (c.txCeiling + 256) c.signLimit)) none := by
    rw [reservationCheck_of_raises (current_countedTo s j x h g c) hraises,
      askCounter_eq (s := s.countedTo j x h g c) ha (fun _ _ => hnowaiter)]
    rfl
  have hframe := raiseAsked_frame (s.countedTo j x h g c) h (some (min (c.txCeiling + 256) c.signLimit)) none
  have hy : ((s.countedTo j x h g c).raiseAsked h (some (min (c.txCeiling + 256) c.signLimit)) none).job j =
      some (x.counted g c s.time.tt) := (State.job_congr (congrArg State.engine hframe) j).trans (job_countedTo s j x h g c)
  have hslot : (((s.countedTo j x h g c).raiseAsked h (some (min (c.txCeiling + 256) c.signLimit)) none).slot x.slotNo).state =
      .opened h g p key := by rw [hframe]; exact hopen
  have hcipher : ((s.countedTo j x h g c).raiseAsked h (some (min (c.txCeiling + 256) c.signLimit)) none).cipher = s.cipher := by
    rw [hframe]; rfl
  rw [serveUse_sign hx hh hg hkind hc hgen hright hoption hexpiry hlimit, if_pos hbelow, issueCounter_eq, hask,
    requestCore_sign hy rfl hslot, raiseAsked_setJob, raiseAsked_onCipher, hcipher]
  exact congrArg (fun t => (State.onCipher t _).raiseAsked h _ none) (setJob_setJob _ _ _ _)

end Sign

/-! ## The statement -/

/-- R41, R74: a SIGN behind another SIGN of its slot is issued the next counter when that one completes. -/
theorem sign_behind_sign {s : State} {n : Fin 4} {j j' : JobId} {x y : Job} {g : Nat} {p : Policy} {key m : List Byte}
    {c : CurrentGen} (hjobs : s.OnlyJobs j x j' y) (hlists : s.ListsAre n [j, j']) (hcore : s.CoreEnds (.sign j key))
    (hkind : x.kind = .sign) (hmatched : x.matched = true) (hclose : x.autoClose = false) (hslot : x.slotNo = n)
    (hkind' : y.kind = .sign) (hstep : y.step = .slotQueue) (hslot' : y.slotNo = n)
    (hopen : (s.slot n).state = .opened y.handle g p m) (hg : y.genField = 0 ∨ y.genField = g)
    (hc : (s.entry y.handle).current = some c) (hgen : c.gen = g)
    (hright : (if y.card.val < 16 then c.policy.signM else c.policy.signC) = true)
    (hoption : y.option = true → c.policy.payload = true) (hexpiry : s.time.tt < c.expiry) (hlimit : c.txNext < c.signLimit)
    (hbelow : c.txNext < c.txCeiling) (hroom : c.txCeiling = c.signLimit ∨ c.txNext + 65 < c.txCeiling) :
    ∃ t z, exec .signOperationEnd s = .next t ∧ t.port.cards[x.card] = .done ∧ s.sameElsewhere t ∧
      (∀ i, t.job i = if i = j' then some z else none) ∧ z.step = .signRun ∧ z.counter = c.txNext ∧ z.gen = g ∧
      z.card = y.card ∧ z.input = y.input ∧ (t.entry y.handle).current = some { c with txNext := c.txNext + 1 } ∧
      t.slot n = ⟨.opened y.handle g p m, 0, [j']⟩ ∧
      t.cipher = ⟨some ⟨.sign j' m, false⟩, [], if y.card.val < 16 then .m else .c⟩ := by
  obtain ⟨u, hexec, hu⟩ := signEnds hjobs hlists hcore hkind hmatched hslot hopen
  obtain ⟨-, -, hcurrent⟩ := hu.entry_reads y.handle
  obtain ⟨-, -, -, -, -, htime, -⟩ := hu.elsewhere
  have hy' : u.job j' = some y := by rw [hu.jobs, if_pos rfl]
  have hslot_u : u.slot n = ⟨.opened y.handle g p m, 0, [j']⟩ := by
    rw [hu.slot, hclose, ← hopen]
    rfl
  have hopen' : (u.slot y.slotNo).state = .opened y.handle g p m := by rw [hslot', hslot_u]
  have hno : ¬(u.entry y.handle).raises c.issue := by
    rintro ⟨hnear, hlow, -, -⟩
    simp only [CurrentGen.issue] at hnear hlow
    omega
  have hserve := (serveFront_use_opened (by rw [hslot_u]; rfl) hy' hstep (.inl hkind') (hslot' ▸ hopen')).trans (congrArg some
    (serveUse_sign_issued hy' rfl hg hopen' hkind' (hcurrent.trans hc) hgen hright hoption (by rw [htime]; exact hexpiry) hlimit
      hbelow hno))
  obtain ⟨hjobs_t, hstill⟩ := hu.still_of_served (t := u.issuedTo j' y y.handle g c m) rfl
    (by rw [hu.cipher]; rfl)
  rw [settle_of_one ((hu.internalStep hstep).trans hserve) (internalStep_of_still hstill)] at hexec
  refine ⟨_, _, hexec, hu.card, ?_, hjobs_t, ?_, rfl, rfl, rfl, rfl, ?_, hslot_u, ?_⟩
  · exact sameElsewhere_trans hu.elsewhere (sameElsewhere_trans (sameElsewhere_onEntry _ _ _)
      (sameElsewhere_trans (sameElsewhere_setJob _ _ _) (sameElsewhere_onCipher _ _)))
  · rw [hu.cipher]
    rfl
  · exact congrArg HandleEntry.current (entry_countedTo u j' y y.handle g c)
  · exact congrArg (Cipher.useAsked · j' y.group (.sign j' m)) hu.cipher

/-- A job that was taken alone, and is at no step that goes on alone, waits. -/
theorem still_of_holding {s t : State} (hno : s.NoJob) {n : CardNo} {j : JobId} {i : Fin 4} {z : Job}
    (ht : t.engine = (s.holding n j i z).engine) (hz : z.step.goesOnAlone = false) : t.Still := by
  obtain ⟨-, -, hwaiting, -⟩ := id hno
  refine still_of_waiting (fun j' y hy => ?_) (by rw [ht]; exact hwaiting)
  rw [State.job_congr ht, job_holding n j i z hno] at hy
  split at hy <;> cases hy
  exact hz

/-- The counter is issued to a SIGN that was taken alone (R74). -/
theorem holding_issuedTo (s : State) (n : CardNo) (j : JobId) (i : Fin 4) (x : Job) (h : HandleNo) (g : Nat) (c : CurrentGen)
    (key : List Byte) : (s.holding n j i x).issuedTo j x h g c key =
      ((s.holding n j i (x.issued g c s.time.tt s.cipher.running.isSome)).onEntry h fun e =>
        { e with current := some c.issue }).onCipher fun q => q.useAsked j x.group (.sign j key) :=
  congrArg (fun t => (State.onEntry t h fun e => { e with current := some c.issue }).onCipher
    fun q => q.useAsked j x.group (.sign j key)) (holding_setJob n j i x _)

section TakenSign

variable {s : State} {n : CardNo} {j : JobId} {x : Job} {g : Nat} {p : Policy} {key : List Byte} {c : CurrentGen}
  (hsnap : s.snapshot n .sign = x) (htake : s.Takes n j .sign) (hno : s.NoJob)
  (hopen : s.slotState (.host x.slotNo) = .opened x.handle g p key)
include hsnap htake hno hopen

/-- A SIGN is taken, and judged at once against its OPEN slot. -/
theorem exec_takeSign {u : State} (hserve : (s.holding n j x.slotNo x).serveUse x.slotNo j x x.handle g = u)
    (hu : u.internalStep = none) : exec .takeSign s = .next u := by
  subst hsnap
  obtain ⟨hkind, -, -, hstep, -⟩ := snapshot_fields s n .sign
  have hslot : (s.holding n j (s.snapshot n .sign).slotNo (s.snapshot n .sign)).slot (s.snapshot n .sign).slotNo =
      { s.slot (s.snapshot n .sign).slotNo with list := [j] } := by rw [slot_holding, if_pos rfl]
  exact exec_use (.inl rfl) htake hno ((serveFront_use_opened (by rw [hslot]; rfl) (job_holding_self n j _ _) hstep
    (.inl hkind) (by rw [hslot]; exact hopen)).trans (congrArg some hserve)) hu

variable (ha : s.supply.activity = .active) (hg : x.genField = 0 ∨ x.genField = g)
  (hc : (s.entry x.handle).current = some c) (hgen : c.gen = g)
  (hright : (if x.card.val < 16 then c.policy.signM else c.policy.signC) = true)
  (hoption : x.option = true → c.policy.payload = true) (hexpiry : s.time.tt < c.expiry) (hlimit : c.txNext < c.signLimit)
include ha hg hc hgen hright hoption hexpiry hlimit

/-- Below the ceiling it is issued its counter, and the raise of R77 is asked for where it is due (R74). -/
theorem takeSign_issued (hbelow : c.txNext < c.txCeiling) :
    let issued := (s.holding n j x.slotNo x).issuedTo j x x.handle g c key
    (¬(s.entry x.handle).raises c.issue → exec .takeSign s = .next issued) ∧
      ((s.entry x.handle).raises c.issue → exec .takeSign s =
        .next (issued.raiseAsked x.handle (some (min (c.txCeiling + 256) c.signLimit)) none)) := by
  intro issued
  have hkind : x.kind = .sign := hsnap ▸ (snapshot_fields s n .sign).1
  have hx := job_holding_self (s := s) n j x.slotNo x
  have hothers : ∀ i, i ≠ j → (s.holding n j x.slotNo x).job i = none := fun i hi => by
    rw [job_holding n j x.slotNo x hno, if_neg (Ne.symm hi)]
  have hopen' : ((s.holding n j x.slotNo x).slot x.slotNo).state = .opened x.handle g p key := by
    rw [slot_holding, if_pos rfl]
    exact hopen
  have hstep : (x.issued g c s.time.tt s.cipher.running.isSome).step.goesOnAlone = false := by
    change JobStep.goesOnAlone (if _ then _ else _) = false
    split <;> rfl
  have hengine : issued.engine =
      (s.holding n j x.slotNo (x.issued g c s.time.tt s.cipher.running.isSome)).engine :=
    (congrArg State.engine (holding_issuedTo s n j x.slotNo x x.handle g c key) :)
  refine ⟨fun hr => ?_, fun hr => ?_⟩
  · exact exec_takeSign hsnap htake hno hopen
      (serveUse_sign_issued hx rfl hg hopen' hkind hc hgen hright hoption hexpiry hlimit hbelow hr)
      (internalStep_of_still (still_of_holding hno hengine hstep))
  · exact exec_takeSign hsnap htake hno hopen
      (serveUse_sign_raises hx rfl hg hopen' hkind hc hgen hright hoption hexpiry hlimit ha hothers hbelow hr)
      (internalStep_of_still (still_of_holding hno ((raiseAsked_engine _ _ _ _).trans hengine) hstep))

/-- At the ceiling it waits COUNTER with the same ask, and completes STORE_FAULT where the ask is refused (R75, R78). -/
theorem takeSign_waits (hceiling : c.txNext = c.txCeiling) :
    let waits := s.holding n j x.slotNo { x.passed g with step := .counterWait }
    (¬(s.entry x.handle).raises c → exec .takeSign s = .next waits) ∧
      ((s.entry x.handle).raises c → s.store.fault = false ∨ (s.entry x.handle).counterPending.isSome = true →
        exec .takeSign s = .next (waits.raiseAsked x.handle (some (min (c.txCeiling + 256) c.signLimit)) none)) ∧
      ((s.entry x.handle).raises c → s.store.fault = true → (s.entry x.handle).counterPending = none →
        exec .takeSign s = .next (waits.finishUse j .storeFault [])) := by
  intro waits
  have hkind : x.kind = .sign := hsnap ▸ (snapshot_fields s n .sign).1
  have hx := job_holding_self (s := s) n j x.slotNo x
  have hserve : (s.holding n j x.slotNo x).serveUse x.slotNo j x x.handle g = waits.reservationCheck x.handle := by
    rw [serveUse_sign hx rfl hg hkind hc hgen hright hoption hexpiry hlimit, if_neg (by omega), holding_setJob]
  have hcurrent : (waits.entry x.handle).current = some c := hc
  refine ⟨fun hr => ?_, fun hr hheard => ?_, fun hr hf hp => ?_⟩
  · rw [reservationCheck_of_not_raises hcurrent hr] at hserve
    exact exec_takeSign hsnap htake hno hopen hserve (internalStep_of_still (still_of_holding hno (t := waits) rfl rfl))
  · have hnowaiter : waits.store.fault = true → (waits.entry x.handle).counterPending = none →
        waits.NoCounterWaiter x.handle := by
      intro hf hp
      rcases hheard with e | e
      · exact absurd (hf.symm.trans e) (by decide)
      · rw [show (s.entry x.handle).counterPending = none from hp] at e
        cases e
    rw [reservationCheck_of_raises hcurrent hr, askCounter_eq (s := waits) ha hnowaiter] at hserve
    exact exec_takeSign hsnap htake hno hopen hserve (internalStep_of_still (still_of_holding hno
      (raiseAsked_engine waits _ _ _) rfl))
  · have honly : waits.OnlyJob j { x.passed g with step := .counterWait } :=
      ⟨job_holding_self n j x.slotNo _, fun i hi => by rw [job_holding n j x.slotNo _ hno, if_neg (Ne.symm hi)]⟩
    rw [reservationCheck_of_raises hcurrent hr, askCounter_of_fault (s := waits) ha hf hp,
      failCounterWaiters_of_onlyJob (h := x.handle) honly rfl rfl] at hserve
    obtain ⟨-, hnojob, -⟩ := holding_finishUse hno n j x.slotNo { x.passed g with step := .counterWait } .storeFault []
    exact exec_takeSign hsnap htake hno hopen hserve (internalStep_of_no_jobs hnojob.1)

end TakenSign

/-- Settles O29: a SIGN behind another, and a SIGN taken by a part without a job, below the ceiling and at it. -/
theorem signIsIssuedACounterOrAsksForARaise : Obligations.SignIsIssuedACounterOrAsksForARaise := by
  unfold Obligations.SignIsIssuedACounterOrAsksForARaise
  refine ⟨?_, ?_⟩
  · intro s n j j' x y g p key m c hjobs hlists hcore hkind hmatched hclose hslot hkind' hstep hslot' hopen hg hc hgen hright
      hoption hexpiry hlimit hbelow hroom
    exact sign_behind_sign hjobs hlists hcore hkind hmatched hclose hslot hkind' hstep hslot' hopen hg hc hgen hright
      hoption hexpiry hlimit hbelow hroom
  · intro s n j g p key c htake hno ha x e group taken raised hopen hg hc hgen hright hoption hexpiry hlimit
    refine ⟨?_, ?_⟩
    · intro hbelow c' note issued
      have hnote : x.notes ||| issueNotes c (c.txNext + 1) s.time.tt = note := by
        rw [(snapshot_fields s n .sign).2.1]
        exact BitVec.zero_or
      have hissued : (s.holding n j x.slotNo x).issuedTo j x x.handle g c key = issued := by
        rw [holding_issuedTo, Job.issued, hnote]
        rfl
      rw [← hissued]
      exact takeSign_issued rfl htake hno hopen ha hg hc hgen hright hoption hexpiry hlimit hbelow
    · intro hceiling waits
      obtain ⟨hstays, hasks, hfault⟩ :=
        takeSign_waits rfl htake hno hopen ha hg hc hgen hright hoption hexpiry hlimit hceiling
      refine ⟨hstays, hasks, fun hr hf hp => ⟨_, hfault hr hf hp, ?_⟩⟩
      obtain ⟨hport, hnojob, hsame⟩ :=
        holding_finishUse hno n j x.slotNo { x.passed g with step := .counterWait } .storeFault []
      obtain ⟨-, -, -, -, hstore, -⟩ := hsame
      exact ⟨hport, hnojob, hstore, entry_finishUse_of_ne_ok (job_holding_self n j x.slotNo _) .storeFault [] (by decide)⟩

end Sys2Proof.Machine

/-!
PROOFS about the clock's effect on the slots: idle closes and the completion of wipes, and the seconds, drift credits and
TIME marks (R45, R48, R49, R142 to R144, R147).
-/

namespace Sys2Proof.Machine

open Sys2Proof

/-! ## Idle closes and wipes -/

theorem idleDue_iff (s : State) (i : Fin 4) : s.idleDue i = true ↔
    s.settings.idleLimit ≠ 0 ∧ (s.slot i).list = [] ∧ s.settings.idleLimit ≤ (s.slot i).idle := by
  simp [State.idleDue, and_assoc]

/-- A wipe goes on within the milli-tick of its start, and completes at the next one (R48). -/
theorem exec_wipeCompletion {s : State} {i : SlotId} {since : Nat} (h : s.slotState i = .closing since) :
    exec (.wipeCompletion i) s = .next (if since < s.time.milli then (s.setSlotState i .empty).settle else s) := by
  rw [exec, execWipeCompletion, h]

/-- A slot put into a state that is not OPEN holds its idle timer at 0 and keeps its list (R48). -/
theorem slot_setSlotState (s : State) (n i : Fin 4) (u : SlotState) :
    (s.setSlotState (.host n) u).slot i = if n = i then ⟨u, 0, (s.slot n).list⟩ else s.slot i := State.slot_onSlot s n i _

/-- A CLOSE that is the only job in hand completes OK when its slot is EMPTY (R45). -/
theorem settle_close {s : State} {n : Fin 4} {j : JobId} {x : Job} (hjob : s.OnlyJob j x) (hlist : (s.slot n).list = [j])
    (hempty : (s.slot n).state = .empty) (hkind : x.kind = .closeSlot) (hstep : x.step = .slotQueue)
    (hwaiting : s.engine.laneWaiting = []) (hlists : ∀ i, i ≠ n → (s.slot i).list = []) :
    s.settle = s.finishJob j .ok [] ∧ ∀ i, (s.finishJob j .ok []).job i = none := by
  obtain ⟨hx, hothers⟩ := hjob
  have hfree : ∀ i, (s.finishJob j .ok []).job i = none := fun i => by
    rw [job_finishJob hx]
    split
    next => rfl
    next hi => exact hothers i hi
  have hjobs : ∀ i, s.job i = if i = j then some x else none := fun i => by
    split
    next hi => rw [hi, hx]
    next hi => exact hothers i hi
  have hserve : s.internalStep = some (s.finishJob j .ok []) :=
    (internalStep_of_onlyFront (onlyFront_of_single hjobs hwaiting hlists hstep)).trans
      (serveFront_close_empty (by rw [hlist]; rfl) hx hstep hkind hempty)
  exact ⟨settle_of_one hserve (internalStep_of_no_jobs hfree), hfree⟩

/-- Settles O36: the conditions of `idleDue`, and the CLOSE at the front once the wipe has completed. -/
theorem idleClosesAndWipes : Obligations.IdleClosesAndWipes := by
  unfold Obligations.IdleClosesAndWipes
  refine ⟨fun s i h g p k hopen => ⟨fun hlimit hlist hidle => ?_, fun hnot => ?_⟩, fun s i since hclosing => ⟨fun hlate => ?_,
    fun hdue hjobs => ?_, fun n j x hi hdue hlist hjob hkind hstep hlane hwaiting hlists => ?_⟩⟩
  · rw [exec, execIdleClose, if_pos ((idleDue_iff s i).mpr ⟨hlimit, hlist, hidle⟩), wipe_of_opened hopen]
  · rw [exec, execIdleClose, if_neg]
    rw [idleDue_iff]
    rintro ⟨hlimit, hlist, hidle⟩
    rcases hnot with e | e | e
    · exact hlimit e
    · exact e hlist
    · omega
  · rw [exec_wipeCompletion hclosing, if_neg (Nat.not_lt.mpr hlate)]
  · have hfree : ∀ j, (s.setSlotState i .empty).job j = none := fun j => (job_setSlotState s i .empty j).trans (hjobs j)
    rw [exec_wipeCompletion hclosing, if_pos hdue, settle_of_no_jobs hfree]
  · subst hi
    have hslot := slot_setSlotState s n
    have honly : (s.setSlotState (.host n) .empty).OnlyJob j x := hjob
    have hx := honly.1
    obtain ⟨hsettle, hfree⟩ := settle_close honly (by rw [hslot, if_pos rfl, hlist]) (by rw [hslot, if_pos rfl]) hkind hstep
      hwaiting fun m hm => by rw [hslot, if_neg (Ne.symm hm)]; exact hlists m hm
    refine ⟨_, by rw [exec_wipeCompletion hclosing, if_pos hdue, hsettle], ?_, finishJob_port hx _ _, hfree,
      sameElsewhere_trans (setSlotState_sameElsewhere s _ _) (finishJob_sameElsewhere hx _ _), fun h => ?_⟩
    · rw [slot_finishJob hx, hslot, if_pos rfl, hlist]
      simp [Slot.without]
    · exact State.entry_congr (directory_finishJob hx _ _ (by rw [hkind]; decide)) h

/-! ## Seconds, credits and TIME marks -/

/-- Trusted time, the sub-count and the credits after a second in READY (R143, R144). -/
theorem second_eq (t : TimeBase) : t.second = { t with
    tt := min (t.tt + 1) 0xFFFFFFFE
    subCount := if t.subCount < 63 then t.subCount + 1 else 0
    creditsDue := if t.subCount < 63 then t.creditsDue else t.creditsDue + 1 } := by
  unfold TimeBase.second
  by_cases h : t.subCount < 63
  · rw [if_pos (by omega), if_pos h, if_pos h]
    rfl
  · rw [if_neg (by omega), if_neg h, if_neg h]
    rfl

theorem timeMarkDue_iff (s : State) : s.timeMarkDue = true ↔
    s.resetCtl.part = .ready ∧ s.time.lastStamp + 21600 ≤ s.time.tt ∧ s.time.timeMark = .none := by
  simp [State.timeMarkDue, and_assoc]

/-- The part's waking looks at the supply monitor alone. -/
theorem wake_onTime (s : State) (f : TimeBase → TimeBase) : (s.onTime f).wake = s.wake.onTime f := by
  unfold State.wake
  rw [State.onTime_supply]
  split <;> rfl

theorem wake_eq (s : State) : s.wake = { s with supply := s.wake.supply } := by
  unfold State.wake
  split <;> rfl

/-- The ask for a TIME mark puts it at the tail of the queue (R132, R147). -/
theorem askAppend_timeMark (s : State) (hf : s.store.fault = false) :
    (s.onTime fun t => { t with timeMark := .waiting }).askAppend .timeMark =
      (s.wake.onTime fun t => { t with timeMark := .waiting }).onStore fun t => { t with queue := t.queue ++ [.timeMark] } := by
  have hfault : (s.wake.onTime fun t => { t with timeMark := .waiting }).store.fault = false := by rw [wake_eq]; exact hf
  rw [State.askAppend, wake_onTime, hfault]
  rfl

/-- In FAULT the TIME mark is refused, and may fall due again (R131, R147). -/
theorem askAppend_timeMark_of_fault (s : State) (hf : s.store.fault = true) (hmark : s.time.timeMark = .none) :
    (s.onTime fun t => { t with timeMark := .waiting }).askAppend .timeMark = s.wake := by
  have hfault : (s.wake.onTime fun t => { t with timeMark := .waiting }).store.fault = true := by rw [wake_eq]; exact hf
  have htime : ({ s.time with timeMark := .none } : TimeBase) = s.time := by rw [← hmark]
  rw [State.askAppend, wake_onTime, hfault, wake_eq]
  exact congrArg (fun t => { s with supply := s.wake.supply, time := t }) htime

/-- Settles O56: each command by its condition. -/
theorem secondsCreditsAndTimeMarks : Obligations.SecondsCreditsAndTimeMarks := by
  unfold Obligations.SecondsCreditsAndTimeMarks
  refine fun s => ⟨fun h => ?_, fun h => ?_, fun h => ?_, fun h => ?_, ?_⟩
  · rw [exec, execTimeBaseSecond, if_neg (by omega)]
  · refine ⟨_, by rw [exec, execTimeBaseSecond, if_pos h], rfl, fun i => ?_, ?_⟩
    · exact mapVector_getElem Slot.second s.slots.host i.val i.isLt
    · cases hpart : s.resetCtl.part with
      | starting => simp [hpart]
      | ready =>
        simp only [State.onTime_time, State.onSlots_resetCtl, State.onSlots_time, hpart, if_true]
        exact second_eq { s.time with secondsDue := s.time.secondsDue - 1 }
  · rw [exec, execDriftCreditAccrual, if_neg (by omega)]
  · rw [exec, execDriftCreditAccrual, if_pos h]
    rfl
  · intro due
    have hdue : s.timeMarkDue = true ↔ due := timeMarkDue_iff s
    refine ⟨fun hnot => ?_, fun h hf => ?_, fun h hf => ?_⟩
    · rw [exec, execTimeMarkDue, if_neg (fun e => hnot (hdue.mp e))]
    · rw [exec, execTimeMarkDue, if_pos (hdue.mpr h), askAppend_timeMark s hf]
    · obtain ⟨-, -, hmark⟩ := id h
      rw [exec, execTimeMarkDue, if_pos (hdue.mpr h), askAppend_timeMark_of_fault s hf hmark]

end Sys2Proof.Machine

/-!
PROOFS about the judgement of an OPEN and of a SIGN against the key directory (R42, R57, R59, R60, R73).
-/

namespace Sys2Proof.Machine

open Sys2Proof

/-! ## Liveness and resolution -/

/-- Generation `g` is live: current, or staged or retiring and not lapsed (R57, R59). -/
def HandleEntry.Live (e : HandleEntry) (tt g : Nat) : Prop :=
  (∃ c, e.current = some c ∧ c.gen = g) ∨ (∃ c, e.staged = some c ∧ c.gen = g ∧ tt < c.deadline) ∨
    ∃ c, e.retiring = some c ∧ c.gen = g ∧ tt < c.graceEnd

/-- The generation field `gen` of an OPEN resolves to `g` (R42, step 1). -/
def HandleEntry.Resolves (e : HandleEntry) (tt gen g : Nat) : Prop :=
  (gen = 0 ∧ ∃ c, e.current = some c ∧ c.gen = g) ∨ (gen ≠ 0 ∧ gen = g ∧ e.Live tt g)

/-- The policy of generation `g` where it is live (R56). -/
def HandleEntry.livePolicy (e : HandleEntry) (tt g : Nat) : Policy :=
  if e.current.any (fun c => c.gen = g) then (e.current.map (·.policy)).getD Policy.empty
  else if e.staged.any (fun c => c.gen = g ∧ tt < c.deadline) then (e.staged.map (·.policy)).getD Policy.empty
  else (e.retiring.map (·.policy)).getD Policy.empty

theorem standing_eq (e : HandleEntry) (tt g : Nat) : e.standing tt g =
    if e.current.any (fun c => c.gen = g) then some .current
    else if e.staged.any (fun c => c.gen = g ∧ tt < c.deadline) then some .staged
    else if e.retiring.any (fun c => c.gen = g ∧ tt < c.graceEnd) then some .retiring
    else none := by
  have hstaged : (e.presentStaged tt).any (fun c => c.gen == g) = e.staged.any fun c => c.gen = g ∧ tt < c.deadline := by
    unfold HandleEntry.presentStaged
    cases e.staged <;> simp [Option.any_filter, Bool.and_comm, beq_eq_decide]
  have hretiring : (e.presentRetiring tt).any (fun c => c.gen == g) = e.retiring.any fun c => c.gen = g ∧ tt < c.graceEnd := by
    unfold HandleEntry.presentRetiring
    cases e.retiring <;> simp [Option.any_filter, Bool.and_comm, beq_eq_decide]
  rw [HandleEntry.standing, hstaged, hretiring]
  rfl

theorem standing_current_iff {e : HandleEntry} {tt g : Nat} :
    e.standing tt g = some .current ↔ ∃ c, e.current = some c ∧ c.gen = g := by
  rw [standing_eq]
  simp only [Option.any_eq_true, decide_eq_true_eq]
  split_ifs <;> simp_all

theorem live_iff_standing {e : HandleEntry} {tt g : Nat} : e.Live tt g ↔ ∃ st, e.standing tt g = some st := by
  rw [standing_eq, HandleEntry.Live]
  simp only [Option.any_eq_true, decide_eq_true_eq]
  split_ifs <;> simp_all

/-- The policy of a live generation is that of its standing. -/
theorem livePolicy_of_standing {e : HandleEntry} {tt g : Nat} {st : Standing} (h : e.standing tt g = some st) :
    e.livePolicy tt g = e.policyAt st := by
  rw [standing_eq] at h
  unfold HandleEntry.livePolicy
  split_ifs at h ⊢ <;> cases h <;> rfl

theorem resolveOpen_eq_some {e : HandleEntry} {tt gen g : Nat} {st : Standing} (h : resolveOpen e tt gen = some (g, st)) :
    e.standing tt g = some st ∧ ∀ g', e.Resolves tt gen g' ↔ g' = g := by
  unfold resolveOpen at h
  split at h
  next h0 =>
    obtain ⟨c, hc, hst⟩ := Option.map_eq_some_iff.mp h
    obtain ⟨rfl, rfl⟩ := Prod.mk.inj hst
    exact ⟨standing_of_current hc tt, fun g' => by simp [HandleEntry.Resolves, h0, hc, eq_comm]⟩
  next h0 =>
    obtain ⟨st', hlive, hst⟩ := Option.map_eq_some_iff.mp h
    obtain ⟨rfl, rfl⟩ := Prod.mk.inj hst
    refine ⟨hlive, fun g' => ?_⟩
    have hl := live_iff_standing.mpr ⟨st', hlive⟩
    simp only [HandleEntry.Resolves, h0, false_and, false_or, ne_eq, not_false_eq_true, true_and]
    exact ⟨fun e => e.1.symm, fun e => ⟨e.symm, e ▸ hl⟩⟩

theorem resolveOpen_eq_none {e : HandleEntry} {tt gen : Nat} (h : resolveOpen e tt gen = none) (g : Nat) :
    ¬e.Resolves tt gen g := by
  unfold resolveOpen at h
  split at h
  next h0 => simp [HandleEntry.Resolves, h0, Option.map_eq_none_iff.mp h]
  next h0 =>
    rintro (⟨e0, -⟩ | ⟨-, rfl, hlive⟩)
    · exact h0 e0
    · obtain ⟨st, hst⟩ := live_iff_standing.mp hlive
      rw [Option.map_eq_none_iff.mp h] at hst
      cases hst

/-! ## Steps 2 to 5 of R42, and R73 -/

theorem internal_iff (r : Option Role) : r.any Role.internal = false ↔ r ≠ some .authCmd ∧ r ≠ some .authTransport := by
  cases r with
  | none => simp
  | some r => cases r <;> decide

/-- The judgement of an OPEN whose generation field resolves to `g` (R42, steps 2 to 5). -/
theorem judgeOpen_of_resolves {e : HandleEntry} {tt gen g : Nat} (h : e.Resolves tt gen g) (group : Machine.Group)
    (latched : Bool) : judgeOpen e tt gen group latched =
      if e.role.any Role.internal then .error .roleDenied
      else if !(e.livePolicy tt g).usableBy group then .error .useDenied
      else if (e.livePolicy tt g).tamperLock && latched then .error .tamperLock
      else if e.current.any (fun c => c.gen = g ∧ c.expiry ≤ tt) then .error .keyExpired
      else if e.current.any (fun c => c.gen = g ∧ c.signLimit ≤ c.txNext) then .error .keySpent
      else .ok g := by
  unfold judgeOpen
  split
  next hnone => exact absurd h (resolveOpen_eq_none hnone g)
  next n st hsome =>
    obtain ⟨hst, hunique⟩ := resolveOpen_eq_some hsome
    obtain rfl := (hunique g).mp h
    rw [livePolicy_of_standing hst]
    have hcurrent : st = .current ↔ ∃ c, e.current = some c ∧ c.gen = g := by
      rw [← standing_current_iff (tt := tt), hst, Option.some.injEq]
    cases hc : e.current with
    | none =>
      simp only [Option.map_none, Option.any_none, Bool.false_eq_true, if_false]
    | some c =>
      simp only [hc, Option.some.injEq, exists_eq_left'] at hcurrent
      by_cases hgen : c.gen = g
      · obtain rfl := hcurrent.mpr hgen
        simp only [Option.map_some, Option.any_some, CurrentGen.condition, hgen, true_and, decide_eq_true_eq]
        split_ifs <;> rfl
      · have hne : st ≠ .current := fun h => hgen (hcurrent.mp h)
        simp only [Option.map_some, Option.any_some, hgen, false_and, decide_false, Bool.false_eq_true, if_false]
        cases st <;> simp at hne ⊢

theorem judgeOpen_of_not_resolves {e : HandleEntry} {tt gen : Nat} (h : ∀ g, ¬e.Resolves tt gen g) (group : Machine.Group)
    (latched : Bool) : judgeOpen e tt gen group latched = .error .noKey := by
  unfold judgeOpen
  split
  next => rfl
  next g st hsome => exact absurd (((resolveOpen_eq_some hsome).2 g).mpr rfl) (h g)

theorem resolves_unique {e : HandleEntry} {tt gen g g' : Nat} (h : e.Resolves tt gen g) (h' : e.Resolves tt gen g') : g' = g := by
  cases hr : resolveOpen e tt gen with
  | none => exact absurd h (resolveOpen_eq_none hr g)
  | some r =>
    obtain ⟨-, hunique⟩ := resolveOpen_eq_some (g := r.1) (st := r.2) hr
    exact ((hunique g').mp h').trans ((hunique g).mp h).symm

/-- The judgement of a SIGN by its current generation (R73). -/
theorem judgeSign_eq (e : HandleEntry) (tt g : Nat) (group : Machine.Group) (encipher : Bool) :
    judgeSign e tt g group encipher = match e.current with
      | none => .error .notCurrent
      | some c =>
        if c.gen ≠ g then .error .notCurrent
        else if ¬(c.policy.signs group = true ∧ (encipher = true → c.policy.payload = true)) then .error .useDenied
        else if c.expiry ≤ tt then .error .keyExpired
        else if c.signLimit ≤ c.txNext then .error .keySpent
        else .ok c := by
  unfold judgeSign
  cases e.current with
  | none => rfl
  | some c =>
    have hdenied : (!(c.policy.signs group) || (encipher && !c.policy.payload)) = true ↔
        ¬(c.policy.signs group = true ∧ (encipher = true → c.policy.payload = true)) := by
      cases c.policy.signs group <;> cases encipher <;> simp
    simp only [hdenied, CurrentGen.condition]
    split_ifs <;> rfl

/-- Settles O26: both judgements by their equations. -/
theorem openAndSignAreJudgedInOrder : Obligations.OpenAndSignAreJudgedInOrder := by
  unfold Obligations.OpenAndSignAreJudgedInOrder
  refine ⟨fun e tt gen m latched => ?_, fun e tt g m encipher => ?_⟩
  · intro verdict live policy resolved hostRole allowed locked passes4
    by_cases hany : ∃ g, e.Resolves tt gen g
    · obtain ⟨g, hg⟩ := hany
      have hunique : ∀ g', resolved g' ↔ g' = g := fun g' => ⟨resolves_unique hg, fun e => e ▸ hg⟩
      have hhost : hostRole ↔ e.role.any Role.internal = false := (internal_iff e.role).symm
      have hallowed : allowed g ↔ (e.livePolicy tt g).usableBy (if m then .m else .c) = true := by cases m <;> rfl
      have hlocked : locked g ↔ ((e.livePolicy tt g).tamperLock && latched) = true := Bool.and_eq_true_iff.symm
      have hverdict := judgeOpen_of_resolves hg (if m then .m else .c) latched
      change verdict = _ at hverdict
      clear_value verdict locked allowed hostRole resolved
      clear policy live hg
      generalize e.role.any Role.internal = internal at hverdict hhost
      generalize (e.livePolicy tt g).usableBy (if m then .m else .c) = usable at hverdict hallowed
      generalize ((e.livePolicy tt g).tamperLock && latched) = shut at hverdict hlocked
      subst hverdict
      simp only [passes4, hunique, exists_eq, exists_eq_left, true_and]
      clear hunique passes4
      cases e.current with
      | none => grind
      | some c =>
        simp only [Option.any_some, decide_eq_true_eq, Option.some.injEq, exists_eq_left', forall_eq']
        by_cases hgen : c.gen = g
        · subst hgen
          grind
        · grind
    · have hnone : ∀ g, ¬resolved g := fun g hg => hany ⟨g, hg⟩
      have hverdict := judgeOpen_of_not_resolves (fun g hg => hany ⟨g, hg⟩) (if m then .m else .c) latched
      change verdict = _ at hverdict
      clear_value verdict locked allowed hostRole resolved
      simp [passes4, hnone, hverdict]
  · intro current allowed verdict
    have hverdict : verdict = _ := judgeSign_eq e tt g (if m then .m else .c) encipher
    have hsigns : ∀ c : CurrentGen, c.policy.signs (if m then .m else .c) = if m then c.policy.signM else c.policy.signC := by
      cases m <;> exact fun _ => rfl
    clear_value verdict
    simp only [hsigns] at hverdict
    cases hc : e.current with
    | none => simp_all [current, allowed]
    | some c =>
      simp only [hc] at hverdict
      simp only [current, allowed, hc, Option.some.injEq, exists_eq_left', hverdict]
      split_ifs <;> simp_all

end Sys2Proof.Machine

/-!
PROOFS about the ends of openings: the unwrap of a host slot, and that of P (R43, R44, R51, R52, R94, R99).
-/

namespace Sys2Proof.Machine

open Sys2Proof

/-! ## The end of an unwrap -/

/-- The state in which an operation has ended and no other has begun (R32). -/
def State.coreEnded (s : State) : State := s.onCipher fun c => { c with running := none }

theorem coreEnded_sameElsewhere (s : State) : s.sameElsewhere s.coreEnded := sameElsewhere_onCipher _ _

theorem coreIdle_of_coreEnds {s : State} {op : CoreOp} (h : s.CoreEnds op) : s.coreIdle = s.coreEnded := by
  obtain ⟨-, hwaiting⟩ := h
  exact coreIdle_of_pick_none (by simp [pickRequest_eq, hwaiting])

theorem exec_slotUnwrapEnd {s : State} {i : SlotId} {m : List Byte} (h : s.CoreEnds (.slotUnwrap i m)) :
    exec .slotUnwrapEnd s = .next (s.coreEnded.unwrapped i m).settle := by
  rw [exec, execSlotUnwrapEnd, h.1]
  simp only
  rw [coreIdle_of_coreEnds h]
  rfl

/-- An opening whose material does not unwrap fails (R44). -/
theorem unwrapped_of_bad {s : State} {i : SlotId} {h : HandleNo} {g : Nat} {p : Policy} {m m' : List Byte}
    (hslot : s.slotState i = .unwrapping h g p m') (hbad : Config.unwrapDeviceRoot m = none) :
    s.unwrapped i m = s.failOpening i .storeFault := by
  rw [State.unwrapped, hslot]
  simp only [hbad]

/-- A host slot with good material is OPEN or, with a TAMPER_LOCK key under a latch, wiped, and its OPEN completes (R43,
R51). -/
theorem unwrapped_host {s : State} {i : Fin 4} {h : HandleNo} {g : Nat} {p : Policy} {m m' key : List Byte} {j : JobId}
    (hslot : s.slotState (.host i) = .unwrapping h g p m') (hlist : (s.slot i).list.head? = some j)
    (hgood : Config.unwrapDeviceRoot m = some key) : s.unwrapped (.host i) m =
      if p.tamperLock = true ∧ s.anyLatch = true then
        (s.setSlotState (.host i) (.closing s.time.milli)).finishJob j .tamperLock []
      else (s.setSlotState (.host i) (.opened h g p key)).finishJob j .ok [g, roleCode (s.entry h).role] := by
  rw [State.unwrapped, hslot]
  simp only [hgood, State.hostOpened, hlist, Bool.and_eq_true]
  split <;> rfl

/-- What is left when the only job in hand completes with the end of its slot's opening. -/
theorem opening_completes {s : State} {i : Fin 4} {j : JobId} {x : Job} (hcore : s.cipher.running = none)
    (hjob : s.OnlyJob j x) (v : SlotState) (st : Status) (values : List Nat) :
    let t := (s.setSlotState (.host i) v).finishJob j st values
    t.settle = t ∧ t.cipher.running = none ∧ (∀ j', t.job j' = none) ∧ s.sameElsewhere t ∧ (t.slot i).idle = 0 ∧
      (t.slot i).state = v ∧ t.port = s.port.jobDone x st values := by
  obtain ⟨hx, hothers⟩ := hjob
  have hx' : (s.setSlotState (.host i) v).job j = some x := hx
  intro t
  have hfree : ∀ j', t.job j' = none := fun j' => by
    rw [job_finishJob hx']
    split
    next => rfl
    next hj => exact hothers j' hj
  have hslot : t.slot i = Slot.without ⟨v, 0, (s.slot i).list⟩ j := by
    rw [slot_finishJob hx', slot_setSlotState, if_pos rfl]
  refine ⟨settle_of_no_jobs hfree, ?_, hfree,
    sameElsewhere_trans (setSlotState_sameElsewhere s _ _) (finishJob_sameElsewhere hx' _ _), by rw [hslot]; rfl,
    by rw [hslot]; rfl, finishJob_port hx' _ _⟩
  rw [finishJob_cipher hx']
  exact congrArg (Option.map _) hcore

/-! ## The package slot -/

/-- The step in which the lane job waits for the operation that needs the key it asked for, and the operation itself (R52,
R94, R99). -/
def LaneKey.waits : LaneKey → JobStep
  | .commandCurrent => .tagWait false
  | .commandRetiring => .tagWait true
  | .transport => .unwrapWait

/-- The operation that the lane job begins with the key it asked for (R94, R99). -/
def LaneKey.op (k : LaneKey) (j : JobId) (key : List Byte) : CoreOp :=
  match k with
  | .commandCurrent | .commandRetiring => .packageTag j key
  | .transport => .stageUnwrap j key

/-- The lane job that waits for P's key asks the core for its operation once P is OPEN (R52). -/
theorem laneKeyOpen_eq {s : State} {j : JobId} {x : Job} {asked : LaneKey} {g : Nat} (hlane : s.engine.lane = some j)
    (hx : s.job j = some x) (hstep : x.step = .keyWait asked g) :
    s.laneKeyOpen = (s.setJob j (some { x with step := asked.waits })).requestCore (.lane j) := by
  rw [State.laneKeyOpen, hlane]
  simp only [hx, hstep]
  cases asked <;> exact congrArg (State.requestCore · (.lane j)) (onJob_eq_setJob hx _)

/-- In an idle core the operation of the lane job begins at once (R32). -/
theorem requestCore_lane {s : State} {j : JobId} {x : Job} {asked : LaneKey} (hidle : s.cipher.running = none)
    (hx : s.job j = some x) (hstep : x.step = asked.waits) : s.requestCore (.lane j) =
      (s.setJob j (some { x with step := asked.waits.begun })).onCipher fun c =>
        { c with running := some ⟨asked.op j (s.keyIn .package), false⟩ } := by
  have hop : s.granted (.lane j) = some (asked.op j (s.keyIn .package)) := by
    rw [State.granted, hx, Option.bind_some, hstep]
    cases asked <;> rfl
  rw [State.requestCore, hidle, Option.isNone_none, if_pos rfl, grant_eq hop, State.beginJob]
  refine (onJob_eq_setJob (s := s.onCipher _) hx _).trans ?_
  rw [hstep]
  rfl

/-- P with good material is OPEN, and the lane job's operation begins with its key (R52, R94, R99). -/
theorem package_unwrapped {s : State} {h : HandleNo} {g g' : Nat} {p : Policy} {m m' key : List Byte} {j : JobId} {x : Job}
    {asked : LaneKey} (hcore : s.CoreEnds (.slotUnwrap .package m)) (hslot : s.slots.package = .unwrapping h g p m')
    (hlane : s.engine.lane = some j) (hwaiting : s.engine.laneWaiting = []) (hjob : s.OnlyJob j x)
    (hstep : x.step = .keyWait asked g') (hgood : Config.unwrapDeviceRoot m = some key) :
    exec .slotUnwrapEnd s = .next (((s.onSlots fun u => { u with package := .opened h g p key }).setJob j
      (some { x with step := asked.waits.begun })).onCipher fun c =>
        { c with running := some ⟨asked.op j key, false⟩ }) := by
  obtain ⟨hx, hothers⟩ := hjob
  have hunwrap : s.coreEnded.unwrapped .package m = (s.coreEnded.setSlotState .package (.opened h g p key)).laneKeyOpen := by
    rw [State.unwrapped, show s.coreEnded.slotState .package = .unwrapping h g p m' from hslot]
    simp only [hgood]
  have hbegins : s.coreEnded.unwrapped .package m =
      ((s.onSlots fun u => { u with package := .opened h g p key }).setJob j
        (some { x with step := asked.waits.begun })).onCipher fun c =>
          { c with running := some ⟨asked.op j key, false⟩ } := by
    rw [hunwrap, laneKeyOpen_eq (s := s.coreEnded.setSlotState .package (.opened h g p key)) hlane hx hstep,
      requestCore_lane rfl (State.job_setJob_self _ _ _) rfl, setJob_setJob]
    rfl
  have hstill : State.Still (((s.onSlots fun u => { u with package := .opened h g p key }).setJob j
        (some { x with step := asked.waits.begun })).onCipher fun c =>
          { c with running := some ⟨asked.op j key, false⟩ }) := by
    refine still_of_waiting (fun i y hy => ?_) hwaiting
    rw [job_onCipher, State.job_setJob] at hy
    split at hy
    next => cases hy; cases asked <;> rfl
    next hi => exact absurd ((hothers i (Ne.symm hi)).symm.trans hy) nofun
  rw [exec_slotUnwrapEnd hcore, hbegins, settle_of_still hstill]

/-- P with bad material is EMPTY, and the lane job completes STORE_FAULT (R44, R52). -/
theorem package_unwrap_fails {s : State} {h : HandleNo} {g : Nat} {p : Policy} {m m' : List Byte} {j : JobId} {x : Job}
    (hcore : s.CoreEnds (.slotUnwrap .package m)) (hslot : s.slots.package = .unwrapping h g p m')
    (hlane : s.engine.lane = some j) (hlists : ∀ i, (s.slot i).list = []) (hjob : s.OnlyJob j x)
    (hbad : Config.unwrapDeviceRoot m = none) : ∃ t, exec .slotUnwrapEnd s = .next t ∧
      t.port = s.port.jobDone x .storeFault [] ∧ (∀ j', t.job j' = none) ∧ t.engine.lane = none ∧
      t.slots = { s.slots with package := .empty } ∧ t.cipher.running = none ∧ s.sameElsewhere t := by
  obtain ⟨hx, hothers⟩ := hjob
  have hx' : (s.coreEnded.setSlotState .package .empty).job j = some x := hx
  have hunwrap : s.coreEnded.unwrapped .package m =
      (s.coreEnded.setSlotState .package .empty).finishJob j .storeFault [] :=
    (unwrapped_of_bad (s := s.coreEnded) (i := .package) hslot hbad).trans
      (failOpening_eq (s := s.coreEnded) (i := .package) hlane .storeFault)
  have hfree : ∀ j', ((s.coreEnded.setSlotState .package .empty).finishJob j .storeFault []).job j' = none := fun j' => by
    rw [job_finishJob hx']
    split
    next => rfl
    next hj => exact hothers j' hj
  refine ⟨_, by rw [exec_slotUnwrapEnd hcore, hunwrap, settle_of_no_jobs hfree], finishJob_port hx' _ _, hfree, ?_,
    slots_ext (s := s.coreEnded.setSlotState .package .empty) (fun i => ?_)
      (slotState_finishJob hx' .storeFault [] .package), ?_,
    sameElsewhere_trans (sameElsewhere_trans (coreEnded_sameElsewhere s) (setSlotState_sameElsewhere _ _ _))
      (finishJob_sameElsewhere hx' _ _)⟩
  · rw [finishJob_engine hx']
    exact if_pos hlane
  · rw [slot_finishJob hx']
    refine Slot.without_of_not_mem ?_
    rw [show (s.coreEnded.setSlotState .package .empty).slot i = s.slot i from rfl, hlists i]
    exact List.not_mem_nil
  · rw [finishJob_cipher hx']
    rfl

/-- Settles O31: a host slot's unwrap by its material and the latches, that of P by its material. -/
theorem openingsEnd : Obligations.OpeningsEnd := by
  unfold Obligations.OpeningsEnd
  refine ⟨fun s i h g p m m' j x hcore hslot hlist hjob => ?_,
    fun s h g g' p m m' j x asked hcore hslot hlane hwaiting hlists hjob hstep => ?_⟩
  · have hexec := exec_slotUnwrapEnd hcore
    have hfront : (s.coreEnded.slot i).list.head? = some j := congrArg List.head? hlist
    have hcompletes := opening_completes (s := s.coreEnded) (i := i) rfl hjob
    cases hmaterial : Config.unwrapDeviceRoot m with
    | none =>
      obtain ⟨hsettle, hrunning, hfree, hsame, hidle, hstate, hport⟩ := hcompletes .empty .storeFault []
      rw [unwrapped_of_bad (s := s.coreEnded) (i := .host i) hslot hmaterial, failOpening_eq (i := .host i) hfront,
        hsettle] at hexec
      exact ⟨_, hexec, hrunning, hfree, sameElsewhere_trans (coreEnded_sameElsewhere s) hsame, hidle, hstate, hport⟩
    | some key =>
      have hlatch : (p.tamperLock = true ∧ s.coreEnded.anyLatch = true) ↔
          (p.tamperLock = true ∧ (s.tamper.cover.latched = true ∨ s.tamper.field.latched = true)) :=
        and_congr_right fun _ => Bool.or_eq_true_iff
      have hrole : roleCode (s.coreEnded.entry h).role = ((s.entry h).role.map Role.code).getD 0 := by
        rw [show s.coreEnded.entry h = s.entry h from rfl]
        cases (s.entry h).role <;> rfl
      rw [unwrapped_host (s := s.coreEnded) hslot hfront hmaterial] at hexec
      simp only [hlatch, hrole] at hexec
      by_cases hlocked : p.tamperLock = true ∧ (s.tamper.cover.latched = true ∨ s.tamper.field.latched = true)
      · obtain ⟨hsettle, hrunning, hfree, hsame, hidle, hstate, hport⟩ :=
          hcompletes (.closing s.coreEnded.time.milli) .tamperLock []
        rw [if_pos hlocked, hsettle] at hexec
        simp only [if_pos hlocked]
        exact ⟨_, hexec, hrunning, hfree, sameElsewhere_trans (coreEnded_sameElsewhere s) hsame, hidle, hstate, hport⟩
      · obtain ⟨hsettle, hrunning, hfree, hsame, hidle, hstate, hport⟩ :=
          hcompletes (.opened h g p key) .ok [g, ((s.entry h).role.map Role.code).getD 0]
        rw [if_neg hlocked, hsettle] at hexec
        simp only [if_neg hlocked]
        exact ⟨_, hexec, hrunning, hfree, sameElsewhere_trans (coreEnded_sameElsewhere s) hsame, hidle, hstate, hport⟩
  · cases hmaterial : Config.unwrapDeviceRoot m with
    | none => exact package_unwrap_fails hcore hslot hlane hlists hjob hmaterial
    | some key =>
      have hexec := package_unwrapped hcore hslot hlane hwaiting hjob hstep hmaterial
      cases asked <;> exact hexec

end Sys2Proof.Machine

/-!
PROOFS about an OPEN that is taken while the wipe of its slot goes on: it waits for the slot, whatever R42 says of it (R41,
R42, R48).
-/

namespace Sys2Proof.Machine

open Sys2Proof

/-- An OPEN that is taken alone against a CLOSING slot waits at the front of the slot's list (R40, R41). -/
theorem open_waits_for_wipe {s : State} {n : CardNo} {j : JobId} {since : Nat} (htake : s.Takes n j .openKey) (hno : s.NoJob)
    (hclosing : s.slotState (.host (s.snapshot n .openKey).slotNo) = .closing since) :
    exec .takeOpen s =
      .next (s.holding n j (s.snapshot n .openKey).slotNo (s.snapshot n .openKey)) := by
  obtain ⟨-, -, -, hstep, -⟩ := snapshot_fields s n .openKey
  have hwaits : (s.holding n j (s.snapshot n .openKey).slotNo (s.snapshot n .openKey)).internalStep = none := by
    rw [internalStep_of_onlyFront (onlyFront_holding n j _ _ hno hstep)]
    refine serveFront_eq_none fun _ _ _ _ _ => ?_
    rw [slot_holding, if_pos rfl, show (s.slot (s.snapshot n .openKey).slotNo).state = .closing since from hclosing]
    simp
  exact (exec_command_of_takes htake).trans
    (congrArg _ ((congrArg State.settle (joinSlot_taken n j _ hno)).trans (settle_of_internalStep_none hwaits)))

/-- A READY part without a key and without a job, whose slot 2 is CLOSING as an idle close leaves it; card 0 is POSTED with
an OPEN of handle 5 into slot 2. -/
def State.openAgainstWipe : State :=
  { State.cold .powerOn RowArray.factory [] 0 with
    resetCtl := ⟨.ready, .powerOn, false, false, true⟩
    port := { Port.cold with
      memory := [(1, 1), (3, 2), (4, 5)], cards := Port.cold.cards.set 0 .posted, arrival := [0] }
    slots := ⟨(Vector.replicate 4 ⟨.empty, 0, []⟩).set 2 ⟨.closing 0, 0, []⟩, .empty⟩ }

theorem openAgainstWipe_takes : State.openAgainstWipe.Takes 0 0 .openKey := by
  unfold State.Takes
  decide +kernel

theorem openAgainstWipe_noJob : State.openAgainstWipe.NoJob := by
  unfold State.NoJob
  decide +kernel

/-- Refutes O27. Its third part lets an OPEN that R42 refuses complete in the event of its take whatever its slot's state is,
so also against a CLOSING slot; there the OPEN waits until the wipe ends (R41), as the first part says. -/
theorem not_openAndCloseAreServedAtTheFront : ¬Obligations.OpenAndCloseAreServedAtTheFront := by
  unfold Obligations.OpenAndCloseAreServedAtTheFront
  rintro ⟨-, -, hopens, -⟩
  obtain ⟨hrefused, -⟩ := hopens State.openAgainstWipe 0 0 openAgainstWipe_takes openAgainstWipe_noJob
  obtain ⟨t, hexec, ⟨-, ⟨hfree, -⟩, -⟩, -⟩ := hrefused .noKey (by decide +kernel)
  have hclosing : State.openAgainstWipe.slotState (.host (State.openAgainstWipe.snapshot 0 .openKey).slotNo) = .closing 0 := by
    decide +kernel
  rw [open_waits_for_wipe openAgainstWipe_takes openAgainstWipe_noJob hclosing] at hexec
  have ht := Host.Outcome.next.inj hexec
  have hheld := hfree 0
  rw [← ht, job_holding_self] at hheld
  cases hheld

end Sys2Proof.Machine

/-!
PROOFS about the latches of the tamper monitor: the wipes of TAMPER_LOCK keys, the uses that they complete, and the ask for the
TAMPER mark (R51, R132, R151 to R153, R160).
-/

namespace Sys2Proof.Machine

open Sys2Proof

/-! ## The wipes of all slots -/

/-- What the turn of slot `n` makes of `P` holds once all four slots have had their turns, if the other turns keep both. -/
theorem foldl_allSlots_reaches {f : State → Fin 4 → State} {P Q : State → Prop} (n : Fin 4)
    (hbefore : ∀ u i, i ≠ n → P u → P (f u i)) (hturn : ∀ u, P u → Q (f u n)) (hafter : ∀ u i, i ≠ n → Q u → Q (f u i))
    {s : State} (hs : P s) : Q (allSlots.foldl f s) := by
  obtain ⟨l, r, he⟩ := List.append_of_mem ((by decide : ∀ n : Fin 4, n ∈ allSlots) n)
  have hnodup : (l ++ n :: r).Nodup := he ▸ (by decide : allSlots.Nodup)
  obtain ⟨hmem, -⟩ := List.nodup_cons.mp (List.nodup_middle.mp hnodup)
  obtain ⟨hl, hr⟩ := not_or.mp fun h => hmem (List.mem_append.mpr h)
  have keeps : ∀ (R : State → Prop) (k : List (Fin 4)), n ∉ k → (∀ u i, i ≠ n → R u → R (f u i)) →
      ∀ u, R u → R (k.foldl f u) := by
    intro R k hk hstep
    induction k with
    | nil => exact fun u hu => hu
    | cons i k ih =>
      obtain ⟨hi, hk⟩ := not_or.mp (fun h => hk (List.mem_cons.mpr h))
      exact fun u hu => ih hk (f u i) (hstep u i (Ne.symm hi) hu)
  rw [he, List.foldl_append, List.foldl_cons]
  exact keeps Q r hr hafter _ (hturn _ (keeps P l hl hbefore s hs))

/-- The jobs that the wipe of a latch completes are uses in hand of the slot's list (R51). -/
theorem mem_latchedJobs {s : State} {list : List JobId} {j : JobId} (h : j ∈ s.latchedJobs list) :
    j ∈ list ∧ ∃ x, s.job j = some x ∧ (x.kind = .sign ∨ x.kind = .check) := by
  have htaken : j ∈ list.takeWhile fun j => (s.job j).any fun x => x.kind = .sign || x.kind = .check := by
    unfold State.latchedJobs at h
    split at h
    next => cases h
    next e =>
      rw [e]
      split at h
      · exact h
      · exact List.mem_cons_of_mem _ h
  have huse := List.mem_takeWhile_imp htaken
  refine ⟨(List.takeWhile_sublist _).subset htaken, ?_⟩
  cases hx : s.job j with
  | none => simp [hx] at huse
  | some x => exact ⟨x, rfl, by simpa [hx] using huse⟩

section Uses

variable {s : State} {uses kept : List JobId}
  (huses : ∀ j ∈ uses, ∃ x, s.job j = some x ∧ (x.kind = .sign ∨ x.kind = .check))
  (hkept : ∀ j, kept.head? = some j → ¬∃ x, s.job j = some x ∧ (x.kind = .sign ∨ x.kind = .check))
include huses hkept

theorem takeWhile_uses :
    (uses ++ kept).takeWhile (fun j => (s.job j).any fun x => x.kind = .sign || x.kind = .check) = uses := by
  have hstop : kept.takeWhile (fun j => (s.job j).any fun x => x.kind = .sign || x.kind = .check) = [] := by
    cases kept with
    | nil => rfl
    | cons j kept =>
      have hno := hkept j rfl
      rw [List.takeWhile_cons_of_neg]
      cases hx : s.job j with
      | none => simp
      | some x => simpa [hx] using hno
  rw [List.takeWhile_append_of_pos, hstop, List.append_nil]
  intro j hj
  obtain ⟨x, hx, hk⟩ := huses j hj
  simpa [hx] using hk

/-- The uses in front of the first other job are completed, where the first of them still needs the key (R51). -/
theorem latchedJobs_of_needsKey (hneeds : ∀ j x, uses.head? = some j → s.job j = some x → x.step.needsKey = true) :
    s.latchedJobs (uses ++ kept) = uses := by
  rw [State.latchedJobs, takeWhile_uses huses hkept]
  cases uses with
  | nil => rfl
  | cons j uses =>
    obtain ⟨x, hx, -⟩ := huses j List.mem_cons_self
    exact if_pos (by rw [hx]; exact hneeds j x rfl hx)

/-- A front use that no longer needs the key keeps its place before the uses that are completed (R51). -/
theorem latchedJobs_of_front {f : JobId} {x : Job} (hx : s.job f = some x) (hkind : x.kind = .sign ∨ x.kind = .check)
    (hneeds : x.step.needsKey = false) : s.latchedJobs (f :: (uses ++ kept)) = uses := by
  have hfront : ∀ j ∈ f :: uses, ∃ x, s.job j = some x ∧ (x.kind = .sign ∨ x.kind = .check) :=
    List.forall_mem_cons.mpr ⟨⟨x, hx, hkind⟩, huses⟩
  rw [State.latchedJobs, ← List.cons_append, takeWhile_uses hfront hkept]
  exact if_neg (by rw [hx]; simp [hneeds])

end Uses

theorem latchWipe_of_locked {s : State} {i : Fin 4} {h : HandleNo} {g : Nat} {p : Policy} {k : List Byte}
    (hopen : (s.slot i).state = .opened h g p k) (hp : p.tamperLock = true) :
    s.latchWipe i = (s.latchedJobs (s.slot i).list).foldl (fun s j => s.finishUse j .tamperLock []) (s.wipe (.host i)) := by
  rw [State.latchWipe, hopen]
  exact if_pos hp

theorem latchWipe_of_not_locked {s : State} {i : Fin 4}
    (hno : ∀ h g p k, (s.slot i).state = .opened h g p k → p.tamperLock = false) : s.latchWipe i = s := by
  unfold State.latchWipe
  split
  next h g p k e => rw [hno h g p k e]; rfl
  next => rfl

/-- A slot of a latch without a use to complete is wiped or left (R51). -/
theorem latchWipe_of_no_hits {s : State} {i : Fin 4} (hhits : s.latchedJobs (s.slot i).list = []) :
    s.latchWipe i = s ∨ s.latchWipe i = s.wipe (.host i) := by
  by_cases hlocked : ∃ h g p k, (s.slot i).state = .opened h g p k ∧ p.tamperLock = true
  · obtain ⟨h, g, p, k, hopen, hp⟩ := hlocked
    exact .inr (by rw [latchWipe_of_locked hopen hp, hhits]; rfl)
  · refine .inl (latchWipe_of_not_locked fun h g p k hopen => ?_)
    exact Bool.eq_false_iff.mpr fun hp => hlocked ⟨h, g, p, k, hopen, hp⟩

/-- The turn of a slot without a use to complete changes that slot alone, and not its list. -/
theorem latchWipe_frame {s : State} {i : Fin 4} (hhits : s.latchedJobs (s.slot i).list = []) :
    s.latchWipe i = { s with slots := (s.latchWipe i).slots } ∧ (∀ m, i ≠ m → (s.latchWipe i).slot m = s.slot m) ∧
      ∀ m, ((s.latchWipe i).slot m).list = (s.slot m).list := by
  rcases latchWipe_of_no_hits hhits with e | e <;> rw [e]
  · exact ⟨rfl, fun _ _ => rfl, fun _ => rfl⟩
  · refine ⟨wipe_eq s _, fun m hm => by rw [slot_wipe, if_neg hm], fun m => ?_⟩
    rw [slot_wipe]
    split
    next hm => rw [Slot.wiped_list, hm]
    next => rfl

/-- After the host slots, at most P is wiped. -/
theorem latchWipes_frame (s : State) : s.latchWipes =
    { allSlots.foldl State.latchWipe s with
      slots := { (allSlots.foldl State.latchWipe s).slots with package := s.latchWipes.slots.package } } := by
  unfold State.latchWipes
  dsimp only
  split
  · split
    · rw [State.wipe]
      split <;> rfl
    · rfl
  · rfl

/-! ## The latch and its mark -/

theorem latchDue_iff (s : State) (i : TamperInput) : s.latchDue i = true ↔
    s.resetCtl.part = .ready ∧ (s.tamper.input i).setup.enabled = true ∧ (s.tamper.input i).latched = false ∧
      (s.tamper.input i).setup.debounce ≤ (s.tamper.input i).debounceCount := by
  simp [State.latchDue, and_assoc]

/-- Latch `i` set at TT, its mark at `m` (R151, R152). -/
def State.latchSet (s : State) (i : TamperInput) (m : MarkState) : State :=
  s.onTamper fun t => t.onInput i fun x => { x with latched := true, latchTime := s.time.tt, mark := m }

/-- The TAMPER mark of a latch is asked for, and ALERT.TAMPER is set (R153). -/
def State.latchTold (s : State) (i : TamperInput) : State := (s.askAppend (.tamper i)).raise alertTamper

theorem exec_tamperLatch {s : State} {i : TamperInput} (hdue : s.latchDue i = true) :
    exec (.tamperLatch i) s = .next (((s.latchSet i .waiting).latchWipes.latchTold i).settle) := by
  rw [exec, execTamperLatch, if_pos hdue]
  rfl

/-- The store once the TAMPER mark of input `i` is in its queue, behind the TAMPER marks at its front (R132). -/
def Store.tamperQueued (t : Store) (i : TamperInput) : Store :=
  { t with queue := t.queue.takeWhile (·.isTamper) ++ .tamper i :: t.queue.dropWhile (·.isTamper) }

/-- The ask for a TAMPER mark puts it behind the TAMPER marks at the queue's front (R132). -/
theorem askAppend_tamper {s : State} (i : TamperInput) (hf : s.store.fault = false) :
    s.askAppend (.tamper i) = { s with supply := s.wake.supply, store := s.store.tamperQueued i } := by
  have hjoin : joinQueue s.store.queue (.tamper i) =
      s.store.queue.takeWhile (·.isTamper) ++ .tamper i :: s.store.queue.dropWhile (·.isTamper) := by
    unfold joinQueue
    rw [if_pos (show QueuedAppend.isTamper (.tamper i) = true from rfl), List.append_assoc, List.singleton_append]
  rw [State.askAppend, wake_eq, Store.tamperQueued, ← hjoin]
  exact if_neg (show ¬s.store.fault = true by simp [hf])

/-- In FAULT the TAMPER mark is refused (R131, R153). -/
theorem askAppend_tamper_of_fault {s : State} (i : TamperInput) (hf : s.store.fault = true) :
    s.askAppend (.tamper i) = { s with
      supply := s.wake.supply, tamper := s.tamper.onInput i fun x => { x with mark := .none } } := by
  rw [State.askAppend, wake_eq]
  dsimp only
  rw [hf]
  rfl

/-- What the ask and the alert leave. -/
theorem latchTold_frame (s : State) (i : TamperInput) : s.latchTold i = { s with
    supply := s.wake.supply, store := (s.latchTold i).store, tamper := (s.latchTold i).tamper
    port := { s.port with alert := s.port.alert ||| alertTamper } } := by
  cases hf : s.store.fault with
  | false => rw [State.latchTold, askAppend_tamper i hf]; rfl
  | true => rw [State.latchTold, askAppend_tamper_of_fault i hf]; rfl

/-- What is read of jobs, slots and the port once a latch has set. -/
theorem latchTold_reads (s : State) (i : TamperInput) :
    (s.latchWipes.latchTold i).engine = (allSlots.foldl State.latchWipe s).engine ∧
    (∀ n, (s.latchWipes.latchTold i).slot n = (allSlots.foldl State.latchWipe s).slot n) ∧
    (s.latchWipes.latchTold i).port = { (allSlots.foldl State.latchWipe s).port with
      alert := (allSlots.foldl State.latchWipe s).port.alert ||| alertTamper } := by
  rw [latchTold_frame, latchWipes_frame]
  exact ⟨rfl, fun _ => rfl, rfl⟩

theorem wake_active (s : State) : s.wake.supply.activity = .active := by
  unfold State.wake
  split
  next => rfl
  next h =>
    cases hs : s.supply.activity with
    | active => rfl
    | standby => exact absurd hs h

/-! ## A latch without a job in hand -/

/-- A slot once a latch has set (R51). -/
def Slot.latched (u : Slot) (now : Nat) : Slot :=
  match u.state with
  | .opened h g p k =>
    if p.tamperLock then { u with state := .closing now, idle := 0 } else { u with state := .opened h g p k }
  | _ => u

theorem latchedJobs_of_no_jobs {s : State} (h : ∀ j, s.job j = none) (list : List JobId) : s.latchedJobs list = [] := by
  refine List.eq_nil_iff_forall_not_mem.mpr fun j hj => ?_
  obtain ⟨-, x, hx, -⟩ := mem_latchedJobs hj
  exact absurd ((h j).symm.trans hx) nofun

theorem slot_latchWipe_self {s : State} {i : Fin 4} (hhits : s.latchedJobs (s.slot i).list = []) :
    (s.latchWipe i).slot i = (s.slot i).latched s.time.milli := by
  unfold Slot.latched
  split
  next h g p k e =>
    cases hp : p.tamperLock with
    | true =>
      rw [latchWipe_of_locked e hp, hhits, List.foldl_nil, slot_wipe, if_pos rfl, Slot.wiped, e]
      rfl
    | false =>
      rw [latchWipe_of_not_locked fun h' g' p' k' e' => by cases e.symm.trans e'; exact hp, ← e]
      rfl
  next hno => rw [latchWipe_of_not_locked fun h g p k e => absurd e (hno h g p k)]

/-- Without a job in hand a latch changes the slots alone. -/
theorem latchWipes_of_no_jobs {s : State} (hfree : ∀ j, s.job j = none) :
    s.latchWipes = { s with slots := s.latchWipes.slots } ∧ ∀ n, s.latchWipes.slot n = (s.slot n).latched s.time.milli := by
  have hhits : ∀ u : State, u = { s with slots := u.slots } → ∀ i, u.latchedJobs (u.slot i).list = [] := fun u hu i =>
    latchedJobs_of_no_jobs (fun j => by rw [hu]; exact hfree j) _
  have hframe : ∀ (u : State) i, u = { s with slots := u.slots } → u.latchWipe i = { s with slots := (u.latchWipe i).slots } := by
    intro u i hu
    obtain ⟨hframe, -⟩ := latchWipe_frame (hhits u hu i)
    rw [hframe, hu]
  have hreach : ∀ n, allSlots.foldl State.latchWipe s = { s with slots := (allSlots.foldl State.latchWipe s).slots } ∧
      (allSlots.foldl State.latchWipe s).slot n = (s.slot n).latched s.time.milli := by
    intro n
    refine foldl_allSlots_reaches (P := fun u => u = { s with slots := u.slots } ∧ u.slot n = s.slot n)
      (Q := fun u => u = { s with slots := u.slots } ∧ u.slot n = (s.slot n).latched s.time.milli) n
      (fun u i hi hu => ?_) (fun u hu => ?_) (fun u i hi hu => ?_) ⟨rfl, rfl⟩ <;> obtain ⟨hu, hn⟩ := hu
    · obtain ⟨-, hothers, -⟩ := latchWipe_frame (hhits u hu i)
      exact ⟨hframe u i hu, (hothers n hi).trans hn⟩
    · refine ⟨hframe u n hu, ?_⟩
      rw [slot_latchWipe_self (hhits u hu n), hn, hu]
    · obtain ⟨-, hothers, -⟩ := latchWipe_frame (hhits u hu i)
      exact ⟨hframe u i hu, (hothers n hi).trans hn⟩
  have hwipes := latchWipes_frame s
  refine ⟨?_, fun n => ?_⟩
  · rw [hwipes, (hreach 0).1]
  · rw [hwipes]
    exact (hreach n).2

/-! ## A latch that completes the only use in hand -/

theorem finishUse_of_no_job {s : State} {j : JobId} (h : s.job j = none) (st : Status) (values : List Nat) :
    s.finishUse j st values = s := by rw [State.finishUse, h]

/-- The completion of a use, and again of it, is its completion. -/
theorem foldl_finishUse_same {s : State} {j : JobId} {x : Job} (hx : s.job j = some x) {l : List JobId} (hl : ∀ a ∈ l, a = j)
    (hne : l ≠ []) (st : Status) : l.foldl (fun s j => s.finishUse j st []) s = s.finishUse j st [] := by
  cases l with
  | nil => exact absurd rfl hne
  | cons a l =>
    obtain ⟨rfl, hl⟩ := List.forall_mem_cons.mp hl
    rw [List.foldl_cons]
    refine foldl_eq_self fun b hb => finishUse_of_no_job ?_ st []
    rw [hl b hb, job_finishUse hx, if_pos rfl]

/-- A slot that holds a TAMPER_LOCK key, or whose wipe began now. -/
def Slot.LockedOrWiped (u : Slot) (now : Nat) : Prop :=
  (∃ h g p k, u.state = .opened h g p k ∧ p.tamperLock = true) ∨ u.state = .closing now

theorem Slot.wiped_state {u : Slot} {now : Nat} (h : u.LockedOrWiped now) : (u.wiped now).state = .closing now := by
  rcases h with ⟨h, g, p, k, e, -⟩ | e <;> rw [Slot.wiped, e]
  exact e

theorem Slot.latched_state {u : Slot} {now : Nat} (h : u.LockedOrWiped now) : (u.latched now).state = .closing now := by
  rcases h with ⟨h, g, p, k, e, hp⟩ | e <;> rw [Slot.latched, e]
  · exact congrArg Slot.state (if_pos hp)
  · exact e

/-- A CLOSING slot stays so at the end of a use. -/
theorem Slot.afterUse_state {u : Slot} {since : Nat} (h : u.state = .closing since) (close : Bool) (now : Nat) :
    (u.afterUse close now).state = .closing since := by
  unfold Slot.afterUse Slot.wiped
  cases close <;> simp [h]

theorem Slot.afterUse_lockedOrWiped {u : Slot} {now : Nat} (h : u.LockedOrWiped now) (close : Bool) :
    (u.afterUse close now).LockedOrWiped now := by
  cases close with
  | false => exact h
  | true => exact .inr (Slot.wiped_state h)

/-- The use `x` that was the only job of `s` has completed TAMPER_LOCK, and slot `n` has its TAMPER_LOCK key yet or has
begun its wipe. -/
structure State.LatchEndsUse (s u : State) (n : Fin 4) (x : Job) : Prop where
  port : u.port = s.port.jobDone x .tamperLock []
  free : ∀ j, u.job j = none
  time : u.time = s.time
  slot : (u.slot n).LockedOrWiped s.time.milli

section LatchEndsUse

variable {s u : State} {n i : Fin 4} {j : JobId} {x : Job}

/-- The turn of a slot with the use in its list completes it. -/
theorem latchEndsUse_of_hit (hjob : u.OnlyJob j x) {h : HandleNo} {g : Nat} {p : Policy} {k : List Byte}
    (hopen : (u.slot i).state = .opened h g p k) (hp : p.tamperLock = true) (hhits : u.latchedJobs (u.slot i).list ≠ [])
    (hport : u.port = s.port) (htime : u.time = s.time) (hslot : (u.slot n).LockedOrWiped s.time.milli) :
    s.LatchEndsUse (u.latchWipe i) n x ∧ (i = n → ((u.latchWipe i).slot n).state = .closing s.time.milli) := by
  obtain ⟨hx, hothers⟩ := hjob
  have hframe := wipe_eq u (.host i)
  have hx' : (u.wipe (.host i)).job j = some x := by rw [hframe]; exact hx
  have htime' : (u.wipe (.host i)).time = s.time := by rw [hframe]; exact htime
  have hall : ∀ a ∈ u.latchedJobs (u.slot i).list, a = j := fun a ha => by
    obtain ⟨-, y, hy, -⟩ := mem_latchedJobs ha
    by_contra hne
    exact absurd ((hothers a hne).symm.trans hy) nofun
  have hwipe : u.latchWipe i = (u.wipe (.host i)).finishUse j .tamperLock [] :=
    (latchWipe_of_locked hopen hp).trans (foldl_finishUse_same hx' hall hhits _)
  obtain ⟨-, -, -, -, -, htime'', -⟩ := finishUse_sameElsewhere hx' .tamperLock []
  have hslot_t := slot_finishUse hx' .tamperLock [] n
  rw [htime', slot_wipe, htime] at hslot_t
  rw [hwipe]
  refine ⟨⟨?_, fun a => ?_, htime''.trans htime', ?_⟩, fun hi => ?_⟩
  · rw [finishUse_port hx', hframe]
    exact congrArg (Port.jobDone · x .tamperLock []) hport
  · rw [job_finishUse hx', hframe]
    split
    next => rfl
    next ha => exact hothers a ha
  · have hkept : ((if i = n then (u.slot i).wiped s.time.milli else u.slot n).without j).LockedOrWiped s.time.milli := by
      split
      next hi => subst hi; exact .inr (Slot.wiped_state hslot)
      next => exact hslot
    rw [hslot_t]
    split
    · exact Slot.afterUse_lockedOrWiped hkept _
    · exact hkept
  · subst hi
    have hclosing : (((u.slot i).wiped s.time.milli).without j).state = .closing s.time.milli := Slot.wiped_state hslot
    rw [hslot_t, if_pos rfl]
    split
    · exact Slot.afterUse_state hclosing _ _
    · exact hclosing

/-- Once the use has completed, the turn of a slot changes at most that slot, and its key is gone then. -/
theorem State.LatchEndsUse.turn (h : s.LatchEndsUse u n x) (i : Fin 4) : s.LatchEndsUse (u.latchWipe i) n x ∧
    ((u.latchWipe i).slot n).state = if i = n then .closing s.time.milli else (u.slot n).state := by
  obtain ⟨hport, hfree, htime, hslot⟩ := h
  have hhits := latchedJobs_of_no_jobs hfree (u.slot i).list
  obtain ⟨hframe, hothers, -⟩ := latchWipe_frame hhits
  have hport' : (u.latchWipe i).port = s.port.jobDone x .tamperLock [] := by rw [hframe]; exact hport
  have hfree' : ∀ a, (u.latchWipe i).job a = none := fun a => by rw [hframe]; exact hfree a
  have htime' : (u.latchWipe i).time = s.time := by rw [hframe]; exact htime
  by_cases hi : i = n
  · subst hi
    have hclosing : ((u.latchWipe i).slot i).state = .closing s.time.milli := by
      rw [slot_latchWipe_self hhits, htime]
      exact Slot.latched_state hslot
    exact ⟨⟨hport', hfree', htime', .inr hclosing⟩, by rw [if_pos rfl]; exact hclosing⟩
  · rw [if_neg hi, hothers n hi]
    exact ⟨⟨hport', hfree', htime', by rw [hothers n hi]; exact hslot⟩, rfl⟩

end LatchEndsUse

/-- A latch completes the use in front of a slot with a TAMPER_LOCK key, and wipes the slot (R51). -/
theorem latchWipes_end_use {s : State} {n : Fin 4} {h : HandleNo} {g : Nat} {p : Policy} {k : List Byte} {j : JobId} {x : Job}
    (hopen : (s.slot n).state = .opened h g p k) (hp : p.tamperLock = true) (hlist : (s.slot n).list = [j])
    (hjob : s.OnlyJob j x) (hkind : x.kind = .sign ∨ x.kind = .check) (hneeds : x.step.needsKey = true) :
    s.LatchEndsUse (allSlots.foldl State.latchWipe s) n x ∧
      ((allSlots.foldl State.latchWipe s).slot n).state = .closing s.time.milli := by
  obtain ⟨hx, hothers⟩ := id hjob
  have hlocked : (s.slot n).LockedOrWiped s.time.milli := .inl ⟨h, g, p, k, hopen, hp⟩
  have honly : ∀ {u : State}, (∀ a, u.job a = s.job a) → u.OnlyJob j x := fun hu =>
    ⟨(hu j).trans hx, fun a ha => (hu a).trans (hothers a ha)⟩
  refine foldl_allSlots_reaches
    (P := fun u => (u.port = s.port ∧ (∀ a, u.job a = s.job a) ∧ u.time = s.time ∧ u.slot n = s.slot n) ∨
      s.LatchEndsUse u n x)
    (Q := fun u => s.LatchEndsUse u n x ∧ (u.slot n).state = .closing s.time.milli) n
    (fun u i hi hu => ?_) (fun u hu => ?_) (fun u i hi hu => ?_) (.inl ⟨rfl, fun _ => rfl, rfl, rfl⟩)
  · rcases hu with ⟨hport, hjobs, htime, hslot⟩ | hu
    · by_cases hhits : u.latchedJobs (u.slot i).list = []
      · obtain ⟨hframe, hkept, -⟩ := latchWipe_frame hhits
        exact .inl ⟨by rw [hframe]; exact hport, fun a => by rw [hframe]; exact hjobs a, by rw [hframe]; exact htime,
          (hkept n hi).trans hslot⟩
      · by_cases hopen' : ∃ h g p k, (u.slot i).state = .opened h g p k ∧ p.tamperLock = true
        · obtain ⟨h', g', p', k', hopen', hp'⟩ := hopen'
          obtain ⟨hends, -⟩ := latchEndsUse_of_hit (n := n) (honly hjobs) hopen' hp' hhits hport htime
            (by rw [hslot]; exact hlocked)
          exact .inr hends
        · rw [latchWipe_of_not_locked fun h' g' p' k' e => Bool.eq_false_iff.mpr fun hp' => hopen' ⟨h', g', p', k', e, hp'⟩]
          exact .inl ⟨hport, hjobs, htime, hslot⟩
    · obtain ⟨hends, -⟩ := hu.turn i
      exact .inr hends
  · rcases hu with ⟨hport, hjobs, htime, hslot⟩ | hu
    · have hhits : u.latchedJobs (u.slot n).list = [j] := by
        have hfirst : u.job j = some x := (hjobs j).trans hx
        rw [hslot, hlist]
        refine latchedJobs_of_needsKey (uses := [j]) (kept := []) (fun a ha => ?_) nofun fun a y ha hy => ?_
        · rw [List.mem_singleton.mp ha]
          exact ⟨x, hfirst, hkind⟩
        · cases ha
          cases hfirst.symm.trans hy
          exact hneeds
      obtain ⟨hends, hclosing⟩ := latchEndsUse_of_hit (n := n) (honly hjobs) (by rw [hslot]; exact hopen) hp
        (by rw [hhits]; simp) hport htime (by rw [hslot]; exact hlocked)
      exact ⟨hends, hclosing rfl⟩
    · obtain ⟨hends, hstate⟩ := hu.turn n
      exact ⟨hends, hstate.trans (if_pos rfl)⟩
  · obtain ⟨hu, hclosing⟩ := hu
    obtain ⟨hends, hstate⟩ := hu.turn i
    exact ⟨hends, hstate.trans ((if_neg hi).trans hclosing)⟩

/-! ## The obligation -/

theorem isTamper_iff (q : QueuedAppend) : q.isTamper = true ↔ ∃ n, q = .tamper n := by
  cases q <;> simp [QueuedAppend.isTamper]

/-- Settles O57: the latch that is not due, the one without a job in hand, and the one that completes a use. -/
theorem tamperLatchesSet : Obligations.TamperLatchesSet := by
  unfold Obligations.TamperLatchesSet
  intro s i y due latched
  refine ⟨fun hnot => ?_, fun hdue hfree => ?_, fun n h g p k j x hdue hopen hp hlist hjob hkind hneeds => ?_⟩
  · rw [exec, execTamperLatch, if_neg (fun e => hnot ((latchDue_iff s i).mp e))]
  · have hfree' : ∀ j, (s.latchSet i .waiting).job j = none := hfree
    obtain ⟨hwipes, hslots⟩ := latchWipes_of_no_jobs hfree'
    have htold := latchTold_frame (s.latchSet i .waiting).latchWipes i
    have hjobs : ∀ j, ((s.latchSet i .waiting).latchWipes.latchTold i).job j = none := fun j => by
      rw [htold, hwipes]
      exact hfree j
    refine ⟨_, by rw [exec_tamperLatch ((latchDue_iff s i).mpr hdue), settle_of_no_jobs hjobs], fun n => ?_, ?_, ?_, ?_, ?_,
      fun hf => ?_, fun hf => ?_⟩
    · rw [htold]
      exact hslots n
    · rw [htold, hwipes]
      rfl
    · rw [htold]
      exact wake_active _
    · rw [htold, hwipes]
      rfl
    · rw [htold, hwipes]
      rfl
    · have hf' : (s.latchSet i .waiting).latchWipes.store.fault = false := by rw [hwipes]; exact hf
      have hq : (s.latchSet i .waiting).latchWipes.store = s.store := by rw [hwipes]; rfl
      rw [State.latchTold, askAppend_tamper i hf']
      refine ⟨by rw [hwipes]; rfl, s.store.queue.takeWhile (·.isTamper), s.store.queue.dropWhile (·.isTamper),
        List.takeWhile_append_dropWhile.symm, fun q hq => ?_, fun n hn => ?_, ?_⟩
      · exact (isTamper_iff q).mp (List.mem_takeWhile_imp hq)
      · have hno := List.head?_dropWhile_not (fun q : QueuedAppend => q.isTamper) s.store.queue
        rw [hn] at hno
        exact absurd hno (by simp [QueuedAppend.isTamper])
      · exact congrArg (Store.tamperQueued · i) hq
    · have hf' : (s.latchSet i .waiting).latchWipes.store.fault = true := by rw [hwipes]; exact hf
      rw [State.latchTold, askAppend_tamper_of_fault i hf']
      refine ⟨?_, by rw [hwipes]; rfl⟩
      rw [hwipes]
      cases i <;> rfl
  · obtain ⟨⟨hport, hfree, -, -⟩, hclosing⟩ := latchWipes_end_use (s := s.latchSet i .waiting) hopen hp hlist hjob hkind hneeds
    obtain ⟨hengine, hslots, hport'⟩ := latchTold_reads (s.latchSet i .waiting) i
    have hjobs : ∀ j, ((s.latchSet i .waiting).latchWipes.latchTold i).job j = none := fun j =>
      (State.job_congr hengine j).trans (hfree j)
    refine ⟨_, by rw [exec_tamperLatch ((latchDue_iff s i).mpr hdue), settle_of_no_jobs hjobs], hjobs, ?_, ?_⟩
    · rw [hslots]
      exact hclosing
    · rw [hport', hport]
      rfl

end Sys2Proof.Machine

/-!
PROOFS about the uses that a wipe from outside completes: at a tamper latch the uses of a slot in list order, at a durable REVOKE
the use or the opening in front (R48, R50, R51).
-/

namespace Sys2Proof.Machine

open Sys2Proof

/-! ## The completion of several uses -/

/-- From `v` to `u` the uses `l` have completed with status `st`, in the order of the list. -/
structure State.UsesEnd (v u : State) (st : Status) (l : List JobId) : Prop where
  port : u.port = l.foldl (fun q j => match v.job j with
    | some x => q.jobDone x st []
    | none => q) v.port
  jobs : ∀ i, u.job i = if i ∈ l then none else v.job i
  lane : v.engine.lane = none → u.engine.lane = none
  waiting : v.engine.laneWaiting = [] → u.engine.laneWaiting = []
  lists : ∀ i, (v.slot i).list = [] → (u.slot i).list = []
  closing : ∀ i since list, v.slot i = ⟨.closing since, 0, list⟩ → u.slot i = ⟨.closing since, 0, list.filter (· ∉ l)⟩

/-- A CLOSING slot at the end of a use. -/
theorem slot_finishUse_of_closing {s : State} {j : JobId} {x : Job} (hx : s.job j = some x) (st : Status) {i : Fin 4}
    {since : Nat} {list : List JobId} (hslot : s.slot i = ⟨.closing since, 0, list⟩) :
    (s.finishUse j st []).slot i = ⟨.closing since, 0, list.filter (· != j)⟩ := by
  rw [slot_finishUse hx, hslot]
  split
  · unfold Slot.afterUse
    split <;> rfl
  · rfl

theorem slot_finishUse_list {s : State} {j : JobId} {x : Job} (hx : s.job j = some x) (st : Status) (i : Fin 4) :
    ((s.finishUse j st []).slot i).list = (s.slot i).list.filter (· != j) := by
  rw [slot_finishUse hx]
  split
  · rw [Slot.afterUse_list]
    rfl
  · rfl

theorem usesEnd {st : Status} {l : List JobId} (hnodup : l.Nodup) {v : State} (hin : ∀ j ∈ l, ∃ x, v.job j = some x) :
    v.UsesEnd (l.foldl (fun s j => s.finishUse j st []) v) st l := by
  induction l generalizing v with
  | nil =>
    refine ⟨rfl, fun i => rfl, id, id, fun i => id, fun i since list h => ?_⟩
    simpa using h
  | cons j l ih =>
    obtain ⟨hj, hnodup⟩ := List.nodup_cons.mp hnodup
    obtain ⟨⟨x, hx⟩, hin⟩ := List.forall_mem_cons.mp hin
    have hjobs : ∀ a ∈ l, (v.finishUse j st []).job a = v.job a := fun a ha => by
      rw [job_finishUse hx, if_neg (show a ≠ j from fun e => hj (e ▸ ha))]
    obtain ⟨hport, hjob, hlane, hwaiting, hlists, hclosing⟩ :=
      ih hnodup (v := v.finishUse j st []) fun a ha => by rw [hjobs a ha]; exact hin a ha
    refine ⟨?_, fun i => ?_, fun h => hlane ?_, fun h => hwaiting ?_, fun i h => hlists i ?_, fun i since list h => ?_⟩
    · rw [List.foldl_cons, hport, List.foldl_cons, hx, finishUse_port hx]
      exact List.foldl_ext _ _ _ fun q a ha => by rw [hjobs a ha]
    · rw [List.foldl_cons, hjob, job_finishUse hx]
      by_cases hi : i = j
      · simp [hi]
      · simp [hi]
    · rw [finishUse_engine hx]
      simp [Engine.without, h]
    · rw [finishUse_engine hx]
      simp [Engine.without, h]
    · rw [slot_finishUse_list hx, h]
      rfl
    · have hlist : (list.filter (· != j)).filter (· ∉ l) = list.filter (· ∉ j :: l) := by
        rw [List.filter_filter]
        refine List.filter_congr fun a _ => ?_
        by_cases ha : a = j <;> simp [ha]
      rw [List.foldl_cons, hclosing i since _ (slot_finishUse_of_closing hx st h), hlist]

/-! ## The uses that a latch completes -/

/-- The uses `uses` of slot `n` have completed TAMPER_LOCK, in the order of the list, the slot is CLOSING, and the jobs `kept` keep
their places. -/
structure State.LatchEndsUses (s u : State) (n : Fin 4) (uses kept : List JobId) : Prop where
  port : u.port = uses.foldl (fun q j => match s.job j with
    | some x => q.jobDone x .tamperLock []
    | none => q) s.port
  jobs : ∀ j, u.job j = if j ∈ uses then none else s.job j
  lane : u.engine.lane = none
  waiting : u.engine.laneWaiting = []
  slot : u.slot n = ⟨.closing s.time.milli, 0, kept⟩
  others : ∀ k, k ≠ n → (u.slot k).list = []

/-- The turns of the four slots complete the uses of slot `n`, whose list is the only one with jobs (R51). -/
theorem latchWipes_end_uses {s : State} {n : Fin 4} {h : HandleNo} {g : Nat} {p : Policy} {m : List Byte}
    {front uses kept : List JobId} (hopen : (s.slot n).state = .opened h g p m) (hp : p.tamperLock = true)
    (hlist : (s.slot n).list = front ++ (uses ++ kept)) (hnodup : (front ++ (uses ++ kept)).Nodup)
    (hothers : ∀ k, k ≠ n → (s.slot k).list = []) (hlane : s.engine.lane = none) (hwaiting : s.engine.laneWaiting = [])
    (huses : ∀ j ∈ uses, ∃ x, s.job j = some x) (hhits : s.latchedJobs (s.slot n).list = uses) :
    s.LatchEndsUses (allSlots.foldl State.latchWipe s) n uses (front ++ kept) := by
  have hkept : (front ++ (uses ++ kept)).filter (· ∉ uses) = front ++ kept := by
    obtain ⟨-, hnodup', hdisjoint⟩ := List.nodup_append.mp hnodup
    obtain ⟨-, -, hdisjoint'⟩ := List.nodup_append.mp hnodup'
    have hfront : front.filter (· ∉ uses) = front := List.filter_eq_self.mpr fun a ha => by
      simpa using fun hb => hdisjoint a ha a (List.mem_append_left _ hb) rfl
    have hself : uses.filter (· ∉ uses) = [] := List.filter_eq_nil_iff.mpr fun a ha => by simpa using ha
    have hbehind : kept.filter (· ∉ uses) = kept := List.filter_eq_self.mpr fun a ha => by
      simpa using fun hb => hdisjoint' a hb a ha rfl
    rw [List.filter_append, List.filter_append, hfront, hself, hbehind, List.nil_append]
  refine foldl_allSlots_reaches (P := fun u => u.engine = s.engine ∧ u.port = s.port ∧ u.time = s.time ∧
      u.slot n = s.slot n ∧ ∀ k, k ≠ n → (u.slot k).list = [])
    (Q := fun u => s.LatchEndsUses u n uses (front ++ kept)) n
    (fun u i hi hu => ?_) (fun u hu => ?_) (fun u i hi hu => ?_) ⟨rfl, rfl, rfl, rfl, hothers⟩
  · obtain ⟨hengine, hport, htime, hslot, hlists⟩ := hu
    obtain ⟨hframe, hsame, hlists'⟩ := latchWipe_frame (s := u) (i := i) (by rw [hlists i hi]; rfl)
    refine ⟨?_, ?_, ?_, (hsame n hi).trans hslot, fun k hk => (hlists' k).trans (hlists k hk)⟩ <;> rw [hframe]
    · exact hengine
    · exact hport
    · exact htime
  · obtain ⟨hengine, hport, htime, hslot, hlists⟩ := hu
    have hframe := wipe_eq u (.host n)
    have hjobs : ∀ j, (u.wipe (.host n)).job j = s.job j := fun j => by rw [hframe]; exact State.job_congr hengine j
    have hwiped : (u.wipe (.host n)).slot n = ⟨.closing s.time.milli, 0, front ++ (uses ++ kept)⟩ := by
      rw [slot_wipe, if_pos rfl, hslot, htime, Slot.wiped, hopen, ← hlist]
    have hhits' : u.latchedJobs (u.slot n).list = uses := by
      rw [hslot, ← hhits]
      unfold State.latchedJobs
      simp only [State.job_congr hengine]
    obtain ⟨-, hnodup', -⟩ := List.nodup_append.mp hnodup
    obtain ⟨hnodup'', -, -⟩ := List.nodup_append.mp hnodup'
    obtain ⟨hport', hjobs', hlane', hwaiting', hlists', hclosing⟩ := usesEnd (st := .tamperLock) hnodup''
      (v := u.wipe (.host n)) fun j hj => by rw [hjobs]; exact huses j hj
    rw [latchWipe_of_locked (by rw [hslot]; exact hopen) hp, hhits']
    refine ⟨?_, fun j => ?_, hlane' ?_, hwaiting' ?_, ?_, fun k hk => hlists' k ?_⟩
    · simp only [hport', hjobs]
      rw [hframe]
      exact congrArg (List.foldl _ · uses) hport
    · rw [hjobs', hjobs]
    · rw [hframe]
      exact (congrArg Engine.lane hengine).trans hlane
    · rw [hframe]
      exact (congrArg Engine.laneWaiting hengine).trans hwaiting
    · rw [hclosing n _ _ hwiped, hkept]
    · rw [slot_wipe, if_neg (Ne.symm hk)]
      exact hlists k hk
  · obtain ⟨hport, hjobs, hlane', hwaiting', hslot, hlists⟩ := hu
    obtain ⟨hframe, hsame, hlists'⟩ := latchWipe_frame (s := u) (i := i) (by rw [hlists i hi]; rfl)
    refine ⟨?_, fun j => ?_, ?_, ?_, (hsame n hi).trans hslot, fun k hk => (hlists' k).trans (hlists k hk)⟩ <;> rw [hframe]
    · exact hport
    · exact hjobs j
    · exact hlane'
    · exact hwaiting'

/-- R51: at a tamper latch the uses before the first OPEN or CLOSE complete TAMPER_LOCK, and the other jobs keep their places. -/
theorem latch_completes_uses {s : State} {i : TamperInput} {n : Fin 4} {h : HandleNo} {g : Nat} {p : Policy} {m : List Byte}
    {front uses kept : List JobId} (hdue : s.latchDue i = true) (hopen : (s.slot n).state = .opened h g p m)
    (hp : p.tamperLock = true) (hlist : (s.slot n).list = front ++ (uses ++ kept)) (hnodup : (s.slot n).list.Nodup)
    (hothers : ∀ k, k ≠ n → (s.slot k).list = []) (hlane : s.engine.lane = none) (hwaiting : s.engine.laneWaiting = [])
    (huses : ∀ j ∈ uses, ∃ x, s.job j = some x) (hhits : s.latchedJobs (s.slot n).list = uses)
    (hsteps : ∀ j x, j ∉ uses → s.job j = some x → x.step = .slotQueue ∨ x.step = .confirmStore) :
    ∃ t u, exec (.tamperLatch i) s = .next t ∧ s.LatchEndsUses u n uses (front ++ kept) ∧ (∀ j, t.job j = u.job j) ∧
      (∀ k, t.slot k = u.slot k) ∧ t.port = { u.port with alert := u.port.alert ||| alertTamper } := by
  have hends : s.LatchEndsUses (allSlots.foldl State.latchWipe (s.latchSet i .waiting)) n uses (front ++ kept) := by
    obtain ⟨h1, h2, h3, h4, h5, h6⟩ := latchWipes_end_uses (s := s.latchSet i .waiting) hopen hp hlist (hlist ▸ hnodup) hothers
      hlane hwaiting huses hhits
    exact ⟨h1, h2, h3, h4, h5, h6⟩
  obtain ⟨hengine, hslots, hport⟩ := latchTold_reads (s.latchSet i .waiting) i
  have hjobs := State.job_congr hengine
  have honly : ((s.latchSet i .waiting).latchWipes.latchTold i).OnlyFront n := by
    refine ⟨fun j x hx => ?_, by rw [hengine]; exact hends.waiting, fun j x hj => ?_, fun k hk => ?_⟩
    · rw [hjobs, hends.jobs] at hx
      split at hx
      next => cases hx
      next hj => rcases hsteps j x hj hx with e | e <;> simp [e]
    · rw [hengine, hends.lane] at hj
      cases hj
    · rw [hslots]
      exact hends.others k hk
  have hwaits : ((s.latchSet i .waiting).latchWipes.latchTold i).internalStep = none := by
    rw [internalStep_of_onlyFront honly]
    refine serveFront_eq_none fun _ _ _ _ _ => ?_
    rw [hslots, hends.slot]
    simp
  exact ⟨_, _, by rw [exec_tamperLatch hdue, settle_of_internalStep_none hwaits], hends, hjobs, hslots, hport⟩

end Sys2Proof.Machine

/-!
PROOFS about a durable REVOKE: the wipes and the ended openings of its handle, and the completions in its event (R48, R50, R105).
-/

namespace Sys2Proof.Machine

open Sys2Proof

/-! ## The turns of the slots -/

/-- An opening of slot `i` that a REVOKE ends: its request and its unwrap leave the core, and the slot is EMPTY (R50). -/
def State.openingDropped (s : State) (i : Fin 4) : State :=
  (s.onCipher fun c => c.dropSlot (.host i)).setSlotState (.host i) .empty

theorem slot_openingDropped (s : State) (i m : Fin 4) :
    (s.openingDropped i).slot m = if i = m then ⟨.empty, 0, (s.slot i).list⟩ else s.slot m := slot_setSlotState _ i m _

/-- Where no job waits for a slot, its turn wipes it, ends its opening, or leaves it (R50). -/
theorem revokeWipe_of_no_job {s : State} {i : Fin 4} (h : HandleNo) (hlist : (s.slot i).list = []) :
    s.revokeWipe h i = s ∨ s.revokeWipe h i = s.wipe (.host i) ∨ s.revokeWipe h i = s.openingDropped i := by
  have hwipe : (s.wipe (.host i)).failFrontUse i .noKey = s.wipe (.host i) := by
    have hnone : ((s.wipe (.host i)).slot i).list.head? = none := by
      rw [slot_wipe, if_pos rfl, Slot.wiped_list, hlist]
      rfl
    rw [State.failFrontUse, hnone]
  have hends : (s.onCipher fun c => c.dropSlot (.host i)).failOpening (.host i) .noKey = s.openingDropped i := by
    have hnone : ((s.openingDropped i).slot i).list.head? = none := by
      rw [slot_openingDropped, if_pos rfl]
      exact congrArg List.head? hlist
    unfold State.openingDropped at hnone
    rw [State.failOpening, State.servedBy, hnone]
    rfl
  unfold State.revokeWipe
  rw [hwipe, hends]
  cases (s.slot i).state with
  | empty => exact .inl rfl
  | closing => exact .inl rfl
  | opened x g p k => exact (ite_eq_or_eq (x = h) _ _).elim (fun e => .inr (.inl e)) .inl
  | reading x g l => exact (ite_eq_or_eq (x = h) _ _).elim (fun e => .inr (.inr e)) .inl
  | unwrapping x g p k => exact (ite_eq_or_eq (x = h) _ _).elim (fun e => .inr (.inr e)) .inl

/-- The turn of a slot with no job in its list changes that slot, not its list, and at most takes its opening from the core. -/
theorem revokeWipe_frame {s : State} {i : Fin 4} (h : HandleNo) (hlist : (s.slot i).list = []) :
    s.revokeWipe h i = { s with slots := (s.revokeWipe h i).slots, cipher := (s.revokeWipe h i).cipher } ∧
      (∀ m, i ≠ m → (s.revokeWipe h i).slot m = s.slot m) ∧ (∀ m, ((s.revokeWipe h i).slot m).list = (s.slot m).list) ∧
      ((s.revokeWipe h i).cipher = s.cipher ∨ (s.revokeWipe h i).cipher = s.cipher.dropSlot (.host i)) := by
  rcases revokeWipe_of_no_job h hlist with e | e | e <;> rw [e]
  · exact ⟨rfl, fun _ _ => rfl, fun _ => rfl, .inl rfl⟩
  · have hframe := wipe_eq s (.host i)
    refine ⟨by rw [hframe], fun m hm => by rw [slot_wipe, if_neg hm], fun m => ?_, .inl (by rw [hframe])⟩
    rw [slot_wipe]
    split
    next hm => rw [Slot.wiped_list, hm]
    next => rfl
  · refine ⟨rfl, fun m hm => by rw [slot_openingDropped, if_neg hm], fun m => ?_, .inr rfl⟩
    rw [slot_openingDropped]
    split
    next hm => rw [hm]
    next => rfl

/-- The front use of a slot with a key of the handle completes NO_KEY, and the slot is wiped (R48, R50). -/
theorem revokeWipe_use {s : State} {n : Fin 4} {h : HandleNo} {g : Nat} {p : Policy} {k : List Byte} {j : JobId} {y : Job}
    (hopen : (s.slot n).state = .opened h g p k) (hlist : (s.slot n).list = [j]) (hy : s.job j = some y)
    (hkind : y.kind = .sign ∨ y.kind = .check) (hneeds : y.step.needsKey = true) :
    s.revokeWipe h n = (s.wipe (.host n)).finishUse j .noKey [] := by
  have hfront : ((s.wipe (.host n)).slot n).list.head? = some j := by
    rw [slot_wipe, if_pos rfl, Slot.wiped_list, hlist]
    rfl
  have hjob : (s.wipe (.host n)).job j = some y := by
    rw [wipe_eq]
    exact hy
  unfold State.revokeWipe
  rw [hopen]
  simp only [State.failFrontUse, hfront, hjob]
  rw [if_pos trivial, if_pos ⟨hkind, hneeds⟩]

/-- An opening of the handle ends, and its job completes NO_KEY (R50). -/
theorem revokeWipe_opening {s : State} {n : Fin 4} {h : HandleNo} {g : Nat} {j : JobId}
    (hopening : (∃ l, (s.slot n).state = .reading h g l) ∨ ∃ p m, (s.slot n).state = .unwrapping h g p m)
    (hlist : (s.slot n).list = [j]) : s.revokeWipe h n = (s.openingDropped n).finishJob j .noKey [] := by
  have hfront : (s.onCipher fun c => c.dropSlot (.host n)).servedBy (.host n) = some j := congrArg List.head? hlist
  have hfail := failOpening_eq hfront .noKey
  unfold State.revokeWipe
  rcases hopening with ⟨l, e⟩ | ⟨p, m, e⟩ <;> rw [e] <;> exact (if_pos rfl).trans hfail

/-! ## The unwrap of an ended opening -/

/-- In `c` the opening of slot `n` has ended, whose unwrap of `m` was perhaps in flight in `c₀`: its request is gone, and its
result will be discarded (R50). -/
def Cipher.OpeningEnded (c₀ c : Cipher) (n : Fin 4) (m : List Byte) : Prop :=
  .slotUnwrap (.host n) ∉ c.waiting ∧
    ∀ r, c₀.running = some r → r.op = .slotUnwrap (.host n) m → c.running = some { r with discarded := true }

/-- In `c` the unwrap of `m` for slot `n` goes on, if it was in flight in `c₀`. -/
def Cipher.UnwrapRuns (c₀ c : Cipher) (n : Fin 4) (m : List Byte) : Prop :=
  ∀ r, c₀.running = some r → r.op = .slotUnwrap (.host n) m → c.running = some r

section Unwrap

variable {c₀ c : Cipher} {n i : Fin 4} {m : List Byte}

theorem Cipher.UnwrapRuns.dropSlot (h : Cipher.UnwrapRuns c₀ c n m) (hi : i ≠ n) :
    Cipher.UnwrapRuns c₀ (c.dropSlot (.host i)) n m := by
  intro r hr hop
  have hne : (SlotId.host n : SlotId) ≠ .host i := fun e => hi (SlotId.host.inj e).symm
  simp [Cipher.dropSlot, h r hr hop, hop, hne]

theorem Cipher.UnwrapRuns.ends (h : Cipher.UnwrapRuns c₀ c n m) : Cipher.OpeningEnded c₀ (c.dropSlot (.host n)) n m := by
  refine ⟨by simp [Cipher.dropSlot], fun r hr hop => ?_⟩
  simp [Cipher.dropSlot, h r hr hop, hop]

theorem Cipher.OpeningEnded.dropSlot (h : Cipher.OpeningEnded c₀ c n m) (i : Fin 4) :
    Cipher.OpeningEnded c₀ (c.dropSlot (.host i)) n m := by
  obtain ⟨hwaiting, hruns⟩ := h
  refine ⟨fun hm => hwaiting (List.mem_of_mem_filter hm), fun r hr hop => ?_⟩
  simp [Cipher.dropSlot, hruns r hr hop, hop]

theorem Cipher.OpeningEnded.dropJob (h : Cipher.OpeningEnded c₀ c n m) (j : JobId) :
    Cipher.OpeningEnded c₀ (c.dropJob j) n m := by
  obtain ⟨hwaiting, hruns⟩ := h
  refine ⟨fun hm => hwaiting (List.mem_of_mem_filter hm), fun r hr hop => ?_⟩
  simp [Cipher.dropJob, hruns r hr hop, hop, CoreOp.byJob]

end Unwrap

/-! ## All slots -/

/-- The turns of the other slots leave slot `n`, its job and its unwrap. -/
structure State.RevokeLeaves (s u : State) (n : Fin 4) (m : List Byte) : Prop where
  engine : u.engine = s.engine
  port : u.port = s.port
  store : u.store = s.store
  time : u.time = s.time
  slot : u.slot n = s.slot n
  others : ∀ k, k ≠ n → (u.slot k).list = []
  unwrap : Cipher.UnwrapRuns s.cipher u.cipher n m

/-- The job `y` of slot `n`'s front has completed NO_KEY, and the slot stands as `final`. -/
structure State.RevokeEnds (s u : State) (n : Fin 4) (j : JobId) (y : Job) (final : Slot) : Prop where
  port : u.port = s.port.jobDone y .noKey []
  jobs : ∀ i, u.job i = if i = j then none else s.job i
  store : u.store = s.store
  slot : u.slot n = final
  others : ∀ k, k ≠ n → (u.slot k).list = []

section Turn

variable {s u : State} {n : Fin 4} {m : List Byte} {h : HandleNo} {j : JobId} {y : Job} (hu : s.RevokeLeaves u n m)
include hu

/-- The turn of slot `n` whose front use needs its key. -/
theorem State.RevokeLeaves.use {g : Nat} {p : Policy} {k : List Byte} (hopen : (s.slot n).state = .opened h g p k)
    (hlist : (s.slot n).list = [j]) (hy : s.job j = some y) (hkind : y.kind = .sign ∨ y.kind = .check)
    (hneeds : y.step.needsKey = true) : s.RevokeEnds (u.revokeWipe h n) n j y ⟨.closing s.time.milli, 0, []⟩ := by
  obtain ⟨hengine, hport, hstore, htime, hslot, hothers, -⟩ := hu
  have hjobs := State.job_congr hengine
  have hframe := wipe_eq u (.host n)
  have hy' : (u.wipe (.host n)).job j = some y := by
    rw [hframe]
    exact (hjobs j).trans hy
  have hwiped : (u.wipe (.host n)).slot n = ⟨.closing s.time.milli, 0, [j]⟩ := by
    rw [slot_wipe, if_pos rfl, hslot, htime, Slot.wiped, hopen, ← hlist]
  obtain ⟨-, -, -, -, hstore', -⟩ := finishUse_sameElsewhere hy' .noKey []
  rw [revokeWipe_use (by rw [hslot]; exact hopen) (by rw [hslot]; exact hlist) ((hjobs j).trans hy) hkind hneeds]
  refine ⟨?_, fun i => ?_, ?_, ?_, fun k hk => ?_⟩
  · rw [finishUse_port hy', hframe]
    exact congrArg (Port.jobDone · y .noKey []) hport
  · rw [job_finishUse hy', hframe]
    exact ite_congr rfl (fun _ => rfl) fun _ => hjobs i
  · rw [hstore', hframe]
    exact hstore
  · rw [slot_finishUse_of_closing hy' .noKey hwiped]
    simp
  · rw [slot_finishUse_list hy', slot_wipe, if_neg (Ne.symm hk), hothers k hk]
    rfl

/-- The turn of slot `n` whose opening is under way. -/
theorem State.RevokeLeaves.opening {g : Nat}
    (hopening : (∃ l, (s.slot n).state = .reading h g l) ∨ ∃ p k, (s.slot n).state = .unwrapping h g p k)
    (hlist : (s.slot n).list = [j]) (hy : s.job j = some y) :
    s.RevokeEnds (u.revokeWipe h n) n j y ⟨.empty, 0, []⟩ ∧ Cipher.OpeningEnded s.cipher (u.revokeWipe h n).cipher n m := by
  obtain ⟨hengine, hport, hstore, -, hslot, hothers, hunwrap⟩ := hu
  have hjobs := State.job_congr hengine
  have hy' : (u.openingDropped n).job j = some y := (hjobs j).trans hy
  obtain ⟨-, -, -, -, hstore', -⟩ := finishJob_sameElsewhere hy' .noKey []
  rw [revokeWipe_opening (by rw [hslot]; exact hopening) (by rw [hslot]; exact hlist)]
  refine ⟨⟨?_, fun i => ?_, hstore'.trans hstore, ?_, fun k hk => ?_⟩, ?_⟩
  · rw [finishJob_port hy']
    exact congrArg (Port.jobDone · y .noKey []) hport
  · rw [job_finishJob hy']
    exact ite_congr rfl (fun _ => rfl) fun _ => hjobs i
  · rw [slot_finishJob hy', slot_openingDropped, if_pos rfl, hslot, hlist]
    simp [Slot.without]
  · rw [slot_finishJob hy', slot_openingDropped, if_neg (Ne.symm hk), Slot.without, hothers k hk]
    rfl
  · rw [finishJob_cipher hy']
    exact hunwrap.ends.dropJob j

end Turn

/-- The turns of the four slots, where slot `n`'s list is the only one with a job: what its turn leaves, with what `K` says of the
core, stands in the end. -/
theorem revokeWipes_reach {s : State} {n : Fin 4} {m : List Byte} {h : HandleNo} {j : JobId} {y : Job} {final : Slot}
    {K : Cipher → Prop} (hK : ∀ c (i : Fin 4), K c → K (c.dropSlot (.host i))) (hothers : ∀ k, k ≠ n → (s.slot k).list = [])
    (hturn : ∀ u, s.RevokeLeaves u n m → s.RevokeEnds (u.revokeWipe h n) n j y final ∧ K (u.revokeWipe h n).cipher) :
    s.RevokeEnds (allSlots.foldl (State.revokeWipe h) s) n j y final ∧ K (allSlots.foldl (State.revokeWipe h) s).cipher := by
  refine foldl_allSlots_reaches (f := State.revokeWipe h) (P := fun u => s.RevokeLeaves u n m)
    (Q := fun u => s.RevokeEnds u n j y final ∧ K u.cipher) n
    (fun u i hi hu => ?_) (fun u hu => hturn u hu) (fun u i hi hu => ?_) ⟨rfl, rfl, rfl, rfl, rfl, hothers, fun r hr _ => hr⟩
  · obtain ⟨hengine, hport, hstore, htime, hslot, hlists, hunwrap⟩ := hu
    obtain ⟨hframe, hsame, hlists', hcipher⟩ := revokeWipe_frame h (hlists i hi)
    refine ⟨?_, ?_, ?_, ?_, (hsame n hi).trans hslot, fun k hk => (hlists' k).trans (hlists k hk), ?_⟩
    · rw [hframe]; exact hengine
    · rw [hframe]; exact hport
    · rw [hframe]; exact hstore
    · rw [hframe]; exact htime
    · rcases hcipher with e | e <;> rw [e]
      · exact hunwrap
      · exact hunwrap.dropSlot hi
  · obtain ⟨⟨hport, hjobs, hstore, hslot, hlists⟩, hk⟩ := hu
    obtain ⟨hframe, hsame, hlists', hcipher⟩ := revokeWipe_frame h (hlists i hi)
    refine ⟨⟨?_, fun a => ?_, ?_, (hsame n hi).trans hslot, fun k hk => (hlists' k).trans (hlists k hk)⟩, ?_⟩
    · rw [hframe]; exact hport
    · rw [hframe]; exact hjobs a
    · rw [hframe]; exact hstore
    · rcases hcipher with e | e <;> rw [e]
      · exact hk
      · exact hK _ i hk

/-- After the host slots, at most P is wiped. -/
theorem revokeWipes_eq (s : State) (h : HandleNo) : s.revokeWipes h = allSlots.foldl (State.revokeWipe h) s ∨
    s.revokeWipes h = (allSlots.foldl (State.revokeWipe h) s).wipe .package := by
  unfold State.revokeWipes
  dsimp only
  split
  · exact (ite_eq_or_eq _ _ _).symm
  · exact .inl rfl

theorem slot_wipe_package (s : State) (n : Fin 4) : (s.wipe .package).slot n = s.slot n := by
  unfold State.wipe
  split <;> rfl

theorem revokeWipes_reads (s : State) (h : HandleNo) : (s.revokeWipes h).engine = (allSlots.foldl (State.revokeWipe h) s).engine ∧
    (s.revokeWipes h).port = (allSlots.foldl (State.revokeWipe h) s).port ∧
    (s.revokeWipes h).store = (allSlots.foldl (State.revokeWipe h) s).store ∧
    (s.revokeWipes h).cipher = (allSlots.foldl (State.revokeWipe h) s).cipher ∧
    ∀ n, (s.revokeWipes h).slot n = (allSlots.foldl (State.revokeWipe h) s).slot n := by
  have hwipes := revokeWipes_eq s h
  generalize allSlots.foldl (State.revokeWipe h) s = u at hwipes
  rcases hwipes with e | e <;> rw [e]
  · exact ⟨rfl, rfl, rfl, rfl, fun _ => rfl⟩
  · have hframe := wipe_eq u .package
    refine ⟨?_, ?_, ?_, ?_, slot_wipe_package u⟩ <;> rw [hframe]

/-! ## The event of the durable REVOKE -/

/-- Where no job waits COUNTER, a stale counter write changes the directory and the queue alone (R67). -/
theorem staleCounters_of_no_waiter {s : State} (h : HandleNo) (hsteps : ∀ j x, s.job j = some x → x.step ≠ .counterWait) :
    s.staleCounters h = (s.onEntry h fun e => { e with counterPending := none }).onStore fun t =>
      { t with queue := t.queue.filter fun q => q != .counter h } := by
  unfold State.staleCounters State.releaseCounterWaiters
  refine foldl_eq_self fun j _ => ?_
  split
  next x hx => exact if_neg fun e => hsteps j x hx e.1
  next => rfl

theorem advanceHead_reads (t : Store) : t.advanceHead.reclaim = t.reclaim ∧ t.advanceHead.nextSeq = t.nextSeq := by
  unfold Store.advanceHead
  split
  · exact ⟨rfl, rfl⟩
  · split <;> exact ⟨rfl, rfl⟩

/-- The append position moves on whatever the array holds (R130). -/
theorem advanceHead_of_row (t : Store) (array : RowArray) : ({ t with array := array, program := none } : Store).advanceHead =
    { t.advanceHead with array := array, program := none } := by
  unfold Store.advanceHead
  by_cases h : t.appendPos + 1 < 64
  · rw [if_pos h, if_pos h]
  · rw [if_neg h, if_neg h]
    dsimp only
    generalize List.find? (fun b => decide (t.banks[b] = .erased)) (banksAfter t.headBank) = o
    cases o <;> rfl

/-- The end of a program rewrites the figures (R23, R130). -/
theorem endProgram_eq (s : State) (loc : Location) (row : Row) : s.endProgram loc row = { s with
    store := { s.store.advanceHead with array := setRow s.store.array loc row, program := none }
    port := { s.port with figures := s.figuresAfter } } := by
  obtain ⟨-, hseq⟩ := advanceHead_reads s.store
  unfold State.endProgram State.refreshFigures State.figuresAfter
  dsimp only [State.onStore, State.onPort]
  rw [advanceHead_of_row, ← hseq]
  rfl

/-- The state in which the wipes of a durable REVOKE of handle `h` begin: its row stands, and its handle holds no generation
(R105, R130). -/
def State.revoked (s : State) (loc : Location) (d : RowData) (h : HandleNo) (highest : Nat) (role : Option Role) : State :=
  ((s.endProgram loc (.valid d)).onTime fun t => { t with lastStamp := max t.lastStamp d.stamp }).onEntry h fun e =>
    e.applyRevoke highest role

/-- The event of a durable REVOKE: the wipes, and then the lane job's completion (R100, R105). -/
theorem revoke_durable {s u : State} {j : JobId} {x : Job} {loc : Location} {d : RowData} {payload : Payload}
    {failures : Nat} {k : AuthNo} {c : Nat} {tag : Tag} {h : HandleNo} {g highest : Nat} {role : Option Role}
    (hprogram : s.store.program = some ⟨.package (some j), payload, loc, d, failures⟩)
    (hheader : d.header = ⟨some k, some (c, tag)⟩) (hrecord : d.record = .revoke h g highest role)
    (hu : (s.revoked loc d h highest role).revokeWipes h = u) (hreclaim : u.store.reclaim = none)
    (hjobs : ∀ i, u.job i = if i = j then some x else none) (hstep : x.step = .recordStore) :
    ∃ t, exec .appendCompletion s = .next t ∧ (∀ i, t.job i = none) ∧ (∀ i, t.slot i = (u.slot i).without j) ∧
      t.port = u.port.jobDone x .ok (pkgResults x.input) ∧ t.cipher = u.cipher.dropJob j := by
  have hstale := staleCounters_of_no_waiter (s := u) h fun i y hy => by
    rw [hjobs] at hy
    split at hy <;> cases hy
    rw [hstep]
    nofun
  have hx : ((u.staleCounters h).acceptPackage d.header).job j = some x := by
    rw [hstale, State.acceptPackage, hheader]
    exact (hjobs j).trans (if_pos rfl)
  have hreads : ((u.staleCounters h).acceptPackage d.header).engine = u.engine ∧
      ((u.staleCounters h).acceptPackage d.header).port = u.port ∧
      ((u.staleCounters h).acceptPackage d.header).slots = u.slots ∧
      ((u.staleCounters h).acceptPackage d.header).cipher = u.cipher ∧
      ((u.staleCounters h).acceptPackage d.header).store.reclaim = none := by
    rw [hstale, State.acceptPackage, hheader]
    exact ⟨rfl, rfl, rfl, rfl, hreclaim⟩
  generalize hv : (u.staleCounters h).acceptPackage d.header = v at hx hreads
  obtain ⟨hengine, hport, hslots, hcipher, hreclaim'⟩ := hreads
  have hfree : ∀ i, (v.finishJob j .ok (pkgResults x.input)).job i = none := fun i => by
    rw [job_finishJob hx, State.job_congr hengine, hjobs]
    split <;> rfl
  obtain ⟨-, -, -, -, hstore, -⟩ := finishJob_sameElsewhere hx .ok (pkgResults x.input)
  have hreclaim'' : (v.finishJob j .ok (pkgResults x.input)).store.reclaim = none := by rw [hstore, hreclaim']
  have hdurable : ((s.endProgram loc (.valid d)).onTime fun t => { t with lastStamp := max t.lastStamp d.stamp }).applyDurable
      (.package (some j)) loc d = v.finishJob j .ok (pkgResults x.input) := by
    have hlate : ∀ w : State, w.lateConfirm d = false := fun w => by rw [State.lateConfirm, hrecord]
    have hwipes : ∀ w : State, w.applyPackageRecord loc d.stamp d.record =
        ((w.onEntry h fun e => e.applyRevoke highest role).revokeWipes h).staleCounters h := fun w => by
      unfold State.applyPackageRecord
      rw [hrecord]
    rw [State.applyDurable]
    simp only [hlate, hwipes]
    rw [show ((((s.endProgram loc (.valid d)).onTime fun t => { t with lastStamp := max t.lastStamp d.stamp }).onEntry h
      fun e => e.applyRevoke highest role).revokeWipes h) = u from hu, hv, State.completePackage, hx]
    rfl
  have hdrop : (v.finishJob j .ok (pkgResults x.input)).onStore Store.dropAbandoned = v.finishJob j .ok (pkgResults x.input) := by
    have hsame : (v.finishJob j .ok (pkgResults x.input)).store.dropAbandoned = (v.finishJob j .ok (pkgResults x.input)).store := by
      rw [Store.dropAbandoned, hreclaim'', Option.any_none, Bool.and_false]
      rfl
    rw [State.onStore, hsame]
  refine ⟨_, ?_, hfree, fun i => ?_, ?_, ?_⟩
  · rw [exec, execAppendCompletion, hprogram]
    simp only [hdurable]
    rw [State.copyRowDone, if_neg (show ¬(Requester.package (some j)).copyRow = true from Bool.false_ne_true), hdrop,
      settle_of_no_jobs hfree, State.copyAdvance, hreclaim'']
  · rw [slot_finishJob hx, State.slot, hslots]
    rfl
  · rw [finishJob_port hx, hport]
  · rw [finishJob_cipher hx, hcipher]

/-- R48, R50: at a durable REVOKE the front use that needs its key completes NO_KEY, and an opening of the handle ends. -/
theorem revoke_completes_front {s : State} {j jy : JobId} {x y : Job} {n : Fin 4} {loc : Location} {d : RowData}
    {payload : Payload} {failures : Nat} {k : AuthNo} {c : Nat} {tag : Tag} {h : HandleNo} {g highest : Nat}
    {role : Option Role} {m : List Byte} {final : Slot} {K : Cipher → Prop}
    (hprogram : s.store.program = some ⟨.package (some j), payload, loc, d, failures⟩) (hreclaim : s.store.reclaim = none)
    (hheader : d.header = ⟨some k, some (c, tag)⟩) (hrecord : d.record = .revoke h g highest role) (hx : s.job j = some x)
    (hstep : x.step = .recordStore) (hne : jy ≠ j) (hothers : ∀ i, i ≠ j → i ≠ jy → s.job i = none)
    (hlists : ∀ i, i ≠ n → (s.slot i).list = []) (hfinal : final.list = [])
    (hK : ∀ c (i : Fin 4), K c → K (c.dropSlot (.host i))) (hK' : ∀ c j, K c → K (c.dropJob j))
    (hturn : ∀ u, (s.revoked loc d h highest role).RevokeLeaves u n m →
      (s.revoked loc d h highest role).RevokeEnds (u.revokeWipe h n) n jy y final ∧ K (u.revokeWipe h n).cipher) :
    ∃ t, exec .appendCompletion s = .next t ∧ (∀ i, t.job i = none) ∧ t.slot n = final ∧
      t.port = (({ s.port with figures := s.figuresAfter }).jobDone y .noKey []).jobDone x .ok (pkgResults x.input) ∧
      K t.cipher := by
  have hrevoked : (s.revoked loc d h highest role).engine = s.engine ∧ (s.revoked loc d h highest role).slots = s.slots ∧
      (s.revoked loc d h highest role).port = { s.port with figures := s.figuresAfter } ∧
      (s.revoked loc d h highest role).store.reclaim = none := by
    obtain ⟨hkept, -⟩ := advanceHead_reads s.store
    rw [State.revoked, endProgram_eq]
    exact ⟨rfl, rfl, rfl, hkept.trans hreclaim⟩
  obtain ⟨hengine, hslots, hport, hreclaim'⟩ := hrevoked
  have hothers' : ∀ i, i ≠ n → ((s.revoked loc d h highest role).slot i).list = [] := fun i hi => by
    rw [State.slot, hslots]
    exact hlists i hi
  obtain ⟨⟨hport', hjobs, hstore, hslot, -⟩, hcipher⟩ := revokeWipes_reach (y := y) hK hothers' hturn
  obtain ⟨hengine_r, hport_r, hstore_r, hcipher_r, hslot_r⟩ := revokeWipes_reads (s.revoked loc d h highest role) h
  have hreclaims : ((s.revoked loc d h highest role).revokeWipes h).store.reclaim = none := by
    rw [hstore_r, hstore, hreclaim']
  have hlast : ∀ i, ((s.revoked loc d h highest role).revokeWipes h).job i = if i = j then some x else none := fun i => by
    rw [State.job_congr hengine_r, hjobs, State.job_congr hengine]
    by_cases hi : i = j
    · rw [if_pos hi, if_neg (hi ▸ hne.symm), hi, hx]
    · by_cases hi' : i = jy
      · rw [if_pos hi', if_neg hi]
      · rw [if_neg hi', if_neg hi, hothers i hi hi']
  obtain ⟨t, hexec, hfree, hslots', hport'', hcipher'⟩ := revoke_durable hprogram hheader hrecord rfl hreclaims hlast hstep
  refine ⟨t, hexec, hfree, ?_, ?_, ?_⟩
  · rw [hslots', hslot_r, hslot]
    exact Slot.without_of_not_mem (by rw [hfinal]; exact List.not_mem_nil)
  · rw [hport'', hport_r, hport', hport]
  · rw [hcipher', hcipher_r]
    exact hK' _ j hcipher

/-! ## The obligation -/

/-- Settles O58: the two turns of a durable REVOKE, and the uses that a latch completes. -/
theorem wipesCompleteTheUses : Obligations.WipesCompleteTheUses := by
  unfold Obligations.WipesCompleteTheUses
  constructor
  · intro s j jy x y n loc d payload failures k c tag h g highest g' role p m hprogram hreclaim hheader hrecord hx _ hstep _ _ hne hy
      hothers hlist hlists ends
    have hslot : (s.revoked loc d h highest role).slot n = s.slot n := rfl
    have hlist' : ((s.revoked loc d h highest role).slot n).list = [jy] := hlist
    have hy' : (s.revoked loc d h highest role).job jy = some y := hy
    refine ⟨fun hopen hkind hneeds => ?_, fun hopening => ?_⟩
    · obtain ⟨t, hexec, hfree, hfinal, hport, -⟩ := revoke_completes_front (K := fun _ => True) (m := m) hprogram hreclaim hheader
        hrecord hx hstep hne hothers hlists rfl (fun _ _ _ => trivial) (fun _ _ _ => trivial)
        fun u hu => ⟨hu.use (by rw [hslot]; exact hopen) hlist' hy' hkind hneeds, trivial⟩
      exact ⟨t, hexec, hfree, by rw [hfinal], hport, by rw [hfinal]; rfl, by rw [hfinal]⟩
    · have hopening' : (∃ l, ((s.revoked loc d h highest role).slot n).state = .reading h g' l) ∨
          ∃ p k, ((s.revoked loc d h highest role).slot n).state = .unwrapping h g' p k :=
        hopening.imp_right fun e => ⟨p, m, e⟩
      obtain ⟨t, hexec, hfree, hfinal, hport, hwaiting, hruns⟩ := revoke_completes_front
        (K := fun c => Cipher.OpeningEnded s.cipher c n m) (m := m) hprogram hreclaim hheader
        hrecord hx hstep hne hothers hlists rfl (fun c i hc => hc.dropSlot i) (fun c j hc => hc.dropJob j)
        fun u hu => hu.opening hopening' hlist' hy'
      exact ⟨t, hexec, hfree, by rw [hfinal], hport, by rw [hfinal], hwaiting, hruns⟩
  · intro s i n h g p m front uses kept input isUse hready henabled hclear hcount hopen hp hlist hnodup hothers hlane hwaiting hall
      hfront huses hkept hqueued done
    have hin : ∀ j ∈ uses, ∃ x, s.job j = some x := fun j hj => by
      obtain ⟨x, hx, -⟩ := huses j hj
      exact ⟨x, hx⟩
    have hhits : s.latchedJobs (s.slot n).list = uses := by
      rw [hlist]
      rcases hfront with ⟨rfl, hneeds⟩ | ⟨f, x, rfl, hx, hkind, hstep⟩
      · exact latchedJobs_of_needsKey huses hkept hneeds
      · exact latchedJobs_of_front huses hkept hx (.inr hkind) (by rw [hstep]; rfl)
    have hsteps : ∀ j x, j ∉ uses → s.job j = some x → x.step = .slotQueue ∨ x.step = .confirmStore := fun j x hj hx => by
      have hmem := hall j x hx
      rw [hlist, List.mem_append, List.mem_append] at hmem
      rcases hmem with hmem | hmem | hmem
      · rcases hfront with ⟨rfl, -⟩ | ⟨f, y, rfl, hy, -, hstep⟩
        · cases hmem
        · rw [List.mem_singleton.mp hmem, hy] at hx
          cases hx
          exact .inr hstep
      · exact absurd hmem hj
      · exact .inl (hqueued j x hmem hx)
    obtain ⟨t, u, hexec, hends, hjobs, hslots, hport⟩ := latch_completes_uses
      ((latchDue_iff s i).mpr ⟨hready, henabled, hclear, hcount⟩) hopen hp hlist hnodup hothers hlane hwaiting hin hhits hsteps
    refine ⟨t, hexec, ?_, (hslots n).trans hends.slot, fun j => (hjobs j).trans (hends.jobs j)⟩
    exact hport.trans (congrArg (fun q : Port => { q with alert := q.alert ||| alertTamper }) hends.port)

end Sys2Proof.Machine

/-!
PROOFS that no host slot is OPEN with a TAMPER_LOCK key while a tamper latch is set (R43, R51). Every command but three neither
opens a host slot nor sets a latch (`NoneOpens`). Of the three, the end of an unwrap looks at the latches before it opens, a latch
wipes as it sets, and the end of a scan finds no slot OPEN.
-/

namespace Sys2Proof.Machine

open Sys2Proof

/-! ## What opens no slot and sets no latch -/

/-- From `s` to `t` no host slot comes to be OPEN, and no latch sets. -/
structure NoneOpens (s t : State) : Prop where
  latch : t.anyLatch = true → s.anyLatch = true
  opened : ∀ i h g p k, (t.slot i).state = .opened h g p k → (s.slot i).state = .opened h g p k

theorem NoneOpens.law {s t : State} (h : NoneOpens s t) (hs : s.TamperLaw) : t.TamperLaw :=
  fun hlatch i a g p k hopen => hs (h.latch hlatch) i a g p k (h.opened i a g p k hopen)

theorem NoneOpens.refl (s : State) : NoneOpens s s := ⟨id, fun _ _ _ _ _ => id⟩

theorem NoneOpens.trans {s t u : State} (h : NoneOpens s t) (k : NoneOpens t u) : NoneOpens s u :=
  ⟨fun e => h.latch (k.latch e), fun i a g p m e => h.opened i a g p m (k.opened i a g p m e)⟩

section Chain

variable {s t : State} (h : NoneOpens s t)
include h

/-- What leaves the tamper monitor and the slots opens none. -/
theorem NoneOpens.same {u : State} (htamper : u.tamper = t.tamper) (hslots : u.slots = t.slots) : NoneOpens s u :=
  h.trans ⟨fun e => by rwa [State.anyLatch, htamper] at e, fun i a g p k e => by rwa [State.slot, hslots] at e⟩

/-- The service of jobs opens none. -/
theorem NoneOpens.serve {u : State} (hu : Served t u) : NoneOpens s u := by
  refine h.trans ⟨fun e => ?_, fun i a g p k e => hu.slots (.host i) a g p k e⟩
  have hcover : u.tamper.cover.latched = t.tamper.cover.latched := (congrArg TamperState.latched hu.cover :)
  have hfield : u.tamper.field.latched = t.tamper.field.latched := (congrArg TamperState.latched hu.field :)
  rwa [State.anyLatch, hcover, hfield] at e

theorem NoneOpens.settle : NoneOpens s t.settle := h.serve (Served.refl t).settle

theorem NoneOpens.finishJob (j : JobId) (st : Status) (values : List Nat) : NoneOpens s (t.finishJob j st values) :=
  h.serve ((Served.refl t).finishJob j st values)

theorem NoneOpens.foldl {α : Type} {f : State → α → State} (hf : ∀ s a, NoneOpens s (f s a)) (l : List α) :
    NoneOpens s (l.foldl f t) := by
  induction l generalizing t with
  | nil => exact h
  | cons a l ih => exact ih (h.trans (hf t a))

/-- A change of the tamper monitor that sets no latch opens none. -/
theorem NoneOpens.onTamper {f : Tamper → Tamper} (hcover : (f t.tamper).cover.latched = true → t.tamper.cover.latched = true)
    (hfield : (f t.tamper).field.latched = true → t.tamper.field.latched = true) : NoneOpens s (t.onTamper f) := by
  refine h.trans ⟨fun e => ?_, fun _ _ _ _ _ => id⟩
  rw [State.anyLatch, Bool.or_eq_true] at e ⊢
  exact e.imp hcover hfield

/-- Only the mark of a latch changes. -/
theorem NoneOpens.mark (i : TamperInput) (m : MarkState) :
    NoneOpens s (t.onTamper fun x => x.onInput i fun y => { y with mark := m }) := by
  cases i <;> exact h.onTamper id id

theorem NoneOpens.onPort (f : Port → Port) : NoneOpens s (t.onPort f) := h.same rfl rfl
theorem NoneOpens.onStore (f : Store → Store) : NoneOpens s (t.onStore f) := h.same rfl rfl
theorem NoneOpens.onTime (f : TimeBase → TimeBase) : NoneOpens s (t.onTime f) := h.same rfl rfl
theorem NoneOpens.onSupply (f : Supply → Supply) : NoneOpens s (t.onSupply f) := h.same rfl rfl
theorem NoneOpens.onReset (f : ResetState → ResetState) : NoneOpens s (t.onReset f) := h.same rfl rfl
theorem NoneOpens.onEntry (a : HandleNo) (f : HandleEntry → HandleEntry) : NoneOpens s (t.onEntry a f) := h.same rfl rfl

/-- A warm reset empties every slot (R53, R169). -/
theorem NoneOpens.beginWarmReset (cause : ResetCause) : NoneOpens s (t.beginWarmReset cause) := by
  obtain ⟨draws, he⟩ := beginWarmReset_eq t cause
  have hempty : ∀ i : Fin 4, (Vector.replicate 4 (⟨.empty, 0, []⟩ : Slot))[i].state = .empty := by decide
  rw [he]
  exact h.trans ⟨id, fun i a g p k e => absurd ((hempty i).symm.trans e) nofun⟩

/-! ## The operations that are no service of jobs -/

theorem NoneOpens.judgeBytes (a : Nat) (bytes : List Byte) : NoneOpens s (t.judgeBytes a bytes) := by
  induction bytes generalizing t a with
  | nil => exact h
  | cons v vs ih =>
    refine ih (?_ : NoneOpens s (if isStateByte a then t.judgeStateByte (cardAt a) v else t)) (a + 1)
    split
    · exact (h.serve (Served.refl t).wake).onPort _
    · exact h

theorem NoneOpens.hostWrite (a : Nat) (bytes : List Byte) : NoneOpens s (t.hostWrite a bytes) := by
  have hjudged := (h.onPort fun p => p.storeBytes a bytes).judgeBytes a bytes
  unfold State.hostWrite
  dsimp only
  split
  · exact hjudged.beginWarmReset _
  · exact hjudged

theorem NoneOpens.takeKind (k : Kind) {course : JobId → Job → State → State}
    (hcourse : ∀ j x u, NoneOpens u (course j x u)) : NoneOpens s (t.takeKind k course) := by
  unfold State.takeKind
  split
  · exact h
  · split
    next n j _ _ =>
      have htaken : NoneOpens s ((t.onPort fun p => p.take n).setJob j (some (t.snapshot n k))) := h.same rfl rfl
      unfold State.takeCard
      dsimp only
      split
      · exact htaken.finishJob _ _ _
      · exact htaken.trans (hcourse _ _ _)
    · exact h

theorem NoneOpens.abandonErases : NoneOpens s t.abandonErases := by
  unfold State.abandonErases State.abandonErase
  split <;> exact h.same rfl rfl

theorem NoneOpens.setPower (p : Power) : NoneOpens s (t.setPower p) := by
  unfold State.setPower
  split
  · exact (h.onSupply _).abandonErases
  · exact h.onSupply _

theorem NoneOpens.enterFault : NoneOpens s t.enterFault := by
  have hraised : NoneOpens s (if t.store.fault then t else t.raise alertStoreFault) := by
    split
    · exact h
    · exact h.same rfl rfl
  have hgiven : NoneOpens s (if t.store.fault then t else t.raise alertStoreFault).giveUpProgram := by
    unfold State.giveUpProgram
    split
    · exact hraised
    · exact hraised.same rfl rfl
  unfold State.enterFault
  have hrefused := NoneOpens.foldl
    (hgiven.onStore fun t => { t.stopReclaim with fault := true, queue := [], retry := none })
    (f := fun u (r : Requester × Option HandleNo) => u.refuse r.1 r.2)
    (fun u r => (NoneOpens.refl u).serve ((Served.refl u).refuse r.1 r.2)) t.store.recordsInHand
  exact hrefused.foldl (fun u q => (NoneOpens.refl u).serve ((Served.refl u).refuseQueued q)) _

theorem NoneOpens.foldReadStart : NoneOpens s t.foldReadStart := by
  unfold State.foldReadStart
  split
  · split
    · exact h.enterFault.settle
    · split
      · exact h
      · exact h.onStore _
  · exact h

theorem NoneOpens.copyAdvance : NoneOpens s t.copyAdvance := by
  unfold State.copyAdvance
  split
  · split
    · exact (h.onStore _).foldReadStart
    · exact h
  · exact h

/-- The effect of a package's durable record: an UNLOCK record clears latches, and a new setup leaves them (R105, R124, R154,
R155). -/
theorem NoneOpens.applyPackageRecord (loc : Location) (stamp : Nat) (r : Record) :
    NoneOpens s (t.applyPackageRecord loc stamp r) := by
  have hunlock : ∀ x : TamperState, x.unlock.latched = true → x.latched = true := fun x e => by
    unfold TamperState.unlock at e
    split at e
    · cases e
    · exact e
  cases r with
  | key a gen k =>
    unfold State.applyPackageRecord
    dsimp only
    split
    · exact h.same rfl rfl
    · exact (h.onEntry _ _).serve ((Served.refl _).staleCounters a)
    · exact h
  | confirm a gen grace ceiling =>
    unfold State.applyPackageRecord
    dsimp only
    split
    · exact (h.onEntry _ _).serve ((Served.refl _).staleCounters a)
    · exact h.same rfl rfl
  | revoke a gen highest role => exact (h.onEntry _ _).serve (((Served.refl _).revokeWipes a).staleCounters a)
  | setup cover field final =>
    unfold State.applyPackageRecord
    dsimp only
    split
    · exact h.same rfl rfl
    · exact h.onTamper id id
  | unlock cover field =>
    unfold State.applyPackageRecord
    dsimp only
    refine h.onTamper (fun e => ?_) fun e => ?_
    · cases cover
      · exact e
      · exact hunlock _ e
    · cases field
      · exact e
      · exact hunlock _ e
  | time offered => cases offered <;> exact h.same rfl rfl
  | cancel | release | authority | custody => exact h.same rfl rfl
  | counter | tamper | reclaim => exact h

theorem NoneOpens.acceptPackage (header : RowHeader) : NoneOpens s (t.acceptPackage header) := by
  unfold State.acceptPackage
  split
  · exact h.same rfl rfl
  · exact h

/-- The effect of a durable row (R130). -/
theorem NoneOpens.applyDurable (r : Requester) (loc : Location) (d : RowData) : NoneOpens s (t.applyDurable r loc d) := by
  have hrecord := h.applyPackageRecord loc d.stamp d.record
  cases r with
  | package job =>
    have haccepted := hrecord.acceptPackage d.header
    cases job with
    | none => exact haccepted.serve ((Served.refl _).dropOrphan _)
    | some j =>
      unfold State.applyDurable State.completePackage
      dsimp only
      split
      · exact haccepted
      · split
        · exact haccepted.finishJob _ _ _
        · exact haccepted.finishJob _ _ _
  | confirmByUse job =>
    cases job with
    | none => exact hrecord.serve ((Served.refl _).dropOrphan _)
    | some j =>
      unfold State.applyDurable State.completeConfirm
      dsimp only
      split
      · exact hrecord
      · split
        · exact hrecord.serve ((Served.refl _).finishUse _ _ _)
        · exact hrecord.serve (((Served.refl _).addNotes _ _).finishUse _ _ _)
  | lock job =>
    cases job with
    | none => exact h
    | some j => exact h.serve (((Served.refl t).addNotes _ _).finishJob _ _ _)
  | counter a =>
    unfold State.applyDurable State.completeCounter
    dsimp only
    exact (h.onEntry _ _).serve (((Served.refl _).releaseCounterWaiters a).reservationCheck a)
  | tamper i => exact h.mark i _
  | foldRevoke a => exact hrecord
  | timeMark | foldKey => exact h.same rfl rfl
  | copyAsIs | rewrite => exact h
  | reclaimMark b =>
    unfold State.applyDurable State.completeReclaimMark
    dsimp only
    split <;> exact h.same rfl rfl

theorem NoneOpens.startProgram (r : Requester) (p : Payload) (failures : Nat) : NoneOpens s (t.startProgram r p failures) :=
  h.onStore _

theorem NoneOpens.startQueued (q : QueuedAppend) : NoneOpens s (t.startQueued q) := by
  have hleft := h.onStore fun u => { u with queue := u.queue.erase q }
  unfold State.startQueued
  dsimp only
  cases q with
  | tamper i => exact (hleft.mark i _).startProgram _ _ _
  | timeMark => exact (hleft.onTime _).startProgram _ _ _
  | counter a =>
    dsimp only
    split
    · exact hleft
    · exact (hleft.onEntry _ _).startProgram _ _ _
  | owned r p => exact hleft.startProgram _ _ _

end Chain

/-! ## The commands that open no slot and set no latch -/

/-- A command that only serves jobs opens none. -/
theorem Served.noneOpens {s t : State} (h : Served s t) : NoneOpens s t := (NoneOpens.refl s).serve h

/-- What a card goes through at its take opens none. -/
theorem noneOpens_course (k : Kind) (j : JobId) (x : Job) (u : State) : NoneOpens u (k.course j x u) := by
  have hjoin : Served u (u.joinSlot j x) := (Served.refl u).onSlot _ _ fun _ _ _ _ _ => id
  have hr := NoneOpens.refl u
  cases k with
  | openKey | closeSlot | sign | check => exact hjoin.settle.noneOpens
  | query =>
    unfold Kind.course State.serveQuery
    dsimp only
    split
    · exact (hr.finishJob _ _ _).onEntry _ _
    · exact hr.finishJob _ _ _
  | package =>
    unfold Kind.course State.servePackage
    dsimp only
    split
    · exact (((Served.refl u).setStep _ _).onEngine _).settle.noneOpens
    · exact hr.finishJob _ _ _
  | time => exact ((hr.onTime _).serve ((Served.refl _).addNotes _ _)).finishJob _ _ _
  | settings => exact NoneOpens.finishJob (t := (u.withSettings x)) (hr.same rfl rfl) _ _ _
  | windows => exact (hr.onPort _).finishJob _ _ _

theorem noneOpens_take (k : Kind) {s t : State} (ht : exec k.command s = .next t) : NoneOpens s t := by
  rw [exec_command] at ht
  obtain rfl := Host.Outcome.next.inj ht
  exact (NoneOpens.refl s).takeKind k (noneOpens_course k)

theorem noneOpens_slotReadStart (s : State) (i : SlotId) : NoneOpens s (s.slotReadStart i) := by
  unfold State.slotReadStart
  split
  · split
    · exact ((Served.refl s).failOpening _ _).settle.noneOpens
    · exact ((Served.refl s).startRead _).noneOpens
  · exact .refl s

theorem noneOpens_keyRowRead (s : State) (i : SlotId) (crcOk : Bool) : NoneOpens s (s.keyRowRead i crcOk) := by
  unfold State.keyRowRead
  split
  · split
    · exact ((Served.refl s).failOpening _ _).settle.noneOpens
    · exact (((Served.refl s).setSlotState _ _).requestCore _).noneOpens
  · exact .refl s

/-- A second moves the idle timers of the slots alone (R49). -/
theorem noneOpens_second (s : State) (f : TimeBase → TimeBase) :
    NoneOpens s ((s.onSlots fun t => { t with host := mapVector Slot.second t.host }).onTime f) := by
  refine ⟨id, fun i a g p k e => ?_⟩
  have hslot : (s.onSlots fun t => { t with host := mapVector Slot.second t.host }).slot i = (s.slot i).second :=
    mapVector_getElem Slot.second s.slots.host i.val i.isLt
  have hstate : (s.slot i).second.state = (s.slot i).state := by
    unfold Slot.second
    split <;> rfl
  rw [State.slot, State.onTime_slots] at e
  exact hstate.symm.trans ((congrArg Slot.state hslot).symm.trans e)

/-- A sample moves the debounce count and the level of an input alone (R150). -/
theorem sample_latched (x : TamperState) (level : Bool) : (x.sample level).latched = x.latched := by
  unfold TamperState.sample
  split <;> rfl

/-- The end of an erase opens none. -/
theorem noneOpens_eraseCompletion (s : State) (residue : List RowResidue) {t : State}
    (ht : exec (.eraseCompletion residue) s = .next t) : NoneOpens s t := by
  obtain rfl := Host.Outcome.next.inj ht
  have hr := NoneOpens.refl s
  split
  · exact hr
  next b _ =>
    have hended := hr.onStore fun t => { t with array := eraseRows t.array b fun n => residue.getD n .blank, erase := none }
    dsimp only
    split
    · unfold State.erasePassed
      dsimp only
      split
      · exact ((hended.onStore _).onPort _).onPort _
      · exact (hended.onStore _).onPort _
    · exact ((hended.onStore _).onPort _).enterFault.settle

/-- The start of an append, of a retry and of a row of the COPY open none. -/
theorem noneOpens_start {c : Instr} (hc : c = .appendStart ∨ c = .retryStart ∨ c = .copyRowStart) {s t : State}
    (ht : exec c s = .next t) : NoneOpens s t := by
  have hr := NoneOpens.refl s
  rcases hc with rfl | rfl | rfl
  · obtain rfl := Host.Outcome.next.inj ht
    split
    · split
      · exact hr
      · split
        · exact hr.enterFault.settle
        · exact hr.startQueued _
    · exact hr
  · obtain rfl := Host.Outcome.next.inj ht
    split
    · split
      · exact hr
      · split
        · exact hr.enterFault.settle
        · split
          · exact (hr.onStore _).startProgram _ _ _
          · exact hr
    · exact hr
  · obtain rfl := Host.Outcome.next.inj ht
    split
    · split
      · split
        · exact hr.enterFault.settle
        · split
          · unfold State.startCopyRow
            split
            · exact (hr.onStore _).copyAdvance
            · exact (hr.onStore _).startProgram _ _ _
          · exact hr
      · exact hr
    · exact hr

/-- The end of a program opens none. -/
theorem noneOpens_programEnd {c : Instr} (hc : c = .appendCompletion ∨ c = .appendAbandonment) {s t : State}
    (ht : exec c s = .next t) : NoneOpens s t := by
  have hr := NoneOpens.refl s
  have hended : ∀ loc row, NoneOpens s (s.endProgram loc row) := fun loc row => hr.same rfl rfl
  rcases hc with rfl | rfl
  · obtain rfl := Host.Outcome.next.inj ht
    split
    · exact hr
    next p _ =>
      have hdone := ((hended p.location (.valid p.data)).onTime fun t =>
        { t with lastStamp := max t.lastStamp p.data.stamp }).applyDurable p.requester p.location p.data
      refine NoneOpens.copyAdvance (NoneOpens.settle (NoneOpens.onStore ?_ _))
      unfold State.copyRowDone
      split
      · exact hdone.onStore _
      · exact hdone
  · obtain rfl := Host.Outcome.next.inj ht
    split
    · exact hr
    · split
      · exact (hended _ _).onStore _
      · exact hr.enterFault.settle

/-- The end of a warm reset asks for kept counter writes again, and opens none (R71, R170). -/
theorem noneOpens_warmResetEnd {rstHigh : Bool} {s t : State} (ht : exec (.warmResetEnd rstHigh) s = .next t) :
    NoneOpens s t := by
  obtain rfl := Host.Outcome.next.inj ht
  have hr := (NoneOpens.refl s).onReset fun r => { r with rstHigh := rstHigh }
  split
  · refine NoneOpens.foldl (((hr.onReset _).onStore _).onPort _) (fun u a => ?_) _
    unfold State.askAgain
    split
    · exact ((Served.refl u).askAppend _).noneOpens
    · exact .refl u
  · exact hr

/-- Every command but a cold start, the end of an unwrap, a latch and the end of a scan opens no host slot and sets no latch. -/
theorem noneOpens_exec {c : Instr} (hcold : ∀ a b, c ≠ .coldStart a b) (hunwrap : c ≠ .slotUnwrapEnd)
    (hlatch : ∀ i, c ≠ .tamperLatch i) (hscan : c ≠ .scanEnd) {s t : State} (ht : exec c s = .next t) : NoneOpens s t := by
  have hr := NoneOpens.refl s
  have hv := Served.refl s
  cases c with
  | coldStart a b => exact absurd rfl (hcold a b)
  | slotUnwrapEnd => exact absurd rfl hunwrap
  | tamperLatch i => exact absurd rfl (hlatch i)
  | scanEnd => exact absurd rfl hscan
  | post | withdraw | returnCard | cardFault | hostMemoryWrite | controlWrite | softReset | alertClear
  | registerWriteDiscarded =>
    obtain rfl := Host.Outcome.next.inj ht
    exact hr.hostWrite _ _
  | takeOpen => exact noneOpens_take .openKey ht
  | takeClose => exact noneOpens_take .closeSlot ht
  | takeSign => exact noneOpens_take .sign ht
  | takeCheck => exact noneOpens_take .check ht
  | takeQuery => exact noneOpens_take .query ht
  | takePackage => exact noneOpens_take .package ht
  | takeTime => exact noneOpens_take .time ht
  | takeSettings => exact noneOpens_take .settings ht
  | takeWindows => exact noneOpens_take .windows ht
  | kindUnknownRefusal =>
    obtain rfl := Host.Outcome.next.inj ht
    split
    · exact hr
    · split
      · exact hr.same rfl rfl
      · exact hr
  | rowReadStart reader =>
    obtain rfl := Host.Outcome.next.inj ht
    cases reader with
    | slot i => exact noneOpens_slotReadStart s i
    | fold => exact hr.foldReadStart
  | keyRowReadEnd i crcOk =>
    obtain rfl := Host.Outcome.next.inj ht
    exact noneOpens_keyRowRead s i crcOk
  | signOperationEnd =>
    obtain rfl := Host.Outcome.next.inj ht
    split
    · split
      · exact hv.coreIdle.settle.noneOpens
      · exact (hv.coreIdle.signDone _ _).settle.noneOpens
    · exact hr
  | tagComparisonEnd =>
    obtain rfl := Host.Outcome.next.inj ht
    split
    · split
      · exact hv.coreIdle.settle.noneOpens
      · exact (hv.coreIdle.compared _ _).settle.noneOpens
    · exact hr
  | decipherEnd =>
    obtain rfl := Host.Outcome.next.inj ht
    split
    · split
      · exact hv.coreIdle.settle.noneOpens
      · exact (hv.coreIdle.deciphered _ _).settle.noneOpens
    · exact hr
  | packageTagCheckEnd =>
    obtain rfl := Host.Outcome.next.inj ht
    split
    · split
      · exact hv.coreIdle.settle.noneOpens
      · exact (hv.coreIdle.packageCompared _ _).settle.noneOpens
    · exact hr
  | stageUnwrapEnd =>
    obtain rfl := Host.Outcome.next.inj ht
    split
    · split
      · exact hv.coreIdle.settle.noneOpens
      · exact (hv.coreIdle.stageUnwrapped _ _).settle.noneOpens
    · exact hr
  | wipeCompletion i =>
    obtain rfl := Host.Outcome.next.inj ht
    split
    · split
      · exact (hv.setSlotState _ _).settle.noneOpens
      · exact hr
    · exact hr
  | idleClose i =>
    obtain rfl := Host.Outcome.next.inj ht
    split
    · exact (hv.wipe _).noneOpens
    · exact hr
  | appendStart => exact noneOpens_start (.inl rfl) ht
  | retryStart => exact noneOpens_start (.inr (.inl rfl)) ht
  | copyRowStart => exact noneOpens_start (.inr (.inr rfl)) ht
  | appendCompletion => exact noneOpens_programEnd (.inl rfl) ht
  | appendAbandonment => exact noneOpens_programEnd (.inr rfl) ht
  | reclaimStart =>
    obtain rfl := Host.Outcome.next.inj ht
    split
    · split
      · exact hr
      · exact (hr.onStore _).copyAdvance
    · exact hr
  | foldReadEnd crcOk =>
    obtain rfl := Host.Outcome.next.inj ht
    split
    · split
      · exact hr.onStore _
      · exact hr.enterFault.settle
    · exact hr
  | eraseStart =>
    obtain rfl := Host.Outcome.next.inj ht
    split
    · exact hr
    · split
      · exact hr.onStore _
      · exact hr
  | eraseCompletion residue => exact noneOpens_eraseCompletion s residue ht
  | timeBaseMilliTick cover field pfail =>
    obtain rfl := Host.Outcome.next.inj ht
    dsimp only
    split
    · refine ((hr.onTime _).onTamper (fun e => ?_) fun e => ?_).onSupply _
      · exact (sample_latched _ _).symm.trans e
      · exact (sample_latched _ _).symm.trans e
    · exact (hr.onTime _).onSupply _
  | timeBaseSecond =>
    obtain rfl := Host.Outcome.next.inj ht
    split
    · exact noneOpens_second s _
    · exact hr
  | driftCreditAccrual =>
    obtain rfl := Host.Outcome.next.inj ht
    split
    · exact hr.onTime _
    · exact hr
  | timeMarkDue =>
    obtain rfl := Host.Outcome.next.inj ht
    split
    · exact (hr.onTime _).serve ((Served.refl _).askAppend _)
    · exact hr
  | powerStateChange =>
    obtain rfl := Host.Outcome.next.inj ht
    split
    · refine NoneOpens.setPower ?_ _
      split
      · exact hr.onPort _
      · exact hr
    · exact hr
  | initialPowerState =>
    obtain rfl := Host.Outcome.next.inj ht
    split
    · exact ((hr.onSupply _).setPower _).onReset _
    · exact hr
  | standbyEntry =>
    obtain rfl := Host.Outcome.next.inj ht
    split
    · exact hr.onSupply _
    · exact hr
  | standbyWake =>
    obtain rfl := Host.Outcome.next.inj ht
    split
    · exact hv.wake.noneOpens
    · exact hr
  | rstNLow =>
    obtain rfl := Host.Outcome.next.inj ht
    split
    · exact (hr.onReset _).beginWarmReset _
    · exact hr.onReset _
  | warmResetEnd rstHigh => exact noneOpens_warmResetEnd ht

/-! ## The end of an unwrap, a latch, and the end of a scan -/

/-- A host slot's opening ends under the look at the latches that R43 asks for. -/
theorem tamperLaw_hostOpened {s : State} (hs : s.TamperLaw) (i : Fin 4) (a : HandleNo) (g : Nat) (p : Policy) (key : List Byte) :
    (s.hostOpened i a g p key).TamperLaw := by
  have hopened : (s.setSlotState (.host i) (if p.tamperLock && s.anyLatch then .closing s.time.milli
      else .opened a g p key)).TamperLaw := by
    intro hlatch m a' g' p' k' e
    have hlatch' : s.anyLatch = true := hlatch
    rw [slot_setSlotState] at e
    split at e
    next =>
      cases hp : p.tamperLock with
      | true => rw [hp, hlatch'] at e; cases e
      | false =>
        rw [hp] at e
        cases e
        exact hp
    next => exact hs hlatch' m a' g' p' k' e
  unfold State.hostOpened
  dsimp only
  generalize s.setSlotState (.host i) (if p.tamperLock && s.anyLatch then .closing s.time.milli
    else .opened a g p key) = u at hopened ⊢
  split
  · exact hopened
  · split
    · exact ((NoneOpens.refl _).finishJob _ _ _).law hopened
    · exact ((NoneOpens.refl _).finishJob _ _ _).law hopened

theorem tamperLaw_unwrapped {s : State} (hs : s.TamperLaw) (i : SlotId) (m : List Byte) : (s.unwrapped i m).TamperLaw := by
  unfold State.unwrapped
  split
  · split
    · exact ((Served.refl s).failOpening _ _).noneOpens.law hs
    · exact tamperLaw_hostOpened hs _ _ _ _ _
    · refine (NoneOpens.serve (t := s.setSlotState .package _) ?_ (Served.refl _).laneKeyOpen).law hs
      exact ⟨id, fun _ _ _ _ _ => id⟩
  · exact hs

/-- The end of an unwrap keeps the law (R43, R51). -/
theorem tamperLaw_slotUnwrapEnd {s t : State} (hs : s.TamperLaw) (ht : exec .slotUnwrapEnd s = .next t) : t.TamperLaw := by
  obtain rfl := Host.Outcome.next.inj ht
  have hidle : s.coreIdle.TamperLaw := (Served.refl s).coreIdle.noneOpens.law hs
  split
  · refine ((Served.refl _).settle).noneOpens.law ?_
    split
    · exact hidle
    · exact tamperLaw_unwrapped hidle _ _
  · exact hs

/-- After the wipes of a latch no slot holds a TAMPER_LOCK key (R51). -/
theorem latchWipes_lock (s : State) (n : Fin 4) (a : HandleNo) (g : Nat) (p : Policy) (k : List Byte)
    (hopen : ((allSlots.foldl State.latchWipe s).slot n).state = .opened a g p k) : p.tamperLock = false := by
  refine foldl_allSlots_reaches (P := fun _ => True)
    (Q := fun u => ∀ a g p k, (u.slot n).state = .opened a g p k → p.tamperLock = false) n
    (fun _ _ _ _ => trivial) (fun u _ a g p k e => ?_) (fun u i _ hu a g p k e => ?_) trivial a g p k hopen
  · by_contra hlock
    have hstood : (u.slot n).state = .opened a g p k := ((Served.refl u).latchWipe n).slots (.host n) a g p k e
    have hwiped : ((u.wipe (.host n)).slot n).state = .closing u.time.milli := by
      rw [slot_wipe, if_pos rfl, Slot.wiped, hstood]
    have hserved : Served (u.wipe (.host n)) (u.latchWipe n) := by
      rw [latchWipe_of_locked hstood (Bool.eq_true_of_not_eq_false hlock)]
      exact Served.foldl (fun v j => (Served.refl v).finishUse j _ _) (Served.refl _) _
    exact absurd (hwiped.symm.trans (hserved.slots (.host n) a g p k e)) nofun
  · exact hu a g p k (((Served.refl u).latchWipe i).slots (.host n) a g p k e)

/-- A latch that sets wipes what it forbids (R51). -/
theorem tamperLaw_tamperLatch {s t : State} {i : TamperInput} (hs : s.TamperLaw) (ht : exec (.tamperLatch i) s = .next t) :
    t.TamperLaw := by
  cases hdue : s.latchDue i with
  | false =>
    obtain rfl := Host.Outcome.next.inj ht
    rw [hdue]
    exact hs
  | true =>
    rw [exec_tamperLatch hdue] at ht
    obtain rfl := Host.Outcome.next.inj ht
    obtain ⟨-, hslots, -⟩ := latchTold_reads (s.latchSet i .waiting) i
    refine (Served.refl _).settle.noneOpens.law fun _ n a g p k e => ?_
    rw [hslots] at e
    exact latchWipes_lock _ n a g p k e

/-- The end of a scan leaves the slots (R162). -/
theorem slots_scanEnd {s t : State} (ht : exec .scanEnd s = .next t) : t.slots = s.slots := by
  obtain rfl := Host.Outcome.next.inj ht
  split
  · obtain ⟨_, _, _, _, hrebuilt⟩ := rebuilt_eq s
    exact (congrArg State.slots hrebuilt :)
  · rfl

/-- Settles O6: the commands that open no slot and set no latch, and the four others one by one. -/
theorem tamperLawIsKept : Obligations.TamperLawIsKept := by
  unfold Obligations.TamperLawIsKept
  intro c s t hs hscan ht
  by_cases hcold : ∃ a b, c = .coldStart a b
  · obtain ⟨a, b, rfl⟩ := hcold
    obtain rfl := Host.Outcome.next.inj ht
    exact fun hlatch => absurd hlatch (by simp [State.anyLatch, State.cold, TamperState.cold])
  by_cases hlatch : ∃ i, c = .tamperLatch i
  · obtain ⟨i, rfl⟩ := hlatch
    exact tamperLaw_tamperLatch hs ht
  by_cases hunwrap : c = .slotUnwrapEnd
  · subst hunwrap
    exact tamperLaw_slotUnwrapEnd hs ht
  by_cases hend : c = .scanEnd
  · subst hend
    intro _ i a g p k e
    rw [State.slot, slots_scanEnd ht] at e
    exact absurd ((hscan rfl i).symm.trans e) nofun
  · exact (noneOpens_exec (fun a b e => hcold ⟨a, b, e⟩) hunwrap (fun i e => hlatch ⟨i, e⟩) hend ht).law hs

end Sys2Proof.Machine

/-!
PROOFS of the key directory's law (R57, R62, R66, R74): what each change of an entry keeps of it, what each operation keeps of
the law of the whole directory, and every command but the end of a scan.
-/

namespace Sys2Proof.Machine

open Sys2Proof

/-! ## Changes of one entry -/

/-- The law reads of a generation its number and the current generation's counters, not its location or its window. -/
theorem law_of_map {e : HandleEntry} (h : e.Law) (f : CurrentGen → CurrentGen) (g : StagedGen → StagedGen)
    (r : RetiringGen → RetiringGen)
    (hf : ∀ c, (f c).gen = c.gen ∧ (f c).txNext = c.txNext ∧ (f c).txCeiling = c.txCeiling ∧ (f c).signLimit = c.signLimit)
    (hg : ∀ y, (g y).gen = y.gen) (hr : ∀ y, (r y).gen = y.gen) :
    HandleEntry.Law
      { e with current := e.current.map f, staged := e.staged.map g, retiring := e.retiring.map r } := by
  obtain ⟨hcurrent, hstaged, hretiring, hpending, hflight⟩ := h
  simp only [HandleEntry.Law, Option.map_eq_some_iff, Option.map_eq_none_iff, forall_exists_index, and_imp,
    forall_apply_eq_imp_iff₂, hf, hg, hr]
  refine ⟨hcurrent, hstaged, fun y hy => ?_, fun w n c hw hn x hx hfx => ?_, hflight⟩
  · obtain ⟨c, hc, hlt⟩ := hretiring y hy
    exact ⟨f c, ⟨c, hc, rfl⟩, (hf c).1 ▸ hlt⟩
  · rw [← hfx, (hf x).2.2.2]
    exact hpending w n x hw hn hx

theorem law_setWindow {e : HandleEntry} (h : e.Law) (st : Standing) (w : RxWindow) : (e.setWindow st w).Law := by
  have hsame : ∀ c : CurrentGen, c.gen = c.gen ∧ c.txNext = c.txNext ∧ c.txCeiling = c.txCeiling ∧ c.signLimit = c.signLimit :=
    fun _ => ⟨rfl, rfl, rfl, rfl⟩
  have hmapped := law_of_map h (fun c => if st = .current then { c with rx := w } else c)
    (fun c => if st = .staged then { c with rx := w } else c) (fun c => if st = .retiring then { c with rx := w } else c)
    (fun c => by split <;> exact hsame _) (fun y => by split <;> rfl) fun y => by split <;> rfl
  cases st <;> simpa [HandleEntry.setWindow] using hmapped

theorem law_moveLocation {e : HandleEntry} (h : e.Law) (gen : Nat) (loc : Location) : (e.moveLocation gen loc).Law := by
  refine law_of_map h _ _ _ (fun c => ?_) (fun y => ?_) fun y => ?_
  · split <;> exact ⟨rfl, rfl, rfl, rfl⟩
  · split <;> rfl
  · split <;> rfl

/-- A staged or a retiring record may leave the entry. -/
theorem law_of_fewer {e e' : HandleEntry} (h : e.Law) (hcurrent : e'.current = e.current)
    (hstaged : ∀ y, e'.staged = some y → e.staged = some y) (hretiring : ∀ y, e'.retiring = some y → e.retiring = some y)
    (hhighest : e'.highestGen = e.highestGen) (hpending : e'.counterPending = e.counterPending)
    (hflight : e'.counterFlight = e.counterFlight) : e'.Law := by
  obtain ⟨lcurrent, lstaged, lretiring, lpending, lflight⟩ := h
  unfold HandleEntry.Law
  rw [hcurrent, hhighest, hpending, hflight]
  refine ⟨lcurrent, fun y hy => ?_, fun y hy => lretiring y (hretiring y hy), lpending, fun f hf => ?_⟩
  · obtain ⟨hgen, hnone, hlt⟩ := lstaged y (hstaged y hy)
    refine ⟨hgen, ?_, hlt⟩
    cases hr : e'.retiring with
    | none => rfl
    | some z => cases hnone.symm.trans (hretiring z hr)
  · obtain ⟨hgen, hlt, hsame⟩ := lflight f hf
    exact ⟨hgen, fun y hy => hlt y (hstaged y hy), hsame⟩

theorem law_clearLapsed {e : HandleEntry} (h : e.Law) (now : Nat) : (e.clearLapsed now).Law :=
  law_of_fewer h rfl (fun _ hy => (Option.filter_eq_some_iff.mp hy).1) (fun _ hy => (Option.filter_eq_some_iff.mp hy).1) rfl rfl rfl

theorem law_applyCancel {e : HandleEntry} (h : e.Law) (now gen : Nat) : (e.applyCancel now gen).Law :=
  law_of_fewer (law_clearLapsed h now) rfl (fun _ hy => (Option.filter_eq_some_iff.mp hy).1) (fun _ hy => hy) rfl rfl rfl

theorem law_applyRelease {e : HandleEntry} (h : e.Law) (now : Nat) : (e.applyRelease now).Law :=
  law_of_fewer (law_clearLapsed h now) rfl (fun _ hy => hy) nofun rfl rfl rfl

/-- An entry without a generation keeps of the law what it says of the write in flight. -/
theorem law_applyRevoke {e : HandleEntry} (h : e.Law) (highest : Nat) (role : Option Role) : (e.applyRevoke highest role).Law := by
  obtain ⟨-, -, -, -, hflight⟩ := h
  have hcurrent : ∀ c, (e.applyRevoke highest role).current ≠ some c := fun _ hc => by cases hc
  have hstaged : ∀ y, (e.applyRevoke highest role).staged ≠ some y := fun _ hy => by cases hy
  have hretiring : ∀ y, (e.applyRevoke highest role).retiring ≠ some y := fun _ hy => by cases hy
  exact ⟨fun c hc => absurd hc (hcurrent c), fun y hy => absurd hy (hstaged y), fun y hy => absurd hy (hretiring y),
    fun _ _ c _ _ hc => absurd hc (hcurrent c), fun f hf => ⟨(hflight f hf).1.trans (Nat.le_max_left _ _),
      fun y hy => absurd hy (hstaged y), fun c hc => absurd hc (hcurrent c)⟩⟩

/-- The retiring record that a predecessor leaves carries its number (R102, R103). -/
theorem retire_gen {c : CurrentGen} {stamp grace : Nat} {y : RetiringGen} (h : c.retire stamp grace = some y) : y.gen = c.gen := by
  unfold CurrentGen.retire at h
  dsimp only at h
  split at h <;> cases h
  rfl

/-- Records that have lapsed are gone once they are cleared (R57). -/
theorem presentStaged_eq_none {e : HandleEntry} {tt : Nat} (h : ∀ y, e.staged = some y → y.deadline ≤ tt) :
    e.presentStaged tt = none := by
  rw [HandleEntry.presentStaged, Option.filter_eq_none_iff]
  intro y hy
  simpa using h y hy

theorem presentRetiring_eq_none {e : HandleEntry} {tt : Nat} (h : ∀ y, e.retiring = some y → y.graceEnd ≤ tt) :
    e.presentRetiring tt = none := by
  rw [HandleEntry.presentRetiring, Option.filter_eq_none_iff]
  intro y hy
  simpa using h y hy

theorem law_applyStaged {e : HandleEntry} (h : e.Law) {now gen : Nat} (loc : Location) {k : KeyRecord}
    (issuedAt signLimit deadline : Nat) (authority : AuthNo) (hgen : e.highestGen < gen) (hhighest : gen ≤ k.highestGen)
    (hretiring : ∀ y, e.retiring = some y → y.graceEnd ≤ now) :
    (e.applyStaged now gen loc k issuedAt signLimit deadline authority).Law := by
  obtain ⟨lcurrent, -, -, lpending, lflight⟩ := h
  have hnone : (e.applyStaged now gen loc k issuedAt signLimit deadline authority).retiring = none :=
    presentRetiring_eq_none hretiring
  have hmax : (e.applyStaged now gen loc k issuedAt signLimit deadline authority).highestGen = max e.highestGen k.highestGen := rfl
  refine ⟨fun c hc => ?_, fun y hy => ?_, fun y hy => (by cases hnone.symm.trans hy), lpending, fun f hf => ?_⟩
  · obtain ⟨hnext, hceiling, hle⟩ := lcurrent c hc
    exact ⟨hnext, hceiling, by omega⟩
  · obtain rfl := Option.some.inj hy
    exact ⟨by rw [hmax]; exact hhighest.trans (Nat.le_max_right _ _), hnone, fun c hc => (lcurrent c hc).2.2.trans_lt hgen⟩
  · obtain ⟨hle, -, hsame⟩ := lflight f hf
    refine ⟨by omega, fun y hy => ?_, hsame⟩
    obtain rfl := Option.some.inj hy
    exact hle.trans_lt hgen

/-- A new current generation at the head of the entry: what stays of its predecessors lies below it, and the pending write of
its predecessor is about to be discarded (R67, R102, R103). -/
theorem law_of_new_current {e e' : HandleEntry} (h : e.Law) {c : CurrentGen} (hcurrent : e'.current = some c)
    (hnext : c.txNext ≤ c.txCeiling) (hceiling : c.txCeiling ≤ c.signLimit) (hgen : c.gen ≤ e'.highestGen)
    (hstaged : e'.staged = none) (hretiring : ∀ y, e'.retiring = some y → y.gen < c.gen)
    (hhighest : e.highestGen ≤ e'.highestGen) (hflight : e'.counterFlight = e.counterFlight)
    (hbelow : ∀ f, e.counterFlight = some f → f.gen < c.gen) :
    HandleEntry.Law { e' with counterPending := none } := by
  obtain ⟨-, -, -, -, lflight⟩ := h
  refine ⟨fun d hd => ?_, fun y hy => ?_, fun y hy => ⟨c, hcurrent, hretiring y hy⟩, fun _ _ _ hw => (by cases hw), fun f hf => ?_⟩
  · obtain rfl := Option.some.inj (hcurrent.symm.trans hd)
    exact ⟨hnext, hceiling, hgen⟩
  · cases hstaged.symm.trans hy
  · have hf' : e.counterFlight = some f := hflight.symm.trans hf
    refine ⟨(lflight f hf').1.trans hhighest, fun y hy => (by cases hstaged.symm.trans hy), fun d hd hsame => ?_⟩
    obtain rfl := Option.some.inj (hcurrent.symm.trans hd)
    exact absurd hsame (hbelow f hf').ne'

/-- What a change of the current generation leaves retiring lies below every generation above the predecessor. -/
theorem retired_below {e : HandleEntry} {stamp grace gen : Nat} {other : Option RetiringGen}
    (hcurrent : ∀ c, e.current = some c → c.gen < gen) (hother : other = none) {y : RetiringGen}
    (hy : (match e.current with
      | some c => c.retire stamp grace
      | none => other) = some y) : y.gen < gen := by
  split at hy
  next c hc => exact retire_gen hy ▸ hcurrent c hc
  next => cases hother.symm.trans hy

theorem law_applyActive {e : HandleEntry} (h : e.Law) {now stamp gen : Nat} (loc : Location) {k : KeyRecord}
    {issuedAt signLimit txCeiling : Nat} (rxFloor : Option Nat) (grace : Nat) (hgen : e.highestGen < gen)
    (hhighest : gen ≤ k.highestGen) (hstaged : ∀ y, e.staged = some y → y.deadline ≤ now)
    (hretiring : ∀ y, e.retiring = some y → y.graceEnd ≤ now) (hceiling : txCeiling ≤ signLimit) :
    HandleEntry.Law { e.applyActive now stamp gen loc k issuedAt signLimit txCeiling rxFloor grace with
      counterPending := none } := by
  have hmax : (e.applyActive now stamp gen loc k issuedAt signLimit txCeiling rxFloor grace).highestGen =
      max e.highestGen k.highestGen := rfl
  refine law_of_new_current h rfl (Nat.zero_le _) hceiling (by rw [hmax]; exact hhighest.trans (Nat.le_max_right _ _))
    (presentStaged_eq_none hstaged) (fun y hy => ?_) (by omega) rfl fun f hf => ?_
  · exact retired_below (e := e) (fun c hc => (h.1 c hc).2.2.trans_lt hgen) (presentRetiring_eq_none hretiring) hy
  · obtain ⟨-, -, -, -, lflight⟩ := h
    exact (lflight f hf).1.trans_lt hgen

theorem law_applyConfirm_of_late {e : HandleEntry} (h : e.Law) {now stamp gen grace txCeiling : Nat}
    (hlate : e.confirmable stamp gen = none) : (e.applyConfirm now stamp gen grace txCeiling).Law := by
  rw [HandleEntry.applyConfirm, hlate]
  exact law_clearLapsed h now

theorem law_applyConfirm {e : HandleEntry} (h : e.Law) {now stamp gen grace txCeiling : Nat} {g : StagedGen}
    (htook : e.confirmable stamp gen = some g) (hceiling : txCeiling ≤ g.signLimit) :
    HandleEntry.Law { e.applyConfirm now stamp gen grace txCeiling with counterPending := none } := by
  obtain ⟨lcurrent, lstaged, -, -, lflight⟩ := id h
  have hstaged : e.staged = some g := (Option.filter_eq_some_iff.mp htook).1
  obtain ⟨hgen, hnone, hlt⟩ := lstaged g hstaged
  rw [HandleEntry.applyConfirm, htook]
  refine law_of_new_current h rfl (Nat.zero_le _) hceiling hgen rfl (fun y hy => ?_) le_rfl rfl fun f hf =>
    (lflight f hf).2.1 g hstaged
  refine retired_below (e := e) hlt ?_ hy
  rw [HandleEntry.presentRetiring, hnone, Option.filter_none]

/-- The values of the write in flight enter the generation that they belong to (R67). -/
theorem law_applyCounter {e : HandleEntry} (h : e.Law) {f : CounterFlight} (hf : e.counterFlight = some f) :
    HandleEntry.Law { e.applyCounter f.gen f.ceiling f.floor with counterFlight := none } := by
  obtain ⟨lcurrent, lstaged, lretiring, lpending, lflight⟩ := h
  obtain ⟨-, -, hsame⟩ := lflight f hf
  have hraised : ∀ d, (e.applyCounter f.gen f.ceiling f.floor).current = some d → ∃ c, e.current = some c ∧ d.gen = c.gen ∧
      d.signLimit = c.signLimit ∧ d.txNext ≤ d.txCeiling ∧ d.txCeiling ≤ d.signLimit := by
    intro d hd
    obtain ⟨c, hc, rfl⟩ := Option.map_eq_some_iff.mp hd
    obtain ⟨hnext, hceiling, -⟩ := lcurrent c hc
    split
    next hg =>
      obtain ⟨hle, hlimit⟩ := hsame c hc hg
      exact ⟨c, hc, rfl, rfl, hnext.trans hle, hlimit⟩
    next => exact ⟨c, hc, rfl, rfl, hnext, hceiling⟩
  refine ⟨fun d hd => ?_, fun y hy => ?_, fun y hy => ?_, fun w n d hw hn hd => ?_, fun _ hf => (by cases hf)⟩
  · obtain ⟨c, hc, hgen, -, hnext, hceiling⟩ := hraised d hd
    exact ⟨hnext, hceiling, hgen ▸ (lcurrent c hc).2.2⟩
  · obtain ⟨hgen, hnone, hlt⟩ := lstaged y hy
    refine ⟨hgen, hnone, fun d hd => ?_⟩
    obtain ⟨c, hc, hg, -⟩ := hraised d hd
    exact hg ▸ hlt c hc
  · obtain ⟨c, hc, hlt⟩ := lretiring y hy
    refine ⟨_, congrArg (Option.map _) hc, ?_⟩
    dsimp only
    split <;> exact hlt
  · obtain ⟨c, hc, -, hlimit, -⟩ := hraised d hd
    exact hlimit ▸ lpending w n c hw hn hc

/-- The write of a handle whose append starts carries values that fit its current generation (R66). -/
theorem law_of_flight {e : HandleEntry} (h : e.Law) {f : CounterFlight} (hf : e.flight = some f) :
    HandleEntry.Law { e with counterPending := none, counterFlight := some f } := by
  obtain ⟨lcurrent, lstaged, lretiring, lpending, -⟩ := h
  unfold HandleEntry.flight at hf
  split at hf
  next c w hc hw =>
    obtain rfl := Option.some.inj hf
    obtain ⟨-, hceiling, hgen⟩ := lcurrent c hc
    refine ⟨lcurrent, lstaged, lretiring, fun _ _ _ hw => (by cases hw), fun f hf => ?_⟩
    obtain rfl := Option.some.inj hf
    refine ⟨hgen, fun y hy => (lstaged y hy).2.2 c hc, fun d hd _ => ?_⟩
    obtain rfl := Option.some.inj (hc.symm.trans hd)
    refine ⟨Nat.le_max_left _ _, max_le hceiling ?_⟩
    cases hn : w.ceiling with
    | none => exact Nat.zero_le _
    | some n => exact lpending w n c hw hn hc
  next => cases hf

/-- A counter is issued below the ceiling (R74). -/
theorem law_of_issue {e : HandleEntry} (h : e.Law) {c : CurrentGen} (hc : e.current = some c) (hnext : c.txNext < c.txCeiling) :
    HandleEntry.Law { e with current := some { c with txNext := c.txNext + 1 } } := by
  obtain ⟨lcurrent, lstaged, lretiring, lpending, lflight⟩ := h
  obtain ⟨-, hceiling, hgen⟩ := lcurrent c hc
  refine ⟨fun d hd => ?_, fun y hy => ?_, fun y hy => ?_, fun w n d hw hn hd => ?_, fun f hf => ?_⟩
  · obtain rfl := Option.some.inj hd
    exact ⟨hnext, hceiling, hgen⟩
  · obtain ⟨hle, hnone, hlt⟩ := lstaged y hy
    refine ⟨hle, hnone, fun d hd => ?_⟩
    obtain rfl := Option.some.inj hd
    exact hlt c hc
  · obtain ⟨d, hd, hlt⟩ := lretiring y hy
    obtain rfl := Option.some.inj (hc.symm.trans hd)
    exact ⟨_, rfl, hlt⟩
  · obtain rfl := Option.some.inj hd
    exact lpending w n c hw hn hc
  · obtain ⟨hle, hlt, hsame⟩ := lflight f hf
    refine ⟨hle, hlt, fun d hd => ?_⟩
    obtain rfl := Option.some.inj hd
    exact hsame c hc

/-- A pending write may ask for a ceiling within the limit (R66, R77). -/
theorem law_of_pending {e : HandleEntry} (h : e.Law) (w : CounterWant)
    (hw : ∀ n c, w.ceiling = some n → e.current = some c → n ≤ c.signLimit) :
    HandleEntry.Law { e with counterPending := some w } := by
  obtain ⟨lcurrent, lstaged, lretiring, -, lflight⟩ := h
  refine ⟨lcurrent, lstaged, lretiring, fun v n c hv hn hc => ?_, lflight⟩
  obtain rfl := Option.some.inj hv
  exact hw n c hn hc


/-! ## Changes of the directory and of the store -/

/-- The queue that an append joins holds what it held and the append. -/
theorem mem_joinQueue {queue : List QueuedAppend} {q r : QueuedAppend} : r ∈ joinQueue queue q ↔ r ∈ queue ∨ r = q := by
  unfold joinQueue
  split
  · conv_rhs => rw [← List.takeWhile_append_dropWhile (p := QueuedAppend.isTamper) (l := queue)]
    simp only [List.mem_append, List.mem_singleton]
    tauto
  · rw [List.mem_append, List.mem_singleton]

/-- The ceiling that the reservation check asks for stays within the limit (R77). -/
theorem wantsRaise_le {e : HandleEntry} {n : Nat} {c : CurrentGen} (hn : e.wantsRaise = some n) (hc : e.current = some c) :
    n ≤ c.signLimit := by
  rw [HandleEntry.wantsRaise, hc] at hn
  dsimp only at hn
  split at hn
  · exact Option.some.inj hn ▸ Nat.min_le_right _ _
  · cases hn

section Chain

variable {s : State} (h : s.DirectoryLaw)
include h

/-- The record store stands, and no entry loses its law or its write in flight. -/
theorem State.DirectoryLaw.entries {t : State} (hlaw : ∀ a, (t.entry a).Law)
    (hflight : ∀ a, (t.entry a).counterFlight = (s.entry a).counterFlight) (hstore : t.store = s.store) : t.DirectoryLaw := by
  obtain ⟨-, hinhand, honce, hqueue⟩ := h
  refine ⟨hlaw, ?_, ?_, ?_⟩ <;> rw [hstore]
  · simpa only [hflight] using hinhand
  · exact honce
  · exact hqueue

/-- What leaves the directory and the record store keeps the law. -/
theorem State.DirectoryLaw.frame {t : State} (hdirectory : t.directory = s.directory) (hstore : t.store = s.store) :
    t.DirectoryLaw :=
  h.entries (fun a => State.entry_congr hdirectory a ▸ h.1 a) (fun a => by rw [State.entry_congr hdirectory]) hstore

/-- A change of one entry that keeps its law and its write in flight. -/
theorem State.DirectoryLaw.onEntry (a : HandleNo) (f : HandleEntry → HandleEntry) (hf : (f (s.entry a)).Law)
    (hflight : (f (s.entry a)).counterFlight = (s.entry a).counterFlight) : (s.onEntry a f).DirectoryLaw := by
  refine h.entries (fun b => ?_) (fun b => ?_) rfl
  · rw [State.entry_onEntry]
    split
    next hb => exact hb ▸ hf
    next => exact h.1 b
  · rw [State.entry_onEntry]
    split
    next hb => exact hb ▸ hflight
    next => rfl

/-- An entry whose write in flight has no record in hand may change it. -/
theorem State.DirectoryLaw.onEntry_of_no_record (a : HandleNo) (f : HandleEntry → HandleEntry) (hf : (f (s.entry a)).Law)
    (hfree : s.store.program = none ∧ s.store.retry = none) : (s.onEntry a f).DirectoryLaw := by
  obtain ⟨hlaw, hinhand, honce, hqueue⟩ := h
  obtain ⟨hprogram, hretry⟩ := hfree
  refine ⟨fun b => ?_, fun b hb => ?_, honce, hqueue⟩
  · rw [State.entry_onEntry]
    split
    next hb => exact hb ▸ hf
    next => exact hlaw b
  · rcases hb with ⟨p, hp, -⟩ | ⟨q, hq, -⟩
    · cases hprogram.symm.trans hp
    · cases hretry.symm.trans hq

/-- The record in hand stands, and no append of a new owner joins the queue. -/
theorem State.DirectoryLaw.records {t : State} (hdirectory : t.directory = s.directory)
    (hprogram : t.store.program = s.store.program) (hretry : t.store.retry = s.store.retry)
    (hqueue : ∀ r p, .owned r p ∈ t.store.queue → .owned r p ∈ s.store.queue ∨
      ∃ j, r = .package j ∨ r = .confirmByUse j ∨ r = .lock j) : t.DirectoryLaw := by
  obtain ⟨hlaw, hinhand, honce, howned⟩ := h
  refine ⟨fun a => State.entry_congr hdirectory a ▸ hlaw a, ?_, ?_, fun r p hr => (hqueue r p hr).elim (howned r p) id⟩
  · simp only [Store.holdsRecordOf, Store.payloadInHand, hprogram, hretry, State.entry_congr hdirectory]
    exact hinhand
  · rwa [hprogram, hretry]

theorem State.DirectoryLaw.onStore (f : Store → Store) (hprogram : (f s.store).program = s.store.program)
    (hretry : (f s.store).retry = s.store.retry)
    (hqueue : ∀ r p, .owned r p ∈ (f s.store).queue → .owned r p ∈ s.store.queue ∨
      ∃ j, r = .package j ∨ r = .confirmByUse j ∨ r = .lock j) : (s.onStore f).DirectoryLaw :=
  h.records rfl hprogram hretry hqueue

/-- The record store's program circuit falls free, and nothing joins the queue. -/
theorem State.DirectoryLaw.noRecord {t : State} (hdirectory : t.directory = s.directory) (hprogram : t.store.program = none)
    (hretry : t.store.retry = none) (hqueue : ∀ q ∈ t.store.queue, q ∈ s.store.queue) : t.DirectoryLaw := by
  obtain ⟨hlaw, hinhand, honce, howned⟩ := h
  refine ⟨fun a => State.entry_congr hdirectory a ▸ hlaw a, fun b hb => ?_, fun _ => hretry, fun r p hr =>
    howned r p (hqueue _ hr)⟩
  rcases hb with ⟨p, hp, -⟩ | ⟨q, hq, -⟩
  · cases hprogram.symm.trans hp
  · cases hretry.symm.trans hq

theorem State.DirectoryLaw.foldl {α : Type} {f : State → α → State} (hf : ∀ t a, t.DirectoryLaw → (f t a).DirectoryLaw)
    (l : List α) : (l.foldl f s).DirectoryLaw := by
  induction l generalizing s with
  | nil => exact h
  | cons a l ih => exact ih (hf s a h)

theorem State.DirectoryLaw.onPort (f : Port → Port) : (s.onPort f).DirectoryLaw := h.frame rfl rfl
theorem State.DirectoryLaw.onTime (f : TimeBase → TimeBase) : (s.onTime f).DirectoryLaw := h.frame rfl rfl
theorem State.DirectoryLaw.onTamper (f : Tamper → Tamper) : (s.onTamper f).DirectoryLaw := h.frame rfl rfl
theorem State.DirectoryLaw.onSupply (f : Supply → Supply) : (s.onSupply f).DirectoryLaw := h.frame rfl rfl
theorem State.DirectoryLaw.onReset (f : ResetState → ResetState) : (s.onReset f).DirectoryLaw := h.frame rfl rfl
theorem State.DirectoryLaw.onEngine (f : Engine → Engine) : (s.onEngine f).DirectoryLaw := h.frame rfl rfl
theorem State.DirectoryLaw.onCipher (f : Cipher → Cipher) : (s.onCipher f).DirectoryLaw := h.frame rfl rfl
theorem State.DirectoryLaw.onJob (j : JobId) (f : Job → Job) : (s.onJob j f).DirectoryLaw := h.frame rfl rfl
theorem State.DirectoryLaw.setStep (j : JobId) (x : JobStep) : (s.setStep j x).DirectoryLaw := h.frame rfl rfl
theorem State.DirectoryLaw.addNotes (j : JobId) (n : BitVec 16) : (s.addNotes j n).DirectoryLaw := h.frame rfl rfl
theorem State.DirectoryLaw.onAuthority (k : AuthNo) (f : Authority → Authority) : (s.onAuthority k f).DirectoryLaw :=
  h.frame rfl rfl

theorem State.DirectoryLaw.setSlotState (i : SlotId) (x : SlotState) : (s.setSlotState i x).DirectoryLaw := by
  cases i <;> exact h.frame rfl rfl

/-! ## The service of jobs -/

theorem State.DirectoryLaw.finishJob (j : JobId) (status : Status) (values : List Nat) :
    (s.finishJob j status values).DirectoryLaw := by
  cases hx : s.job j with
  | none => rwa [State.finishJob, hx]
  | some x =>
    have hentry := entry_finishJob hx status values
    obtain ⟨-, -, -, -, hstore, -⟩ := finishJob_sameElsewhere hx status values
    exact h.entries (fun a => hentry a ▸ h.1 a) (fun a => by rw [hentry]) hstore

theorem State.DirectoryLaw.finishUse (j : JobId) (status : Status) (values : List Nat) :
    (s.finishUse j status values).DirectoryLaw := by
  cases hx : s.job j with
  | none => rwa [State.finishUse, hx]
  | some x =>
    have hentry := entry_finishUse hx status values
    obtain ⟨-, -, -, -, hstore, -⟩ := finishUse_sameElsewhere hx status values
    exact h.entries (fun a => hentry a ▸ h.1 a) (fun a => by rw [hentry]) hstore

theorem State.DirectoryLaw.wake : s.wake.DirectoryLaw := by
  unfold State.wake
  split
  · exact h.onSupply _
  · exact h

theorem State.DirectoryLaw.wipe (i : SlotId) : (s.wipe i).DirectoryLaw := by
  unfold State.wipe
  split
  · exact h.setSlotState _ _
  · exact h

theorem State.DirectoryLaw.failFrontUse (i : Fin 4) (status : Status) : (s.failFrontUse i status).DirectoryLaw := by
  unfold State.failFrontUse
  split
  · exact h
  · split
    · exact h
    · split
      · exact h.finishUse _ _ _
      · exact h

/-! ## The cipher core -/

theorem State.DirectoryLaw.grant (r : Request) : (s.grant r).DirectoryLaw := by
  unfold State.grant State.grantUse
  repeat' split
  all_goals exact h.frame rfl rfl

theorem State.DirectoryLaw.requestCore (r : Request) : (s.requestCore r).DirectoryLaw := by
  unfold State.requestCore
  split
  · exact h.grant r
  · exact h.onCipher _

theorem State.DirectoryLaw.coreIdle : s.coreIdle.DirectoryLaw := by
  unfold State.coreIdle
  dsimp only
  split
  · exact h.onCipher _
  · exact ((h.onCipher _).onCipher _).grant _

/-! ## The append queue -/

theorem State.DirectoryLaw.failCounterWaiters (a : HandleNo) : (s.failCounterWaiters a).DirectoryLaw := by
  refine h.foldl (fun t j ht => ?_) _
  split
  · split
    · exact ht.finishUse _ _ _
    · exact ht
  · exact ht

theorem State.DirectoryLaw.releaseCounterWaiters (a : HandleNo) : (s.releaseCounterWaiters a).DirectoryLaw := by
  refine h.foldl (fun t j ht => ?_) _
  split
  · split
    · exact ht.setStep _ _
    · exact ht
  · exact ht

theorem State.DirectoryLaw.dropOrphan (a : Option HandleNo) : (s.dropOrphan a).DirectoryLaw := by
  cases a with
  | none => exact h
  | some a => exact h.onEntry a _ (h.1 a) rfl

/-- A refusal discards the write in flight of a COUNTER mark alone, whose record is no longer in hand (R131). -/
theorem State.DirectoryLaw.refuse (r : Requester) (a : Option HandleNo)
    (hfree : ∀ b, r = .counter b → s.store.program = none ∧ s.store.retry = none) : (s.refuse r a).DirectoryLaw := by
  cases r with
  | package j =>
    cases j with
    | none => exact h.dropOrphan _
    | some j => exact h.finishJob _ _ _
  | confirmByUse j =>
    cases j with
    | none => exact h.dropOrphan _
    | some j => exact h.finishUse _ _ _
  | lock j =>
    cases j with
    | none => exact h
    | some j => exact (h.addNotes _ _).finishJob _ _ _
  | counter b =>
    obtain ⟨lcurrent, lstaged, lretiring, lpending, -⟩ := h.1 b
    exact (h.onEntry_of_no_record b (fun e => { e with counterFlight := none })
      ⟨lcurrent, lstaged, lretiring, lpending, fun _ hf => (by cases hf)⟩ (hfree b rfl)).failCounterWaiters _
  | tamper i => exact h.onTamper _
  | timeMark => exact h.onTime _
  | _ => exact h

/-- The pending write of a handle may be discarded. -/
theorem State.DirectoryLaw.dropPending (a : HandleNo) :
    (s.onEntry a fun e => { e with counterPending := none }).DirectoryLaw := by
  obtain ⟨lcurrent, lstaged, lretiring, -, lflight⟩ := h.1 a
  exact h.onEntry a _ ⟨lcurrent, lstaged, lretiring, fun _ _ _ hw => (by cases hw), lflight⟩ rfl

theorem State.DirectoryLaw.refuseQueued (q : QueuedAppend)
    (hq : ∀ r p, q = .owned r p → ∃ j, r = .package j ∨ r = .confirmByUse j ∨ r = .lock j) :
    (s.refuseQueued q).DirectoryLaw := by
  cases q with
  | tamper i => exact h.refuse _ _ nofun
  | timeMark => exact h.refuse _ _ nofun
  | counter a => exact (h.dropPending a).failCounterWaiters a
  | owned r p =>
    refine h.refuse _ _ fun b hb => ?_
    obtain ⟨j, rfl | rfl | rfl⟩ := hq r p rfl <;> cases hb

theorem State.DirectoryLaw.askAppend (q : QueuedAppend)
    (hq : ∀ r p, q = .owned r p → ∃ j, r = .package j ∨ r = .confirmByUse j ∨ r = .lock j) :
    (s.askAppend q).DirectoryLaw := by
  unfold State.askAppend
  dsimp only
  split
  · exact h.wake.refuseQueued q hq
  · exact h.wake.onStore _ rfl rfl fun r p hr => (mem_joinQueue.mp hr).imp_right fun e => hq r p e.symm

theorem State.DirectoryLaw.askCounter (a : HandleNo) (ceiling floor : Option Nat)
    (hceiling : ∀ n c, ceiling = some n → (s.entry a).current = some c → n ≤ c.signLimit) :
    (s.askCounter a ceiling floor).DirectoryLaw := by
  unfold State.askCounter
  split
  · have hasked := h.onEntry a (fun e => { e with counterPending := some ⟨ceiling, floor⟩ })
      (law_of_pending (h.1 a) ⟨ceiling, floor⟩ hceiling) rfl
    exact hasked.askAppend (.counter a) fun _ _ e => (by cases e)
  next w hw =>
    refine h.onEntry a _ (law_of_pending (h.1 a) ⟨_, _⟩ fun n c hn hc => ?_) rfl
    obtain ⟨-, -, -, lpending, -⟩ := h.1 a
    cases hwanted : w.ceiling with
    | none =>
      rw [hwanted] at hn
      exact hceiling n c hn hc
    | some m =>
      have hm := lpending w m c hw hwanted hc
      rw [hwanted] at hn
      cases ceiling with
      | none => exact Option.some.inj hn ▸ hm
      | some k => exact Option.some.inj hn ▸ max_le hm (hceiling k c rfl hc)

theorem State.DirectoryLaw.reservationCheck (a : HandleNo) : (s.reservationCheck a).DirectoryLaw := by
  unfold State.reservationCheck
  split
  · exact h
  next n hn => exact h.askCounter a _ _ fun m c hm hc => Option.some.inj hm ▸ wantsRaise_le hn hc

theorem State.DirectoryLaw.floorCheck (a : HandleNo) : (s.floorCheck a).DirectoryLaw := by
  unfold State.floorCheck
  split
  · exact h
  · exact h.askCounter a _ _ nofun

/-! ## Slots -/

theorem State.DirectoryLaw.startRead (i : SlotId) : (s.startRead i).DirectoryLaw := by
  unfold State.startRead
  split
  · split
    · exact h
    · split
      · exact h
      · exact h.setSlotState _ _
  · exact h

theorem State.DirectoryLaw.startOpening (i : SlotId) (a : HandleNo) (gen : Nat) : (s.startOpening i a gen).DirectoryLaw :=
  (h.setSlotState _ _).startRead _

theorem State.DirectoryLaw.failOpening (i : SlotId) (status : Status) : (s.failOpening i status).DirectoryLaw := by
  unfold State.failOpening
  have hempty := h.setSlotState i .empty
  dsimp only
  split
  · exact hempty
  · exact hempty.finishJob _ _ _

theorem State.DirectoryLaw.serveOpen (i : Fin 4) (j : JobId) (x : Job) : (s.serveOpen i j x).DirectoryLaw := by
  unfold State.serveOpen
  dsimp only
  split
  · exact h.finishJob _ _ _
  · split
    · split
      · exact ((h.addNotes _ _).finishJob _ _ _).frame rfl rfl
      · exact h.finishJob _ _ _
    · exact (h.setStep _ _).startOpening _ _ _

theorem State.DirectoryLaw.issueCounter (j : JobId) (a : HandleNo) {c : CurrentGen} (hc : (s.entry a).current = some c)
    (hnext : c.txNext < c.txCeiling) : (s.issueCounter j a c).DirectoryLaw := by
  have hissued := h.onEntry a (fun e => { e with current := some { c with txNext := c.txNext + 1 } })
    (law_of_issue (h.1 a) hc hnext) rfl
  exact ((hissued.onJob j _).reservationCheck a).requestCore _

theorem State.DirectoryLaw.serveSign (j : JobId) (x : Job) (gen : Nat) : (s.serveSign j x gen).DirectoryLaw := by
  unfold State.serveSign
  split
  · exact h.finishUse _ _ _
  next c hc =>
    split
    next hnext => exact h.issueCounter _ _ (judgeSign_ok hc) hnext
    next => exact (h.setStep _ _).reservationCheck _

theorem State.DirectoryLaw.serveCheck (j : JobId) (x : Job) (st : Standing) : (s.serveCheck j x st).DirectoryLaw := by
  unfold State.serveCheck
  dsimp only
  split
  · exact h.finishUse _ _ _
  · exact (h.setStep _ _).requestCore _

theorem State.DirectoryLaw.serveUse (i : Fin 4) (j : JobId) (x : Job) (a : HandleNo) (gen : Nat) :
    (s.serveUse i j x a gen).DirectoryLaw := by
  unfold State.serveUse
  have hmatched := h.onJob j fun x => { x with matched := true, gen := gen }
  split
  · exact h.finishUse _ _ _
  · dsimp only
    split
    · exact (hmatched.wipe _).finishUse _ _ _
    · split
      · exact hmatched.serveSign _ _ _
      · exact hmatched.serveCheck _ _ _

theorem State.DirectoryLaw.serveFront {i : Fin 4} {u : State} (hu : s.serveFront i = some u) : u.DirectoryLaw := by
  unfold State.serveFront at hu
  repeat' split at hu
  all_goals cases hu
  · exact h.serveOpen _ _ _
  · exact h.finishJob _ _ _
  · exact h.wipe _
  · exact h.finishUse _ _ _
  · exact h.finishUse _ _ _
  · exact h.serveUse _ _ _ _ _
  · exact h.serveUse _ _ _ _ _

theorem State.DirectoryLaw.latchWipe (i : Fin 4) : (s.latchWipe i).DirectoryLaw := by
  unfold State.latchWipe
  split
  · split
    · exact (h.wipe _).foldl (fun t j ht => ht.finishUse _ _ _) _
    · exact h
  · exact h

theorem State.DirectoryLaw.latchWipes : s.latchWipes.DirectoryLaw := by
  have hwiped := h.foldl (fun t i ht => ht.latchWipe i) allSlots
  unfold State.latchWipes
  dsimp only
  split
  · split
    · exact hwiped.wipe _
    · exact hwiped
  · exact hwiped

theorem State.DirectoryLaw.revokeWipe (a : HandleNo) (i : Fin 4) : (s.revokeWipe a i).DirectoryLaw := by
  unfold State.revokeWipe
  split
  · split
    · exact (h.wipe _).failFrontUse _ _
    · exact h
  · split
    · exact (h.onCipher _).failOpening _ _
    · exact h
  · split
    · exact (h.onCipher _).failOpening _ _
    · exact h
  · exact h

theorem State.DirectoryLaw.revokeWipes (a : HandleNo) : (s.revokeWipes a).DirectoryLaw := by
  have hwiped := h.foldl (fun t i ht => ht.revokeWipe a i) allSlots
  unfold State.revokeWipes
  dsimp only
  split
  · split
    · exact hwiped.wipe _
    · exact hwiped
  · exact hwiped

end Chain

/-- The discard of stale counter writes needs of the entry the law without its pending write (R67). -/
theorem directoryLaw_staleCounters {t : State} {a : HandleNo}
    (ht : (t.onEntry a fun e => { e with counterPending := none }).DirectoryLaw) : (t.staleCounters a).DirectoryLaw :=
  (ht.onStore (fun u => { u with queue := u.queue.filter fun q => q != .counter a }) rfl rfl
    fun _ _ hr => .inl (List.mem_of_mem_filter hr)).releaseCounterWaiters a


/-! ## What FAULT, the end of a program and the COPY leave -/

/-- The state in which FAULT refuses the record that it gave up and the queued appends: the program is given up, and the store
is in FAULT with nothing in hand and nothing queued (R131). -/
def State.inFault (s : State) : State :=
  (if s.store.fault then s else s.raise alertStoreFault).giveUpProgram.onStore fun t =>
    { t.stopReclaim with fault := true, queue := [], retry := none }

theorem enterFault_eq (s : State) : s.enterFault =
    s.store.queue.foldl State.refuseQueued (s.store.recordsInHand.foldl (fun s r => s.refuse r.1 r.2) s.inFault) := rfl

/-- The end of a program leaves the directory, the record that waits for a retry and the queue (R130). -/
theorem endProgram_reads (s : State) (loc : Location) (row : Row) : (s.endProgram loc row).directory = s.directory ∧
    (s.endProgram loc row).store.program = none ∧ (s.endProgram loc row).store.retry = s.store.retry ∧
    (s.endProgram loc row).store.queue = s.store.queue := by
  rw [endProgram_eq]
  refine ⟨rfl, rfl, ?_⟩
  dsimp only
  unfold Store.advanceHead
  split
  · exact ⟨rfl, rfl⟩
  · split <;> exact ⟨rfl, rfl⟩

theorem stopReclaim_program (t : Store) : t.stopReclaim.program = t.program := by
  unfold Store.stopReclaim
  split
  · rfl
  · split <;> rfl
  · rfl

theorem inFault_reads (s : State) : s.inFault.directory = s.directory ∧ s.inFault.store.program = none ∧
    s.inFault.store.retry = none ∧ s.inFault.store.queue = [] := by
  refine ⟨?_, (stopReclaim_program _).trans ?_, rfl, rfl⟩
  · unfold State.inFault State.giveUpProgram
    split <;> split <;> rfl
  · unfold State.giveUpProgram
    split
    next hp => exact hp
    next => exact (endProgram_reads _ _ _).2.1

/-- The stage of a COPY is no matter of the record in hand or of the queue. -/
theorem setCopyStage_reads (t : Store) (stage : CopyStage) : (t.setCopyStage stage).program = t.program ∧
    (t.setCopyStage stage).retry = t.retry ∧ (t.setCopyStage stage).queue = t.queue := by
  unfold Store.setCopyStage
  split <;> exact ⟨rfl, rfl, rfl⟩

section Chain

variable {s : State} (h : s.DirectoryLaw)
include h

/-! ## The package lane -/

theorem State.DirectoryLaw.askPackage (j : JobId) (x : Job) : (s.askPackage j x).DirectoryLaw := by
  refine (h.setStep j .recordStore).askAppend _ fun r p e => ?_
  cases e
  exact ⟨_, .inl rfl⟩

theorem State.DirectoryLaw.laneEnter (j : JobId) (x : Job) : (s.laneEnter j x).DirectoryLaw := by
  have hentered := h.onEngine fun e => { e with lane := some j, laneWaiting := e.laneWaiting.filter (· != j) }
  unfold State.laneEnter
  dsimp only
  split
  · exact hentered.finishJob _ _ _
  · split
    · exact hentered.setStep _ _
    · exact hentered.finishJob _ _ _

theorem State.DirectoryLaw.tagFailure (j : JobId) (x : Job) : (s.tagFailure j x).DirectoryLaw := by
  have hcounted := h.onAuthority (pkgAuth x.input) fun a =>
    { a with failCount := min ((s.authority (pkgAuth x.input)).failCount + 1) 255 }
  unfold State.tagFailure
  dsimp only
  split
  · refine ((hcounted.onAuthority _ _).setStep _ _).askAppend _ fun r p e => ?_
    cases e
    exact ⟨_, .inr (.inr rfl)⟩
  · exact hcounted.finishJob _ _ _

theorem State.DirectoryLaw.joinWriteList (a : HandleNo) (w : WriteEntry) : (s.joinWriteList a w).DirectoryLaw :=
  h.onEntry a _ (h.1 a) rfl

theorem State.DirectoryLaw.laneRights (j : JobId) (x : Job) : (s.laneRights j x).DirectoryLaw := by
  unfold State.laneRights
  dsimp only
  split
  · exact h.finishJob _ _ _
  · split
    · exact (h.setStep _ _).joinWriteList _ _
    · exact h.askPackage _ _

theorem State.DirectoryLaw.afterRelease (j : JobId) (x : Job) (next : AfterRelease) : (s.afterRelease j x next).DirectoryLaw := by
  unfold State.afterRelease
  split
  · exact h.laneRights _ _
  · split
    · exact h.setStep _ _
    · exact h.tagFailure _ _
  · exact h.askPackage _ _
  · exact h.finishJob _ _ _

theorem State.DirectoryLaw.packageFront (j : JobId) (x : Job) : (s.packageFront j x).DirectoryLaw := by
  unfold State.packageFront
  dsimp only
  split
  · exact h.finishJob _ _ _
  · split
    · split
      · exact h.setStep _ _
      · exact h.finishJob _ _ _
    · exact h.askPackage _ _

theorem State.DirectoryLaw.confirmFront (j : JobId) (x : Job) : (s.confirmFront j x).DirectoryLaw := by
  unfold State.confirmFront
  split
  · refine (h.setStep _ _).askAppend _ fun r p e => ?_
    cases e
    exact ⟨_, .inr (.inl rfl)⟩
  · exact h.finishUse _ _ _

/-! ## Settling -/

theorem State.DirectoryLaw.writeFront {j : JobId} {u : State} (hu : s.writeFront j = some u) : u.DirectoryLaw := by
  unfold State.writeFront at hu
  repeat' split at hu
  all_goals cases hu
  · exact h.packageFront _ _
  · exact h.confirmFront _ _

theorem State.DirectoryLaw.laneStep {u : State} (hu : s.laneStep = some u) : u.DirectoryLaw := by
  unfold State.laneStep at hu
  repeat' split at hu
  all_goals cases hu
  · exact h.afterRelease _ _ _
  · exact h.startOpening _ _ _
  · exact h.laneEnter _ _

theorem State.DirectoryLaw.internalStep {u : State} (hu : s.internalStep = some u) : u.DirectoryLaw := by
  unfold State.internalStep at hu
  simp only [Option.or_eq_some_iff] at hu
  rcases hu with (hu | ⟨-, hu⟩) | ⟨-, hu⟩
  · obtain ⟨j, -, hj⟩ := List.exists_of_findSome?_eq_some hu
    exact h.writeFront hj
  · exact h.laneStep hu
  · obtain ⟨i, -, hi⟩ := List.exists_of_findSome?_eq_some hu
    exact h.serveFront hi

theorem State.DirectoryLaw.settle : s.settle.DirectoryLaw := by
  have hfor : ∀ n (t : State), t.DirectoryLaw → (State.settleFor n t).DirectoryLaw := fun n => by
    induction n with
    | zero => exact fun _ ht => ht
    | succ n ih =>
      intro t ht
      rw [State.settleFor]
      split
      · exact ht
      next u hu => exact ih u (ht.internalStep hu)
  exact hfor 64 s h

/-! ## Faults -/

/-- The program in flight ends: no record is in hand (R130). -/
theorem State.DirectoryLaw.endProgram (loc : Location) (row : Row) (hretry : s.store.retry = none) :
    (s.endProgram loc row).DirectoryLaw := by
  obtain ⟨hdirectory, hprogram, hretry', hqueue⟩ := endProgram_reads s loc row
  exact h.noRecord hdirectory hprogram (hretry'.trans hretry) fun q hq => hqueue ▸ hq

/-- The store in FAULT: what it had in hand and what waited is refused, and no record is in hand any more (R131). -/
theorem State.DirectoryLaw.enterFault : s.enterFault.DirectoryLaw := by
  obtain ⟨hdirectory, hprogram, hretry, hqueue⟩ := inFault_reads s
  have hgiven : s.inFault.DirectoryLaw :=
    h.noRecord hdirectory hprogram hretry fun q hq => absurd (hqueue ▸ hq) List.not_mem_nil
  have hrefused : (s.store.recordsInHand.foldl (fun s r => s.refuse r.1 r.2) s.inFault).DirectoryLaw := by
    refine (List.foldlRecOn (motive := fun u : State => u.DirectoryLaw ∧ u.store.program = none ∧
      u.store.retry = none) s.store.recordsInHand (fun s r => s.refuse r.1 r.2) ⟨hgiven, hprogram, hretry⟩ ?_).1
    rintro u ⟨hu, hprogram, hretry⟩ r -
    have hstore := ((Served.refl u).refuse r.1 r.2).store
    exact ⟨hu.refuse _ _ fun _ _ => ⟨hprogram, hretry⟩, (congrArg Store.program hstore :).trans hprogram,
      (congrArg Store.retry hstore :).trans hretry⟩
  rw [enterFault_eq]
  refine List.foldlRecOn (motive := State.DirectoryLaw) s.store.queue State.refuseQueued hrefused fun u hu q hq => ?_
  exact hu.refuseQueued q fun r p e => h.2.2.2 r p (e ▸ hq)

/-! ## Durable rows -/

theorem State.DirectoryLaw.staleCounters (a : HandleNo) : (s.staleCounters a).DirectoryLaw :=
  directoryLaw_staleCounters (h.dropPending a)

/-- The effect of a durable record that fits the entry of its handle (R98). -/
theorem State.DirectoryLaw.applyPackageRecord (loc : Location) (stamp : Nat) (r : Record)
    (hfits : ∀ a, r.handle? = some a → r.Fits (s.entry a) s.time.tt) : (s.applyPackageRecord loc stamp r).DirectoryLaw := by
  have hchanged : ∀ (a : HandleNo) (f : HandleEntry → HandleEntry),
      HandleEntry.Law { f (s.entry a) with counterPending := none } →
      (f (s.entry a)).counterFlight = (s.entry a).counterFlight → ((s.onEntry a f).staleCounters a).DirectoryLaw :=
    fun a f hf hflight => directoryLaw_staleCounters (by
      rw [onEntry_onEntry]
      exact h.onEntry a _ hf hflight)
  cases r with
  | key a gen k =>
    obtain ⟨hgen, hhighest, hstaged, hretiring, hceiling⟩ := hfits a rfl
    unfold State.applyPackageRecord
    dsimp only
    split
    · exact h.onEntry a _ (law_applyStaged (h.1 a) loc _ _ _ _ hgen hhighest hretiring) rfl
    next issuedAt signLimit txCeiling rxFloor grace hactive =>
      exact hchanged a _ (law_applyActive (h.1 a) loc _ _ hgen hhighest hstaged hretiring (hceiling _ _ _ _ _ hactive)) rfl
    · exact h
  | confirm a gen grace ceiling =>
    unfold State.applyPackageRecord
    dsimp only
    have hflight : ∀ e : HandleEntry, (e.applyConfirm s.time.tt stamp gen grace ceiling).counterFlight = e.counterFlight :=
      fun e => by unfold HandleEntry.applyConfirm; split <;> rfl
    cases htook : (s.entry a).confirmable stamp gen with
    | none =>
      exact h.onEntry a (fun e => e.applyConfirm s.time.tt stamp gen grace ceiling) (law_applyConfirm_of_late (h.1 a) htook)
        (hflight _)
    | some g =>
      obtain ⟨hstaged, hg⟩ := Option.filter_eq_some_iff.mp htook
      rw [Bool.and_eq_true, decide_eq_true_eq] at hg
      exact hchanged a (fun e => e.applyConfirm s.time.tt stamp gen grace ceiling)
        (law_applyConfirm (h.1 a) htook (hfits a rfl g hstaged hg.1)) (hflight _)
  | cancel a gen => exact h.onEntry a _ (law_applyCancel (h.1 a) _ _) rfl
  | release a gen => exact h.onEntry a _ (law_applyRelease (h.1 a) _) rfl
  | revoke a gen highest role =>
    exact ((h.onEntry a _ (law_applyRevoke (h.1 a) highest role) rfl).revokeWipes a).staleCounters a
  | setup cover field final =>
    cases final <;> exact h.frame rfl rfl
  | time offered => cases offered <;> exact h.frame rfl rfl
  | authority | custody | unlock | counter | tamper | reclaim => exact h.frame rfl rfl

theorem State.DirectoryLaw.acceptPackage (header : RowHeader) : (s.acceptPackage header).DirectoryLaw := by
  unfold State.acceptPackage
  split
  · exact h.onAuthority _ _
  · exact h

/-- The completion of the write in flight, which carries the values that the entry holds for it (R66, R67). -/
theorem State.DirectoryLaw.completeCounter (a : HandleNo) {f : CounterFlight} (hf : (s.entry a).counterFlight = some f)
    (hfree : s.store.program = none ∧ s.store.retry = none) :
    (s.completeCounter a (.counter a f.gen f.ceiling f.floor)).DirectoryLaw :=
  ((h.onEntry_of_no_record a (fun e => { e.applyCounter f.gen f.ceiling f.floor with counterFlight := none })
    (law_applyCounter (h.1 a) hf) hfree).releaseCounterWaiters a).reservationCheck a

theorem State.DirectoryLaw.applyDurable (r : Requester) (loc : Location) (d : RowData)
    (hfits : ∀ a, d.record.handle? = some a → ((∃ j, r = .package j ∨ r = .confirmByUse j) ∨ ∃ x, r = .foldRevoke x) →
      d.record.Fits (s.entry a) s.time.tt)
    (hcounter : ∀ a, r = .counter a → ∃ f, (s.entry a).counterFlight = some f ∧ d.record = .counter a f.gen f.ceiling f.floor)
    (hfree : s.store.program = none ∧ s.store.retry = none) : (s.applyDurable r loc d).DirectoryLaw := by
  cases r with
  | package job =>
    have haccepted := (h.applyPackageRecord loc d.stamp d.record fun a ha => hfits a ha (.inl ⟨_, .inl rfl⟩)).acceptPackage d.header
    cases job with
    | none => exact haccepted.dropOrphan _
    | some j =>
      unfold State.applyDurable State.completePackage
      dsimp only
      split
      · exact haccepted
      · split
        · exact haccepted.finishJob _ _ _
        · exact haccepted.finishJob _ _ _
  | confirmByUse job =>
    have hconfirmed := h.applyPackageRecord loc d.stamp d.record fun a ha => hfits a ha (.inl ⟨_, .inr rfl⟩)
    cases job with
    | none => exact hconfirmed.dropOrphan _
    | some j =>
      unfold State.applyDurable State.completeConfirm
      dsimp only
      split
      · exact hconfirmed
      · split
        · exact hconfirmed.finishUse _ _ _
        · exact (hconfirmed.addNotes _ _).finishUse _ _ _
  | lock job =>
    cases job with
    | none => exact h
    | some j => exact (h.addNotes _ _).finishJob _ _ _
  | counter a =>
    obtain ⟨f, hf, hrecord⟩ := hcounter a rfl
    rw [State.applyDurable, hrecord]
    exact h.completeCounter a hf hfree
  | tamper i => exact h.onTamper _
  | timeMark => exact h.onTime _
  | foldKey a gen => exact h.onEntry a _ (law_moveLocation (h.1 a) gen loc) rfl
  | foldRevoke a => exact h.applyPackageRecord loc d.stamp d.record fun a ha => hfits a ha (.inr ⟨_, rfl⟩)
  | copyAsIs | rewrite => exact h
  | reclaimMark b =>
    unfold State.applyDurable State.completeReclaimMark
    dsimp only
    split <;> exact h.onStore _ rfl rfl fun _ _ hr => .inl hr

/-! ## Programs and the COPY -/

/-- A program starts with the circuit free; a COUNTER mark carries the values in flight of its handle (R66, R130). -/
theorem State.DirectoryLaw.startProgram (r : Requester) (p : Payload) (failures : Nat) (hretry : s.store.retry = none)
    (hcounter : ∀ a, r = .counter a → ∃ f header, (s.entry a).counterFlight = some f ∧
      p = .plain header (.counter a f.gen f.ceiling f.floor)) : (s.startProgram r p failures).DirectoryLaw := by
  obtain ⟨hlaw, -, -, hqueue⟩ := h
  refine ⟨hlaw, fun a ha => ?_, fun _ => hretry, hqueue⟩
  have hr : r = .counter a := by
    rcases ha with ⟨q, hq, ha⟩ | ⟨q, hq, -⟩
    · cases hq
      exact ha
    · cases hretry.symm.trans hq
  obtain ⟨f, header, hf, rfl⟩ := hcounter a hr
  refine ⟨f, header, hf, rfl, fun q hq => ?_⟩
  cases hq
  rfl

theorem State.DirectoryLaw.startQueued (q : QueuedAppend) (hq : q ∈ s.store.queue) (hprogram : s.store.program = none)
    (hretry : s.store.retry = none) : (s.startQueued q).DirectoryLaw := by
  have hleft := h.onStore (fun t => { t with queue := t.queue.erase q }) rfl rfl fun _ _ hr => .inl (List.mem_of_mem_erase hr)
  unfold State.startQueued
  dsimp only
  cases q with
  | tamper i => exact (hleft.onTamper _).startProgram _ _ _ hretry nofun
  | timeMark => exact (hleft.onTime _).startProgram _ _ _ hretry nofun
  | counter a =>
    dsimp only
    split
    · exact hleft
    next f hf =>
      refine (hleft.onEntry_of_no_record a (fun e => { e with counterPending := none, counterFlight := some f })
        (law_of_flight (h.1 a) hf) ⟨hprogram, hretry⟩).startProgram _ _ _ hretry fun b hb => ?_
      cases hb
      exact ⟨f, _, by rw [State.entry_onEntry_self], rfl⟩
  | owned r p =>
    refine hleft.startProgram _ _ _ hretry fun b hb => ?_
    obtain ⟨j, hj⟩ := h.2.2.2 r p hq
    rcases hj with rfl | rfl | rfl <;> cases hb

theorem State.DirectoryLaw.setCopyStage (stage : CopyStage) : (s.onStore fun t => t.setCopyStage stage).DirectoryLaw := by
  obtain ⟨hprogram, hretry, hqueue⟩ := setCopyStage_reads s.store stage
  exact h.onStore _ hprogram hretry fun _ _ hr => .inl (hqueue ▸ hr)

theorem State.DirectoryLaw.foldReadStart : s.foldReadStart.DirectoryLaw := by
  unfold State.foldReadStart
  split
  · split
    · exact h.enterFault.settle
    · split
      · exact h
      · exact h.setCopyStage _
  · exact h

theorem State.DirectoryLaw.copyAdvance : s.copyAdvance.DirectoryLaw := by
  unfold State.copyAdvance
  split
  · split
    · exact (h.onStore _ rfl rfl fun _ _ hr => .inl hr).foldReadStart
    · exact h
  · exact h

end Chain

/-! ## Resets, intake and events -/

/-- No row of a COPY is a COUNTER mark's. -/
theorem copyContent_requester {s : State} {tail : BankNo} {r : CopyRow} {q : Requester} {p : Payload}
    (h : s.copyContent tail r = some (q, p)) (a : HandleNo) : q ≠ .counter a := by
  cases r with
  | foldKey b g material =>
    obtain ⟨k, -, hk⟩ := Option.map_eq_some_iff.mp h
    cases hk
    nofun
  | foldRevoke | asIs | rewrite | reclaimMark =>
    cases h
    nofun

section Chain

variable {s : State} (h : s.DirectoryLaw)
include h

/-! ## Resets and supply -/

theorem State.DirectoryLaw.abandonErases : s.abandonErases.DirectoryLaw := by
  have hended : ∀ t : Store, t.cancelErasing.endErasePhase.program = t.program ∧ t.cancelErasing.endErasePhase.retry = t.retry ∧
      t.cancelErasing.endErasePhase.queue = t.queue := fun t => by
    unfold Store.endErasePhase
    split <;> exact ⟨rfl, rfl, rfl⟩
  have habandoned : s.abandonErase.DirectoryLaw := by
    unfold State.abandonErase
    split
    · exact h
    · exact h.records rfl rfl rfl fun _ _ hr => .inl hr
  obtain ⟨hprogram, hretry, hqueue⟩ := hended s.abandonErase.store
  exact habandoned.onStore _ hprogram hretry fun _ _ hr => .inl (hqueue ▸ hr)

theorem State.DirectoryLaw.setPower (p : Power) : (s.setPower p).DirectoryLaw := by
  unfold State.setPower
  split
  · exact (h.onSupply _).abandonErases
  · exact h.onSupply _

/-- A warm reset leaves of the entries all but the write lists, and of the record in hand all but its job (R71, R140). -/
theorem State.DirectoryLaw.beginWarmReset (cause : ResetCause) : (s.beginWarmReset cause).DirectoryLaw := by
  obtain ⟨draws, he⟩ := beginWarmReset_eq s cause
  have hstore : (s.beginWarmReset cause).store = s.eraseGivenUp.cancelErasing.endErasePhase.afterReset := by rw [he]
  have hentry : ∀ a, (s.beginWarmReset cause).entry a = (s.entry a).afterReset s.store.jobInProgram := fun a => by
    rw [he]
    exact mapVector_getElem _ s.directory a.val a.isLt
  have haborted : ∀ (r : Requester) a, r.aborted = .counter a → r = .counter a := fun r a e => by
    cases r <;> first | exact e | cases e
  obtain ⟨hlaw, hinhand, honce, hqueue⟩ := h
  rw [store_afterReset, eraseGivenUp_eq] at hstore
  refine ⟨fun a => hentry a ▸ hlaw a, fun a ha => ?_, fun hp => ?_, fun r p hr => ?_⟩
  · have hheld : s.store.holdsRecordOf (.counter a) := by
      rw [hstore] at ha
      refine ha.imp (fun ⟨p, hp, hr⟩ => ?_) fun ⟨q, hq, hr⟩ => ?_
      · obtain ⟨p', hp', rfl⟩ := Option.map_eq_some_iff.mp hp
        exact ⟨p', hp', haborted _ _ hr⟩
      · obtain ⟨q', hq', rfl⟩ := Option.map_eq_some_iff.mp hq
        exact ⟨q', hq', haborted _ _ hr⟩
    obtain ⟨f, header, hf, hpayload, hrecord⟩ := hinhand a hheld
    refine ⟨f, header, by rw [hentry]; exact hf, ?_, fun p hp => ?_⟩
    · rw [hstore, ← hpayload]
      unfold Store.payloadInHand
      dsimp only
      cases s.store.program with
      | some p => rfl
      | none => cases s.store.retry <;> rfl
    · rw [hstore] at hp
      obtain ⟨p', hp', rfl⟩ := Option.map_eq_some_iff.mp hp
      exact hrecord p' hp'
  · rw [hstore] at hp ⊢
    rw [Option.isSome_map] at hp
    exact congrArg (Option.map _) (honce hp)
  · rw [hstore] at hr
    cases (List.mem_filter.mp hr).2

theorem State.DirectoryLaw.judgeBytes (a : Nat) (bytes : List Byte) : (s.judgeBytes a bytes).DirectoryLaw := by
  induction bytes generalizing s a with
  | nil => exact h
  | cons v vs ih =>
    refine ih (?_ : (if isStateByte a then s.judgeStateByte (cardAt a) v else s).DirectoryLaw) (a + 1)
    split
    · exact h.wake.onPort _
    · exact h

theorem State.DirectoryLaw.hostWrite (a : Nat) (bytes : List Byte) : (s.hostWrite a bytes).DirectoryLaw := by
  have hjudged := (h.onPort fun p => p.storeBytes a bytes).judgeBytes a bytes
  unfold State.hostWrite
  dsimp only
  split
  · exact hjudged.beginWarmReset _
  · exact hjudged

/-! ## Intake -/

theorem State.DirectoryLaw.course (k : Kind) (j : JobId) (x : Job) : (k.course j x s).DirectoryLaw := by
  have hjoin : (s.joinSlot j x).DirectoryLaw := h.frame rfl rfl
  cases k with
  | openKey | closeSlot | sign | check => exact hjoin.settle
  | query =>
    unfold Kind.course State.serveQuery
    have hdone := h.finishJob j .ok ((s.entry x.handle).queryValues s.time.tt)
    dsimp only
    split
    · exact hdone.onEntry _ _ (hdone.1 _) rfl
    · exact hdone
  | package =>
    unfold Kind.course State.servePackage
    dsimp only
    split
    · exact ((h.setStep _ _).onEngine _).settle
    · exact h.finishJob _ _ _
  | time => exact ((h.onTime _).addNotes _ _).finishJob _ _ _
  | settings => exact State.DirectoryLaw.finishJob (s := s.withSettings x) (h.frame rfl rfl) _ _ _
  | windows => exact (h.onPort _).finishJob _ _ _

theorem State.DirectoryLaw.takeKind (k : Kind) : (s.takeKind k k.course).DirectoryLaw := by
  unfold State.takeKind
  split
  · exact h
  · split
    next n j _ _ =>
      have htaken : ((s.onPort fun p => p.take n).setJob j (some (s.snapshot n k))).DirectoryLaw := h.frame rfl rfl
      unfold State.takeCard
      dsimp only
      split
      · exact htaken.finishJob _ _ _
      · exact htaken.course _ _ _
    · exact h

/-! ## The events of uses -/

theorem State.DirectoryLaw.slotReadStart (i : SlotId) : (s.slotReadStart i).DirectoryLaw := by
  unfold State.slotReadStart
  split
  · split
    · exact (h.failOpening _ _).settle
    · exact h.startRead _
  · exact h

theorem State.DirectoryLaw.keyRowRead (i : SlotId) (crcOk : Bool) : (s.keyRowRead i crcOk).DirectoryLaw := by
  unfold State.keyRowRead
  split
  · split
    · exact (h.failOpening _ _).settle
    · exact (h.setSlotState _ _).requestCore _
  · exact h

theorem State.DirectoryLaw.laneKeyOpen : s.laneKeyOpen.DirectoryLaw := by
  unfold State.laneKeyOpen
  split
  · exact h
  · split
    · exact h
    · split
      · exact (h.setStep _ _).requestCore _
      · exact (h.setStep _ _).requestCore _
      · exact (h.setStep _ _).requestCore _
      · exact h

theorem State.DirectoryLaw.unwrapped (i : SlotId) (m : List Byte) : (s.unwrapped i m).DirectoryLaw := by
  unfold State.unwrapped
  split
  · split
    · exact h.failOpening _ _
    · unfold State.hostOpened
      dsimp only
      split
      · exact h.setSlotState _ _
      · split
        · exact (h.setSlotState _ _).finishJob _ _ _
        · exact (h.setSlotState _ _).finishJob _ _ _
    · exact (h.setSlotState _ _).laneKeyOpen
  · exact h

theorem State.DirectoryLaw.signDone (j : JobId) (key : List Byte) : (s.signDone j key).DirectoryLaw := by
  unfold State.signDone
  split
  · exact h
  · exact (h.onJob _ _).finishUse _ _ _

theorem State.DirectoryLaw.checkAccepted (j : JobId) : (s.checkAccepted j).DirectoryLaw := by
  unfold State.checkAccepted
  split
  · exact h
  · split
    · exact (h.setStep _ _).joinWriteList _ _
    · exact h.finishUse _ _ _

theorem State.DirectoryLaw.acceptCounter (j : JobId) (x : Job) (st : Standing) (w : RxWindow) :
    (s.acceptCounter j x st w).DirectoryLaw := by
  have hset := h.onEntry x.handle (fun e => e.setWindow st w) (law_setWindow (h.1 _) st w) (by cases st <;> rfl)
  have hchecked : (if st = .current then (s.onEntry x.handle fun e => e.setWindow st w).floorCheck x.handle
      else s.onEntry x.handle fun e => e.setWindow st w).DirectoryLaw := by
    split
    · exact hset.floorCheck _
    · exact hset
  unfold State.acceptCounter
  dsimp only
  split
  · exact (hchecked.setStep _ _).requestCore _
  · exact hchecked.checkAccepted _

theorem State.DirectoryLaw.compared (j : JobId) (key : List Byte) : (s.compared j key).DirectoryLaw := by
  unfold State.compared
  split
  · exact h
  · dsimp only
    split
    · exact (h.wipe _).finishUse _ _ _
    · split
      · split
        · exact (h.addNotes _ _).finishUse _ _ _
        · exact (h.addNotes _ _).finishUse _ _ _
        · exact (h.addNotes _ _).acceptCounter _ _ _ _
      · exact (h.addNotes _ _).finishUse _ _ _

theorem State.DirectoryLaw.deciphered (j : JobId) (key : List Byte) : (s.deciphered j key).DirectoryLaw := by
  unfold State.deciphered
  split
  · exact h
  · exact (h.onJob _ _).checkAccepted _

theorem State.DirectoryLaw.packageCompared (j : JobId) (key : List Byte) : (s.packageCompared j key).DirectoryLaw := by
  unfold State.packageCompared
  split
  · exact h
  · split
    · split
      · dsimp only
        split
        · exact (((h.onAuthority _ _).addNotes _ _).setStep _ _).wipe _
        · exact ((h.onAuthority _ _).setStep _ _).wipe _
      · exact (h.setStep _ _).wipe _
    · exact h

theorem State.DirectoryLaw.stageUnwrapped (j : JobId) (key : List Byte) : (s.stageUnwrapped j key).DirectoryLaw := by
  unfold State.stageUnwrapped
  split
  · exact h
  · split
    · exact (h.setStep _ _).wipe _
    · exact (h.onJob _ _).wipe _

/-! ## The events of the record store -/

/-- The start of an append, of a retry and of a row of the COPY. -/
theorem State.DirectoryLaw.start {c : Instr} (hc : c = .appendStart ∨ c = .retryStart ∨ c = .copyRowStart) {t : State}
    (ht : exec c s = .next t) : t.DirectoryLaw := by
  rcases hc with rfl | rfl | rfl <;> obtain rfl := Host.Outcome.next.inj ht
  · split
    next hready =>
      split
      · exact h
      next q hq =>
        split
        · exact h.enterFault.settle
        · simp only [State.appendReady, Store.circuitFree, Bool.and_eq_true, Option.isNone_iff_eq_none] at hready
          exact h.startQueued q (List.mem_of_find?_eq_some hq) hready.1.1.2.1 hready.1.1.2.2
    · exact h
  · split
    next hready =>
      split
      · exact h
      next r hr =>
        split
        · exact h.enterFault.settle
        · split
          · simp only [State.retryReady, Bool.and_eq_true, Option.isNone_iff_eq_none] at hready
            have hleft := h.noRecord (t := s.onStore fun t => { t with retry := none }) rfl hready.1.2 rfl fun _ hq => hq
            refine hleft.startProgram _ _ _ rfl fun a ha => ?_
            obtain ⟨f, header, hf, hpayload, -⟩ := h.2.1 a (.inr ⟨r, hr, ha⟩)
            rw [Store.payloadInHand, hready.1.2, hr] at hpayload
            exact ⟨f, header, hf, Option.some.inj hpayload⟩
          · exact h
    · exact h
  · split
    next hready =>
      split
      · split
        · exact h.enterFault.settle
        · split
          · unfold State.startCopyRow
            split
            · exact (h.setCopyStage _).copyAdvance
            next hcontent =>
              simp only [State.copyRowReady, Store.circuitFree, Bool.and_eq_true, Option.isNone_iff_eq_none] at hready
              have hretry := (setCopyStage_reads s.store .running).2.1.trans hready.1.1.2.2
              exact (h.setCopyStage _).startProgram _ _ _ hretry fun a ha => absurd ha (copyContent_requester hcontent a)
          · exact h
      · exact h
    · exact h

theorem State.DirectoryLaw.dropAbandoned : (s.onStore Store.dropAbandoned).DirectoryLaw := by
  unfold Store.dropAbandoned State.onStore
  dsimp only
  split
  · exact h.records rfl rfl rfl fun _ _ hr => .inl hr
  · exact h

/-- The end of a program: its record, which fits the entry of its handle, becomes durable, or is abandoned. -/
theorem State.DirectoryLaw.programEnd {c : Instr} (hc : c = .appendCompletion ∧ s.ProgramFits ∨ c = .appendAbandonment)
    {t : State} (ht : exec c s = .next t) : t.DirectoryLaw := by
  rcases hc with ⟨rfl, hfits⟩ | rfl <;> obtain rfl := Host.Outcome.next.inj ht
  · split
    · exact h
    next p hp =>
      have hretry := h.2.2.1 (by rw [hp]; rfl)
      have hended := (h.endProgram p.location (.valid p.data) hretry).onTime fun t =>
        { t with lastStamp := max t.lastStamp p.data.stamp }
      obtain ⟨hdirectory, hprogram, hretry', -⟩ := endProgram_reads s p.location (.valid p.data)
      have hentry := State.entry_congr hdirectory
      have hdurable := hended.applyDurable p.requester p.location p.data
        (fun a ha hr => (congrArg (p.data.record.Fits · s.time.tt) (hentry a)).mpr (hfits p a hp ha hr))
        (fun a ha => by
          obtain ⟨f, header, hf, -, hrecord⟩ := h.2.1 a (.inl ⟨p, hp, ha⟩)
          exact ⟨f, (congrArg HandleEntry.counterFlight (hentry a)).trans hf, hrecord p hp⟩)
        ⟨hprogram, hretry'.trans hretry⟩
      refine (State.DirectoryLaw.dropAbandoned ?_).settle.copyAdvance
      unfold State.copyRowDone
      split
      · exact hdurable.setCopyStage _
      · exact hdurable
  · split
    · exact h
    next p hp =>
      split
      · obtain ⟨hlaw, hinhand, -, howned⟩ := h
        obtain ⟨hdirectory, hprogram, -, hqueue⟩ := endProgram_reads s p.location .torn
        have hentry := State.entry_congr hdirectory
        refine ⟨fun a => (congrArg HandleEntry.Law (hentry a)).mpr (hlaw a), fun a ha => ?_, fun hp' => ?_,
          fun r q hr => howned r q (hqueue ▸ hr)⟩
        · rcases ha with ⟨q, hq, -⟩ | ⟨q, hq, ha⟩
          · cases hprogram.symm.trans hq
          · cases hq
            obtain ⟨f, header, hf, hpayload, -⟩ := hinhand a (.inl ⟨p, hp, ha⟩)
            refine ⟨f, header, (congrArg HandleEntry.counterFlight (hentry a)).trans hf, ?_, fun q hq => ?_⟩
            · rw [Store.payloadInHand, hp] at hpayload
              rw [Store.payloadInHand, State.onStore_store, hprogram]
              exact hpayload
            · cases hprogram.symm.trans hq
        · rw [State.onStore_store, hprogram] at hp'
          cases hp'
      · exact h.enterFault.settle

theorem State.DirectoryLaw.eraseCompletion {residue : List RowResidue} {t : State}
    (ht : exec (.eraseCompletion residue) s = .next t) : t.DirectoryLaw := by
  obtain rfl := Host.Outcome.next.inj ht
  split
  · exact h
  next b _ =>
    have hended := h.onStore (fun t => { t with array := eraseRows t.array b fun n => residue.getD n .blank, erase := none })
      rfl rfl fun _ _ hr => .inl hr
    dsimp only
    split
    · unfold State.erasePassed
      dsimp only
      split <;> exact hended.records rfl rfl rfl fun _ _ hr => .inl hr
    · exact ((hended.onStore _ rfl rfl fun _ _ hr => .inl hr).onPort _).enterFault.settle

/-- The end of a warm reset asks for kept counter writes again (R71, R170). -/
theorem State.DirectoryLaw.warmResetEnd {rstHigh : Bool} {t : State} (ht : exec (.warmResetEnd rstHigh) s = .next t) :
    t.DirectoryLaw := by
  obtain rfl := Host.Outcome.next.inj ht
  have hr := h.onReset fun r => { r with rstHigh := rstHigh }
  split
  · refine (((hr.onReset _).onStore _ rfl rfl fun _ _ hq => .inl hq).onPort _).foldl (fun u a hu => ?_) _
    unfold State.askAgain
    split
    · exact hu.askAppend (.counter a) fun _ _ e => (by cases e)
    · exact hu
  · exact hr

end Chain

/-! ## Every command -/

/-- A vacant directory, and nothing in hand (R162). -/
theorem directoryLaw_cold {cause : ColdCause} {residue : ProgramResidue} {s t : State}
    (ht : exec (.coldStart cause residue) s = .next t) : t.DirectoryLaw := by
  obtain rfl := Host.Outcome.next.inj ht
  have hvacant : ∀ a : HandleNo, (Vector.replicate 48 HandleEntry.vacant)[a] = HandleEntry.vacant := fun a =>
    Vector.getElem_replicate _
  refine ⟨fun a => ?_, fun a ha => ?_, fun hp => ?_, fun r p hr => ?_⟩
  · have hlaw : HandleEntry.vacant.Law := by simp [HandleEntry.Law, HandleEntry.vacant]
    exact (congrArg HandleEntry.Law (hvacant a)).mpr hlaw
  · rcases ha with ⟨p, hp, -⟩ | ⟨q, hq, -⟩
    · cases hp
    · cases hq
  · cases hp
  · exact absurd hr List.not_mem_nil

/-- Every command but the end of a scan keeps the law of the key directory. -/
theorem State.DirectoryLaw.exec {c : Instr} {s t : State} (hscan : c ≠ .scanEnd)
    (hfits : c = .appendCompletion → s.ProgramFits) (h : s.DirectoryLaw) (ht : Machine.exec c s = .next t) : t.DirectoryLaw := by
  have htake : ∀ k : Kind, c = k.command → t.DirectoryLaw := fun k hk => by
    rw [hk, exec_command] at ht
    obtain rfl := Host.Outcome.next.inj ht
    exact h.takeKind k
  cases c with
  | coldStart a b => exact directoryLaw_cold ht
  | scanEnd => exact absurd rfl hscan
  | post | withdraw | returnCard | cardFault | hostMemoryWrite | controlWrite | softReset | alertClear
  | registerWriteDiscarded =>
    obtain rfl := Host.Outcome.next.inj ht
    exact h.hostWrite _ _
  | takeOpen => exact htake .openKey rfl
  | takeClose => exact htake .closeSlot rfl
  | takeSign => exact htake .sign rfl
  | takeCheck => exact htake .check rfl
  | takeQuery => exact htake .query rfl
  | takePackage => exact htake .package rfl
  | takeTime => exact htake .time rfl
  | takeSettings => exact htake .settings rfl
  | takeWindows => exact htake .windows rfl
  | kindUnknownRefusal =>
    obtain rfl := Host.Outcome.next.inj ht
    split
    · exact h
    · split
      · exact h.frame rfl rfl
      · exact h
  | rowReadStart reader =>
    obtain rfl := Host.Outcome.next.inj ht
    cases reader with
    | slot i => exact h.slotReadStart i
    | fold => exact h.foldReadStart
  | keyRowReadEnd i crcOk =>
    obtain rfl := Host.Outcome.next.inj ht
    exact h.keyRowRead i crcOk
  | slotUnwrapEnd =>
    obtain rfl := Host.Outcome.next.inj ht
    split
    · split
      · exact h.coreIdle.settle
      · exact (h.coreIdle.unwrapped _ _).settle
    · exact h
  | signOperationEnd =>
    obtain rfl := Host.Outcome.next.inj ht
    split
    · split
      · exact h.coreIdle.settle
      · exact (h.coreIdle.signDone _ _).settle
    · exact h
  | tagComparisonEnd =>
    obtain rfl := Host.Outcome.next.inj ht
    split
    · split
      · exact h.coreIdle.settle
      · exact (h.coreIdle.compared _ _).settle
    · exact h
  | decipherEnd =>
    obtain rfl := Host.Outcome.next.inj ht
    split
    · split
      · exact h.coreIdle.settle
      · exact (h.coreIdle.deciphered _ _).settle
    · exact h
  | packageTagCheckEnd =>
    obtain rfl := Host.Outcome.next.inj ht
    split
    · split
      · exact h.coreIdle.settle
      · exact (h.coreIdle.packageCompared _ _).settle
    · exact h
  | stageUnwrapEnd =>
    obtain rfl := Host.Outcome.next.inj ht
    split
    · split
      · exact h.coreIdle.settle
      · exact (h.coreIdle.stageUnwrapped _ _).settle
    · exact h
  | wipeCompletion i =>
    obtain rfl := Host.Outcome.next.inj ht
    split
    · split
      · exact (h.setSlotState _ _).settle
      · exact h
    · exact h
  | idleClose i =>
    obtain rfl := Host.Outcome.next.inj ht
    split
    · exact h.wipe _
    · exact h
  | appendStart => exact h.start (.inl rfl) ht
  | retryStart => exact h.start (.inr (.inl rfl)) ht
  | copyRowStart => exact h.start (.inr (.inr rfl)) ht
  | appendCompletion => exact h.programEnd (.inl ⟨rfl, hfits rfl⟩) ht
  | appendAbandonment => exact h.programEnd (.inr rfl) ht
  | reclaimStart =>
    obtain rfl := Host.Outcome.next.inj ht
    split
    · split
      · exact h
      · exact (h.onStore _ rfl rfl fun _ _ hr => .inl hr).copyAdvance
    · exact h
  | foldReadEnd crcOk =>
    obtain rfl := Host.Outcome.next.inj ht
    split
    · split
      · exact h.setCopyStage _
      · exact h.enterFault.settle
    · exact h
  | eraseStart =>
    obtain rfl := Host.Outcome.next.inj ht
    split
    · exact h
    · split
      · exact h.onStore _ rfl rfl fun _ _ hr => .inl hr
      · exact h
  | eraseCompletion residue => exact h.eraseCompletion ht
  | timeBaseMilliTick cover field pfail =>
    obtain rfl := Host.Outcome.next.inj ht
    dsimp only
    split
    · exact ((h.onTime _).onTamper _).onSupply _
    · exact (h.onTime _).onSupply _
  | timeBaseSecond =>
    obtain rfl := Host.Outcome.next.inj ht
    split
    · exact h.frame rfl rfl
    · exact h
  | driftCreditAccrual =>
    obtain rfl := Host.Outcome.next.inj ht
    split
    · exact h.onTime _
    · exact h
  | timeMarkDue =>
    obtain rfl := Host.Outcome.next.inj ht
    split
    · exact (h.onTime _).askAppend .timeMark fun _ _ e => (by cases e)
    · exact h
  | tamperLatch i =>
    obtain rfl := Host.Outcome.next.inj ht
    split
    · exact (((h.onTamper _).latchWipes.askAppend (.tamper i) fun _ _ e => (by cases e)).onPort _).settle
    · exact h
  | powerStateChange =>
    obtain rfl := Host.Outcome.next.inj ht
    split
    · refine State.DirectoryLaw.setPower ?_ _
      split
      · exact h.onPort _
      · exact h
    · exact h
  | initialPowerState =>
    obtain rfl := Host.Outcome.next.inj ht
    split
    · exact ((h.onSupply _).setPower _).onReset _
    · exact h
  | standbyEntry =>
    obtain rfl := Host.Outcome.next.inj ht
    split
    · exact h.onSupply _
    · exact h
  | standbyWake =>
    obtain rfl := Host.Outcome.next.inj ht
    split
    · exact h.wake
    · exact h
  | rstNLow =>
    obtain rfl := Host.Outcome.next.inj ht
    split
    · exact (h.onReset _).beginWarmReset _
    · exact h.onReset _
  | warmResetEnd rstHigh => exact h.warmResetEnd ht

/-! ## The obligation -/

/-- What the state checks of R98 leave for a STAGE: a new generation, and no staged or retiring record is present. -/
theorem stateChecks_stage {e : HandleEntry} {tt : Nat} {p : List Byte} (hkind : pkgKind p = .stage)
    (hchecks : stateChecks e tt p = none) :
    e.highestGen < pkgGen p ∧ e.presentStaged tt = none ∧ e.presentRetiring tt = none := by
  unfold stateChecks at hchecks
  rw [hkind] at hchecks
  dsimp only at hchecks
  repeat' split at hchecks
  all_goals cases hchecks
  next hgen hstaged hretiring _ =>
    rw [not_or, not_le] at hgen
    exact ⟨hgen.1, by simpa using hstaged, by simpa using hretiring⟩

/-- A record that is not present has lapsed, and stays so (R57). -/
theorem lapsed_of_presentStaged {e : HandleEntry} {now tt : Nat} (h : e.presentStaged now = none) (htt : now ≤ tt) :
    ∀ y, e.staged = some y → y.deadline ≤ tt := fun y hy => by
  have hlapsed := Option.filter_eq_none_iff.mp h y hy
  rw [decide_eq_true_eq] at hlapsed
  omega

theorem lapsed_of_presentRetiring {e : HandleEntry} {now tt : Nat} (h : e.presentRetiring now = none) (htt : now ≤ tt) :
    ∀ y, e.retiring = some y → y.graceEnd ≤ tt := fun y hy => by
  have hlapsed := Option.filter_eq_none_iff.mp h y hy
  rw [decide_eq_true_eq] at hlapsed
  omega

/-- A package's record that passed the state checks of R98 fits the entry of its handle. -/
theorem packagePayload_fits {s : State} {p m : List Byte} {seq stamp tt : Nat} (hkind : (pkgKind p).onHandle = true)
    (hchecks : stateChecks (s.entry (pkgHandle p)) s.time.tt p = none) (htt : s.time.tt ≤ tt) :
    ((s.packagePayload p m).row seq stamp).record.handle? = some (pkgHandle p) ∧
      ((s.packagePayload p m).row seq stamp).record.Fits (s.entry (pkgHandle p)) tt := by
  unfold State.packagePayload
  cases hk : pkgKind p with
  | stage =>
    obtain ⟨hgen, hstaged, hretiring⟩ := stateChecks_stage hk hchecks
    refine ⟨rfl, hgen, Nat.le_max_right _ _, lapsed_of_presentStaged hstaged htt, lapsed_of_presentRetiring hretiring htt, ?_⟩
    intro issued limit ceiling floor grace hactive
    dsimp only at hactive
    split at hactive <;> cases hactive
    exact Nat.min_le_right _ _
  | confirm =>
    refine ⟨rfl, fun y hy _ => ?_⟩
    rw [hy]
    exact Nat.min_le_right _ _
  | cancel | revoke | release => exact ⟨rfl, trivial⟩
  | timeset | unlock | authority | custody | setup | finalize =>
    rw [hk] at hkind
    cases hkind

/-- Settles O8: every command but the end of a scan by its operations, and what the state checks leave. -/
theorem directoryLawIsKept : Obligations.DirectoryLawIsKept := by
  unfold Obligations.DirectoryLawIsKept
  refine ⟨fun c s t hscan hfits h ht => h.exec hscan hfits ht, fun s p m h seq stamp tt hkind hhandle hchecks htt => ?_⟩
  subst hhandle
  exact packagePayload_fits hkind hchecks htt

end Sys2Proof.Machine

/-!
PROOFS of QUERY (R68, R69): the numbers that it reports, and the record that it takes and gives back.
-/

namespace Sys2Proof.Machine

open Sys2Proof

/-! ## The numbers that QUERY reports -/

theorem phase_code (e : HandleEntry) (tt : Nat) : (e.phase tt).code =
    if (e.presentStaged tt).isSome then 2 else if (e.presentRetiring tt).isSome then 3 else if e.current.isSome then 1 else 0 := by
  unfold HandleEntry.phase
  split
  · rfl
  · split
    · rfl
    · split <;> rfl

theorem condition_code (c : CurrentGen) (tt : Nat) : (c.condition tt).code =
    if c.expiry ≤ tt then 1 else if c.signLimit ≤ c.txNext then 2 else 0 := by
  unfold CurrentGen.condition
  split
  · rfl
  · split <;> rfl

theorem writePending_iff (e : HandleEntry) :
    e.writePending = true ↔ e.writeList ≠ [] ∨ e.counterPending ≠ none ∨ e.counterFlight ≠ none := by
  simp [HandleEntry.writePending, Option.isSome_iff_ne_none, or_assoc]

/-! ## The free record -/

/-- The core stands at the end of a job that has no request and no operation (R32). -/
theorem dropJob_of_absent {c : Cipher} {j : JobId} (hwaiting : ∀ r ∈ c.waiting, r.byJob j = false)
    (hruns : ∀ r, c.running = some r → r.op.byJob j = false) : c.dropJob j = c := by
  obtain ⟨running, waiting, last⟩ := c
  have hlist : waiting.filter (fun r => !r.byJob j) = waiting := List.filter_eq_self.mpr fun r hr => by simp [hwaiting r hr]
  cases running with
  | none => simp [Cipher.dropJob, hlist]
  | some r => simp [Cipher.dropJob, hlist, hruns r rfl]

theorem finishJob_package {s : State} {j : JobId} {x : Job} (hx : s.job j = some x) (st : Status) (values : List Nat) :
    (s.finishJob j st values).slots.package = s.slots.package := by
  obtain ⟨-, -, -, -, -, -, -, -, -, -, -, -, hpackage⟩ := freeRecord_blocks (s.onPort fun p => p.jobDone x st values) j x
  rw [finishJob_eq hx, hpackage, State.onPort_slots]

/-- A QUERY completes OK with the entry's numbers, and clears touched under CLEAR_TOUCHED alone (R68, R69). -/
theorem serveQuery_eq (s : State) (j : JobId) (x : Job) : s.serveQuery j x =
    (s.finishJob j .ok ((s.entry x.handle).queryValues s.time.tt)).onEntry x.handle fun e =>
      { e with touched := !x.option && e.touched } := by
  unfold State.serveQuery
  dsimp only
  cases x.option with
  | true => rfl
  | false => exact (onEntry_of_same rfl).symm

/-- Where touched is cleared or stands, and nothing else of any entry changes. -/
theorem entry_clearTouched {s u : State} (hu : ∀ a, u.entry a = s.entry a) (a : HandleNo) (clear : Bool) (b : HandleNo) :
    (u.onEntry a fun e => { e with touched := !clear && e.touched }).entry b =
      if b = a ∧ clear = true then { s.entry a with touched := false } else s.entry b := by
  rw [State.entry_onEntry, hu, hu]
  by_cases hb : b = a
  · subst hb
    cases clear <;> simp
  · rw [if_neg (Ne.symm hb), if_neg fun e => hb e.1]

/-- Settles O23: the record that intake takes is free again, and the entry is what it was but for touched. -/
theorem queryReportsTheEntry : Obligations.QueryReportsTheEntry := by
  unfold Obligations.QueryReportsTheEntry
  intro s n j htakes x e staged retiring high phase condition writePending ofCurrent
  obtain ⟨hkind, -⟩ := snapshot_fields s n .query
  have hfree : s.job j = none := (nextTake_some htakes.1).2.2.1
  have hx : (s.taken n j x).job j = some x := job_taken_self s n j x
  have hvalues : e.queryValues s.time.tt = [phase,
      (if e.touched then 1 else 0) + (if writePending then 2 else 0) + (if high.isSome then 4 else 0),
      e.highestGen, ofCurrent (·.gen), ofCurrent condition, roleCode e.role, ofCurrent (·.expiry),
      (staged.map (·.gen)).getD 0, (staged.map fun g => g.authority.val).getD 0, (staged.map (·.deadline)).getD 0,
      (retiring.map (·.gen)).getD 0, (retiring.map (·.graceEnd)).getD 0, ofCurrent (·.txNext), ofCurrent (·.txCeiling),
      ofCurrent (·.signLimit), high.getD 0, ofCurrent (·.issuedAt)] := by
    unfold HandleEntry.queryValues
    simp only [phase_code, condition_code, bitNat, writePending_iff]
    rfl
  have hdirectory := directory_finishJob hx .ok (e.queryValues s.time.tt) (by rw [hkind]; exact ⟨nofun, nofun⟩)
  have hexec := exec_command_of_takes htakes
  refine ⟨_, hexec, ?_, fun h => ?_, fun i => ?_, ?_, fun i => ?_, ?_, fun hlane => ?_, ?_, fun hwaiting hruns => ?_⟩
  all_goals rw [Kind.course, serveQuery_eq]
  · exact (finishJob_port hx _ _).trans (congrArg _ hvalues)
  · exact entry_clearTouched (State.entry_congr hdirectory) _ _ h
  · exact job_finishJob_taken hfree rfl _ _ i
  · exact sameElsewhere_trans (taken_sameElsewhere s n j x)
      (sameElsewhere_trans (finishJob_sameElsewhere hx _ _) (sameElsewhere_onEntry _ _ _))
  · exact slot_finishJob hx _ _ i
  · exact finishJob_package hx _ _
  · exact (congrArg Engine.lane (finishJob_engine hx _ _)).trans (if_neg hlane)
  · exact congrArg Engine.laneWaiting (finishJob_engine hx _ _)
  · exact (finishJob_cipher hx _ _).trans (dropJob_of_absent hwaiting hruns)

end Sys2Proof.Machine

/-!
PROOFS of the replay (R70, R111 to R113, R156, R166, R167): what one row does to each block, and what the rows leave together.
-/

namespace Sys2Proof.Machine

open Sys2Proof

/-! ## The order of the rows -/

theorem insertBySeq_sorted (r : PlacedRow) {l : List PlacedRow} (h : l.Pairwise fun a b => a.2.seq ≤ b.2.seq) :
    (insertBySeq r l).Pairwise fun a b => a.2.seq ≤ b.2.seq := by
  induction l with
  | nil => exact List.pairwise_singleton _ _
  | cons x xs ih =>
    obtain ⟨hx, hxs⟩ := List.pairwise_cons.mp h
    unfold insertBySeq
    split
    next hlt =>
      refine List.pairwise_cons.mpr ⟨fun y hy => ?_, h⟩
      rcases List.mem_cons.mp hy with rfl | hy
      · exact hlt.le
      · exact hlt.le.trans (hx y hy)
    next hle =>
      refine List.pairwise_cons.mpr ⟨fun y hy => ?_, ih hxs⟩
      rcases List.mem_cons.mp ((insertBySeq_perm r xs).mem_iff.mp hy) with rfl | hy
      · exact not_lt.mp hle
      · exact hx y hy

theorem sortBySeq_sorted (l : List PlacedRow) : (sortBySeq l).Pairwise fun a b => a.2.seq ≤ b.2.seq := by
  induction l with
  | nil => exact List.Pairwise.nil
  | cons x xs ih => exact insertBySeq_sorted x ih

/-- Rows in strictly ascending seq stand as the scan sorts them. -/
theorem sortBySeq_eq {l rows : List PlacedRow} (hperm : rows.Perm l) (hsorted : rows.Pairwise fun a b => a.2.seq < b.2.seq) :
    sortBySeq l = rows := by
  have hnodup : ((sortBySeq l).map fun r => r.2.seq).Nodup := by
    rw [((sortBySeq_perm l).trans hperm.symm).map _ |>.nodup_iff]
    exact List.pairwise_map.mpr (hsorted.imp fun h => h.ne)
  have hstrict : (sortBySeq l).Pairwise fun a b => a.2.seq < b.2.seq :=
    (List.pairwise_map.mp hnodup).imp₂ (fun _ _ hne hle => lt_of_le_of_ne hle hne) (sortBySeq_sorted l)
  exact List.Perm.eq_of_pairwise (fun a b _ _ hab hba => absurd hab hba.asymm) hstrict hsorted
    ((sortBySeq_perm l).trans hperm.symm)

/-! ## One row -/

/-- A row on each authority of a list: every one of them once, and nothing else. -/
theorem replayAuthorities_eq (d : RowData) (l : List AuthNo) (s : State) :
    l.foldl (fun s k => s.onAuthority k fun a => a.replay k d) s =
      { s with authorities := (l.foldl (fun s k => s.onAuthority k fun a => a.replay k d) s).authorities } := by
  induction l generalizing s with
  | nil => rfl
  | cons k l ih => exact ih (s.onAuthority k fun a => a.replay k d)

theorem authority_replayAuthorities (d : RowData) {l : List AuthNo} (hl : l.Nodup) (s : State) (k : AuthNo) :
    (l.foldl (fun s k => s.onAuthority k fun a => a.replay k d) s).authority k =
      if k ∈ l then (s.authority k).replay k d else s.authority k := by
  induction l generalizing s with
  | nil => rfl
  | cons x l ih =>
    obtain ⟨hx, hl⟩ := List.nodup_cons.mp hl
    rw [List.foldl_cons, ih hl, State.authority_onAuthority]
    by_cases hk : x = k
    · subst hk
      simp [hx]
    · simp [hk, Ne.symm hk]

/-- What a row leaves of the custody map and of the provisioning state (R120, R123). -/
def Custody.afterRow (c : Custody) (r : Record) : Custody :=
  match r with
  | .custody map => { c with map := map }
  | .setup _ _ final => { c with final := final }
  | _ => c

/-- What a row leaves of a tamper input: its setup, and its latch (R123, R156). -/
def TamperState.afterRow (x : TamperState) (i : TamperInput) (r : Record) : TamperState :=
  match r with
  | .setup cover field _ => { x with setup := match i with
      | .cover => cover
      | .field => field }
  | _ => x.replay i r

/-- What a row leaves of the entry of its handle (R166). -/
def State.replayEntry (s : State) (r : PlacedRow) : State :=
  match r.2.record.handle? with
  | some h => s.onEntry h fun e => e.replay r.1 r.2
  | none => s

theorem replayEntry_frame (s : State) (r : PlacedRow) : s.replayEntry r = { s with directory := (s.replayEntry r).directory } := by
  unfold State.replayEntry
  split <;> rfl

/-- The replay of a row, block by block (R166, R167). -/
theorem replayRow_changes (s : State) (r : PlacedRow) : s.replayRow r = { s with
    directory := (s.replayEntry r).directory
    authorities := (allAuthorities.foldl (fun s k => s.onAuthority k fun a => a.replay k r.2) (s.replayEntry r)).authorities
    custody := s.custody.afterRow r.2.record
    tamper := ⟨s.tamper.cover.afterRow .cover r.2.record, s.tamper.field.afterRow .field r.2.record⟩ } := by
  have hframe := replayEntry_frame s r
  have hfold := replayAuthorities_eq r.2 allAuthorities (s.replayEntry r)
  generalize hv : (allAuthorities.foldl (fun s k => s.onAuthority k fun a => a.replay k r.2) (s.replayEntry r)).authorities = v
    at hfold ⊢
  unfold State.replayRow
  change (match r.2.record with
    | .custody map => State.onCustody (State.onTamper (List.foldl _ (s.replayEntry r) allAuthorities) _) _
    | .setup cover field final => State.onTamper (State.onCustody (State.onTamper (List.foldl _ (s.replayEntry r) allAuthorities) _) _) _
    | _ => State.onTamper (List.foldl _ (s.replayEntry r) allAuthorities) _) = _
  rw [hfold, hframe]
  cases r.2.record <;> rfl

theorem entry_replayRow (s : State) (r : PlacedRow) (h : HandleNo) :
    (s.replayRow r).entry h = if r.2.record.handle? = some h then (s.entry h).replay r.1 r.2 else s.entry h := by
  have hentry : (s.replayRow r).entry h = (s.replayEntry r).entry h := by
    rw [replayRow_changes]
    rfl
  rw [hentry, State.replayEntry]
  cases r.2.record.handle? with
  | none => rfl
  | some a =>
    rw [State.entry_onEntry]
    by_cases ha : a = h
    · rw [if_pos ha, if_pos (congrArg some ha), ha]
    · rw [if_neg ha, if_neg fun e => ha (Option.some.inj e)]

theorem authority_replayRow (s : State) (r : PlacedRow) (k : AuthNo) :
    (s.replayRow r).authority k = (s.authority k).replay k r.2 := by
  have hall : ∀ k, k ∈ allAuthorities := by decide
  have hstood : (s.replayEntry r).authority k = s.authority k := by
    rw [replayEntry_frame]
    rfl
  have hreplayed := authority_replayAuthorities r.2 (by decide : allAuthorities.Nodup) (s.replayEntry r) k
  rw [if_pos (hall k), hstood] at hreplayed
  rw [← hreplayed, replayRow_changes]
  rfl

theorem custody_replayRow (s : State) (r : PlacedRow) : (s.replayRow r).custody = s.custody.afterRow r.2.record := by
  rw [replayRow_changes]

theorem input_replayRow (s : State) (r : PlacedRow) (i : TamperInput) :
    (s.replayRow r).tamper.input i = (s.tamper.input i).afterRow i r.2.record := by
  rw [replayRow_changes]
  cases i <;> rfl

/-! ## The rows of one handle -/

/-- A predecessor is superseded as it retires (R102, R149). -/
theorem superseded_eq (c : CurrentGen) (stamp grace : Nat) : c.superseded stamp grace = c.retire stamp grace := rfl

/-- What is present once the lapsed records are gone (R57). -/
theorem presentStaged_clearLapsed (e : HandleEntry) (now : Nat) : (e.clearLapsed now).presentStaged now = e.presentStaged now := by
  simp [HandleEntry.clearLapsed, HandleEntry.presentStaged, Option.filter_filter]

theorem presentRetiring_clearLapsed (e : HandleEntry) (now : Nat) :
    (e.clearLapsed now).presentRetiring now = e.presentRetiring now := by
  simp [HandleEntry.clearLapsed, HandleEntry.presentRetiring, Option.filter_filter]

theorem bne_eq_decide (a b : Nat) : (a != b) = decide (a ≠ b) := by
  simp [bne, beq_eq_decide]

/-- A KEY record finds a generation present whether or not the lapsed records are cleared before. -/
theorem noteKey_clearLapsed (e : HandleEntry) (now : Nat) (role : Role) (highest : Nat) :
    (e.clearLapsed now).noteKey now role highest =
      { e.noteKey now role highest with staged := e.presentStaged now, retiring := e.presentRetiring now } := by
  have hpresent : (e.clearLapsed now).anyPresent now = e.anyPresent now := by
    rw [HandleEntry.anyPresent, presentStaged_clearLapsed, presentRetiring_clearLapsed]
    rfl
  unfold HandleEntry.noteKey
  rw [hpresent]
  rfl

/-- The effect of a row on its handle's entry, as the obligation gives it (R166). -/
theorem afterRow_eq (e : HandleEntry) (r : PlacedRow) : e.afterRow r = e.replay r.1 r.2 := by
  unfold HandleEntry.afterRow HandleEntry.replay
  dsimp only
  cases r.2.record with
  | key a g k =>
    dsimp only
    cases r.2.header.authority with
    | none =>
      unfold HandleEntry.applyFold HandleEntry.without
      cases k.state <;> simp only [bne_eq_decide] <;> rfl
    | some au =>
      cases k.state with
      | staged issued limit deadline au' =>
        unfold HandleEntry.applyStaged
        rw [noteKey_clearLapsed]
        rfl
      | active issued limit ceiling floor grace =>
        unfold HandleEntry.applyActive
        rw [noteKey_clearLapsed]
        rfl
      | retiring => rfl
  | confirm a g grace ceiling =>
    unfold HandleEntry.applyConfirm HandleEntry.confirmable
    simp only [Bool.decide_and]
    cases hy : e.staged.filter fun y => decide (y.gen = g) && decide (r.2.stamp < y.deadline) with
    | none => rfl
    | some y =>
      obtain ⟨-, hgen⟩ := Option.filter_eq_some_iff.mp hy
      rw [Bool.and_eq_true, decide_eq_true_eq] at hgen
      obtain ⟨rfl, -⟩ := hgen
      rfl
  | cancel a g =>
    unfold HandleEntry.applyCancel
    simp only [bne_eq_decide]
    rfl
  | revoke a g highest role =>
    cases role <;> rfl
  | _ => rfl

/-- The rows of handle `h` leave its entry one after another, and no other row does anything to it (R166). -/
theorem entry_replayRows (rows : List PlacedRow) (s : State) (h : HandleNo) : (rows.foldl State.replayRow s).entry h =
    (rows.filter fun r => decide (r.2.record.handle? = some h)).foldl HandleEntry.afterRow (s.entry h) := by
  induction rows generalizing s with
  | nil => rfl
  | cons r rows ih =>
    rw [List.foldl_cons, ih, entry_replayRow, List.filter_cons]
    by_cases hr : r.2.record.handle? = some h
    · rw [if_pos hr, if_pos (decide_eq_true hr), List.foldl_cons, afterRow_eq]
    · rw [if_neg hr, if_neg (by rwa [decide_eq_true_eq])]

/-! ## What the latest row leaves -/

/-- A reading that no row of the list changes. -/
theorem replayRows_keep {γ : Type} {g : State → γ} {rows : List PlacedRow}
    (hkeep : ∀ r ∈ rows, ∀ s, g (s.replayRow r) = g s) (s : State) : g (rows.foldl State.replayRow s) = g s := by
  induction rows generalizing s with
  | nil => rfl
  | cons r rows ih =>
    rw [List.foldl_cons, ih fun r' hr' => hkeep r' (List.mem_cons_of_mem r hr')]
    exact hkeep r List.mem_cons_self s

/-- A reading that the rows of one sort set, and no other row changes, is what the latest of them sets (R166). -/
theorem replayRows_latest {γ : Type} {g : State → γ} {v : γ} {f : Record → Prop} {rows : List PlacedRow} {r : PlacedRow}
    (hsorted : rows.Pairwise fun a b => a.2.seq < b.2.seq) (hr : r ∈ rows)
    (hlatest : ∀ r' ∈ rows, f r'.2.record → r'.2.seq ≤ r.2.seq) (hset : ∀ s : State, g (s.replayRow r) = v)
    (hkeep : ∀ r' ∈ rows, ¬f r'.2.record → ∀ s : State, g (s.replayRow r') = g s) (s : State) :
    g (rows.foldl State.replayRow s) = v := by
  obtain ⟨before, behind, rfl⟩ := List.append_of_mem hr
  have hbehind : ∀ r' ∈ behind, ¬f r'.2.record := fun r' hr' hf =>
    (((List.pairwise_append.mp hsorted).2.1 |> List.pairwise_cons.mp).1 r' hr').not_ge
      (hlatest r' (List.mem_append_right _ (List.mem_cons_of_mem r hr')) hf)
  rw [List.foldl_append, List.foldl_cons, replayRows_keep fun r' hr' => hkeep r'
    (List.mem_append_right _ (List.mem_cons_of_mem r hr')) (hbehind r' hr')]
  exact hset _

/-! ## Counters and tags of an authority -/

/-- An authority's counter and tag are the largest of those carried so far, and those of no row if none is carried (R113). -/
def Authority.HoldsLargest (a : Authority) (carried : List (Nat × Option Tag)) : Prop :=
  (∀ x ∈ carried, x.1 ≤ a.accepted) ∧
    ((a.accepted, a.lastTag) ∈ carried ∨ carried = [] ∧ a.accepted = 0 ∧ a.lastTag = none)

theorem holdsLargest_raiseCounter {a : Authority} {carried : List (Nat × Option Tag)} (h : a.HoldsLargest carried)
    (x : Nat × Option Tag) : (a.raiseCounter x).HoldsLargest (carried ++ [x]) := by
  obtain ⟨hle, hheld⟩ := h
  obtain ⟨c, tag⟩ := x
  unfold Authority.raiseCounter Authority.HoldsLargest
  simp only [List.mem_append, List.mem_singleton, List.append_eq_nil_iff, List.cons_ne_nil, and_false, false_and, or_false]
  split
  next hlt =>
    refine ⟨fun y hy => ?_, .inr rfl⟩
    rcases hy with hy | rfl
    · exact (hle y hy).trans hlt.le
    · exact le_rfl
  next hlt =>
    split
    next heq =>
      refine ⟨fun y hy => ?_, ?_⟩
      · rcases hy with hy | rfl
        · exact hle y hy
        · exact heq.ge
      · cases tag with
        | some y => exact .inr (by simp [heq])
        | none =>
          rcases hheld with hheld | ⟨-, -, hnone⟩
          · exact .inl hheld
          · exact .inr (by simp [heq, hnone])
    next hne =>
      refine ⟨fun y hy => ?_, ?_⟩
      · rcases hy with hy | rfl
        · exact hle y hy
        · exact not_lt.mp hlt
      · rcases hheld with hheld | ⟨-, hzero, -⟩
        · exact .inl hheld
        · omega

theorem holdsLargest_foldl {a : Authority} {carried : List (Nat × Option Tag)} (h : a.HoldsLargest carried)
    (l : List (Nat × Option Tag)) : (l.foldl Authority.raiseCounter a).HoldsLargest (carried ++ l) := by
  induction l generalizing a carried with
  | nil => rwa [List.append_nil]
  | cons x l ih =>
    rw [List.append_cons]
    exact ih (holdsLargest_raiseCounter h x)

theorem holdsLargest_replay {a : Authority} {carried : List (Nat × Option Tag)} (h : a.HoldsLargest carried) (k : AuthNo)
    (d : RowData) : (a.replay k d).HoldsLargest (carried ++ d.countersFor k) := by
  unfold Authority.replay
  refine holdsLargest_foldl ?_ _
  split
  · split
    · exact h
    · exact h
  · exact h

theorem holdsLargest_replayRows (rows : List PlacedRow) {s : State} {k : AuthNo} {carried : List (Nat × Option Tag)}
    (h : (s.authority k).HoldsLargest carried) : ((rows.foldl State.replayRow s).authority k).HoldsLargest
      (carried ++ rows.flatMap fun r => r.2.countersFor k) := by
  induction rows generalizing s carried with
  | nil => simpa using h
  | cons r rows ih =>
    rw [List.flatMap_cons, ← List.append_assoc]
    refine ih ?_
    rw [authority_replayRow]
    exact holdsLargest_replay h k r.2

/-- What a row carries for an authority (R113). -/
theorem mem_countersFor (d : RowData) (k : AuthNo) (c : Nat) (tag : Option Tag) : (c, tag) ∈ d.countersFor k ↔
    (∃ y, tag = some y ∧ d.header = ⟨some k, some (c, y)⟩) ∨ ∃ x, d.record = .authority k x ∧ x.accepted = c ∧ x.lastTag = tag := by
  obtain ⟨seq, stamp, ⟨authority, package⟩, record⟩ := d
  unfold RowData.countersFor
  rw [List.mem_append]
  refine or_congr ?_ ?_
  · cases authority with
    | none => simp
    | some a =>
      cases package with
      | none => simp
      | some p =>
        obtain ⟨c', y⟩ := p
        by_cases ha : a = k
        · simp only [ha, if_true, List.mem_singleton, Prod.mk.injEq, RowHeader.mk.injEq, Option.some.injEq, true_and]
          constructor
          · rintro ⟨rfl, rfl⟩
            exact ⟨y, rfl, rfl, rfl⟩
          · rintro ⟨_, rfl, rfl, rfl⟩
            exact ⟨rfl, rfl⟩
        · simp [ha]
  · cases record with
    | authority a x =>
      by_cases ha : a = k
      · simp [ha, eq_comm]
      · simp [ha]
    | _ => simp

/-! ## Latches -/

/-- The record is a TAMPER record of the input (R153). -/
def Record.Marks (r : Record) (i : TamperInput) : Prop := ∃ n, r = .tamper i n

/-- The record is an UNLOCK record that names the input's latch (R154). -/
def Record.Clears (r : Record) (i : TamperInput) : Prop := ∃ c f, r = .unlock c f ∧ (match i with
  | .cover => c
  | .field => f) = true

theorem unlocks_iff (r : Record) (i : TamperInput) : r.unlocks i = true ↔ r.Clears i := by
  unfold Record.Clears
  cases r with
  | unlock c f => cases i <;> simp [Record.unlocks]
  | _ => simp [Record.unlocks]

theorem afterRow_of_tamper (x : TamperState) (i : TamperInput) (n : Nat) :
    x.afterRow i (.tamper i n) = { x with latched := true, latchTime := n } := if_pos rfl

theorem afterRow_of_clears (x : TamperState) {i : TamperInput} {r : Record} (h : r.Clears i) :
    x.afterRow i r = { x with latched := false } := by
  have hunlocks := (unlocks_iff r i).mpr h
  obtain ⟨c, f, rfl, -⟩ := h
  exact if_pos hunlocks

/-- A row that neither marks nor clears an input leaves all but its setup. -/
theorem afterRow_of_neither (x : TamperState) {i : TamperInput} {r : Record} (hmarks : ¬r.Marks i) (hclears : ¬r.Clears i) :
    x.afterRow i r = { x with setup := (x.afterRow i r).setup } := by
  rw [← unlocks_iff] at hclears
  cases r with
  | tamper a n =>
    have ha : a ≠ i := fun e => hmarks ⟨n, by rw [e]⟩
    rw [show x.afterRow i (.tamper a n) = x from if_neg ha]
  | unlock c f => rw [show x.afterRow i (.unlock c f) = x from if_neg hclears]
  | _ => rfl

/-- Only a setup record changes the setup of an input (R123). -/
theorem setup_afterRow (x : TamperState) (i : TamperInput) {r : Record} (h : ∀ a b c, r ≠ .setup a b c) :
    (x.afterRow i r).setup = x.setup := by
  by_cases hmarks : r.Marks i
  · obtain ⟨n, rfl⟩ := hmarks
    rw [afterRow_of_tamper]
  · by_cases hclears : r.Clears i
    · rw [afterRow_of_clears x hclears]
    · rw [← unlocks_iff] at hclears
      cases r with
      | setup a b c => exact absurd rfl (h a b c)
      | tamper a n => rw [show x.afterRow i (.tamper a n) = x from if_neg fun e => hmarks ⟨n, by rw [e]⟩]
      | unlock c f => rw [show x.afterRow i (.unlock c f) = x from if_neg hclears]
      | _ => rfl

/-- Rows leave a tamper input's mark, count and level. -/
theorem input_replayRows_frame (rows : List PlacedRow) (s : State) (i : TamperInput) :
    ((rows.foldl State.replayRow s).tamper.input i).mark = (s.tamper.input i).mark ∧
      ((rows.foldl State.replayRow s).tamper.input i).debounceCount = (s.tamper.input i).debounceCount ∧
      ((rows.foldl State.replayRow s).tamper.input i).level = (s.tamper.input i).level := by
  have hrow : ∀ (x : TamperState) (r : Record), (x.afterRow i r).mark = x.mark ∧
      (x.afterRow i r).debounceCount = x.debounceCount ∧ (x.afterRow i r).level = x.level := fun x r => by
    by_cases hmarks : r.Marks i
    · obtain ⟨n, rfl⟩ := hmarks
      rw [afterRow_of_tamper]
      exact ⟨rfl, rfl, rfl⟩
    · by_cases hclears : r.Clears i
      · rw [afterRow_of_clears x hclears]
        exact ⟨rfl, rfl, rfl⟩
      · rw [afterRow_of_neither x hmarks hclears]
        exact ⟨rfl, rfl, rfl⟩
  refine ⟨?_, ?_, ?_⟩
  · exact replayRows_keep (g := fun s => (s.tamper.input i).mark) (fun r _ s => by
      rw [input_replayRow]; exact (hrow _ _).1) s
  · exact replayRows_keep (g := fun s => (s.tamper.input i).debounceCount) (fun r _ s => by
      rw [input_replayRow]; exact (hrow _ _).2.1) s
  · exact replayRows_keep (g := fun s => (s.tamper.input i).level) (fun r _ s => by
      rw [input_replayRow]; exact (hrow _ _).2.2) s

/-- A latch is set by the latest of the rows that mark or clear it, if that marks it (R156). -/
theorem latched_replayRows {rows : List PlacedRow} (hsorted : rows.Pairwise fun a b => a.2.seq < b.2.seq) {s : State}
    {i : TamperInput} (hs : (s.tamper.input i).latched = false) :
    ((rows.foldl State.replayRow s).tamper.input i).latched = true ↔
      ∃ r ∈ rows, r.2.record.Marks i ∧ ∀ u ∈ rows, u.2.record.Clears i → u.2.seq < r.2.seq := by
  induction rows using List.reverseRecOn with
  | nil => simp [hs]
  | append_singleton rows r ih =>
    obtain ⟨hbefore, -, hlast⟩ := List.pairwise_append.mp hsorted
    have hlt : ∀ u ∈ rows, u.2.seq < r.2.seq := fun u hu => hlast u hu r List.mem_cons_self
    rw [List.foldl_append, List.foldl_cons, List.foldl_nil, input_replayRow]
    simp only [List.mem_append, List.mem_singleton, or_imp, forall_and, forall_eq, exists_or, or_and_right, exists_eq_left]
    by_cases hmarks : r.2.record.Marks i
    · obtain ⟨n, hn⟩ := id hmarks
      have hclears : ¬r.2.record.Clears i := by rw [hn]; rintro ⟨c, f, h, -⟩; cases h
      rw [hn, afterRow_of_tamper, ← hn]
      exact iff_of_true rfl (.inr ⟨hmarks, fun u hu _ => hlt u hu, fun h => absurd h hclears⟩)
    · by_cases hclears : r.2.record.Clears i
      · rw [afterRow_of_clears _ hclears]
        refine iff_of_false Bool.false_ne_true ?_
        rintro (⟨u, hu, -, -, h⟩ | ⟨h, -⟩)
        · exact (hlt u hu).asymm (h hclears)
        · exact hmarks h
      · rw [afterRow_of_neither _ hmarks hclears]
        refine (ih hbefore).trans ?_
        simp [hmarks, hclears]

/-! ## What the scan rebuilds from the rows -/

/-- At READY the blocks that the scan replays stand as the rows left them, the entries with the values of a cold start (R70). -/
theorem rebuilt_reads (s : State) : (∀ h, s.rebuilt.enterReady.entry h = ((s.scanRows.foldl State.replayRow s).entry h).restarted) ∧
    s.rebuilt.enterReady.authorities = (s.scanRows.foldl State.replayRow s).authorities ∧
    s.rebuilt.enterReady.custody = (s.scanRows.foldl State.replayRow s).custody ∧
    s.rebuilt.enterReady.tamper = (s.scanRows.foldl State.replayRow s).tamper := by
  unfold State.enterReady State.rebuilt State.scanRows
  dsimp only
  generalize (sortBySeq (countedRows s.store.array)).foldl State.replayRow s = u
  exact ⟨fun h => mapVector_getElem HandleEntry.restarted u.directory h.val h.isLt, rfl, rfl, rfl⟩

/-- The part of an authority that only AUTHORITY records describe (R112, R116). -/
def Authority.definition (a : Authority) : Bool × HandleNo × HandleNo × Bool × Bool × Nat :=
  (a.defined, a.commandHandle, a.transportHandle, a.timesetRight, a.unlockRight, a.lockUntil)

theorem raiseCounters_keep (a : Authority) (l : List (Nat × Option Tag)) :
    (l.foldl Authority.raiseCounter a).definition = a.definition ∧ (l.foldl Authority.raiseCounter a).failCount = a.failCount := by
  have hraise : ∀ (a : Authority) x, (a.raiseCounter x).definition = a.definition ∧ (a.raiseCounter x).failCount = a.failCount :=
    fun a x => by
      unfold Authority.raiseCounter
      split
      · exact ⟨rfl, rfl⟩
      · split <;> exact ⟨rfl, rfl⟩
  induction l generalizing a with
  | nil => exact ⟨rfl, rfl⟩
  | cons x l ih =>
    obtain ⟨hdefinition, hcount⟩ := ih (a.raiseCounter x)
    obtain ⟨hdefinition', hcount'⟩ := hraise a x
    exact ⟨hdefinition.trans hdefinition', hcount.trans hcount'⟩

theorem failCount_replay (a : Authority) (k : AuthNo) (d : RowData) : (a.replay k d).failCount = a.failCount := by
  unfold Authority.replay
  refine (raiseCounters_keep _ _).2.trans ?_
  split
  · split <;> rfl
  · rfl

theorem definition_replay_of_describes (a : Authority) {k : AuthNo} {d : RowData} {x : AuthorityRecord}
    (h : d.record = .authority k x) : (a.replay k d).definition =
      (x.defined, x.commandHandle, x.transportHandle, x.timesetRight, x.unlockRight, x.lockUntil) := by
  unfold Authority.replay
  refine (raiseCounters_keep _ _).1.trans ?_
  rw [h]
  dsimp only
  rw [if_pos rfl]
  rfl

theorem definition_replay_of_not_describes (a : Authority) {k : AuthNo} {d : RowData} (h : ∀ x, d.record ≠ .authority k x) :
    (a.replay k d).definition = a.definition := by
  unfold Authority.replay
  refine (raiseCounters_keep _ _).1.trans ?_
  split
  next a' x hd =>
    rw [if_neg fun e => h x (by rw [hd, e])]
  next => rfl

/-- Only a CUSTODY record replaces the custody map (R120). -/
theorem map_replayRow (s : State) {r : PlacedRow} (h : ∀ m, r.2.record ≠ .custody m) :
    (s.replayRow r).custody.map = s.custody.map := by
  rw [custody_replayRow]
  cases hr : r.2.record with
  | custody m => exact absurd hr (h m)
  | _ => rfl

/-- What a setup record carries, and no other row changes: the provisioning state and the setups of both inputs (R123). -/
def State.provisioning (s : State) : Bool × TamperSetup × TamperSetup :=
  (s.custody.final, (s.tamper.input .cover).setup, (s.tamper.input .field).setup)

theorem provisioning_replayRow (s : State) {r : PlacedRow} (h : ∀ a b c, r.2.record ≠ .setup a b c) :
    (s.replayRow r).provisioning = s.provisioning := by
  have hfinal : (s.custody.afterRow r.2.record).final = s.custody.final := by
    cases hr : r.2.record with
    | setup a b c => exact absurd hr (h a b c)
    | _ => rfl
  unfold State.provisioning
  rw [custody_replayRow, input_replayRow, input_replayRow, setup_afterRow _ _ h, setup_afterRow _ _ h, hfinal]

theorem provisioning_replayRow_setup (s : State) {r : PlacedRow} {cover field : TamperSetup} {final : Bool}
    (h : r.2.record = .setup cover field final) : (s.replayRow r).provisioning = (final, cover, field) := by
  unfold State.provisioning
  rw [custody_replayRow, input_replayRow, input_replayRow, h]
  rfl

/-! ## The obligation -/

/-- Settles O18: the rows of each handle one after another, the latest row of each other sort, the largest counter of each
authority, and the latches by the latest of their rows. -/
theorem scanReplaysTheRows : Obligations.ScanReplaysTheRows := by
  unfold Obligations.ScanReplaysTheRows
  intro s rows hdue hperm hsorted latest
  have hrows : s.scanRows = rows := sortBySeq_eq hperm hsorted
  obtain ⟨hpart, -, hentry, hauthority, hcustody, htamper, -⟩ := hdue
  obtain ⟨rentry, rauthorities, rcustody, rtamper⟩ := rebuilt_reads s
  rw [hrows] at rentry rauthorities rcustody rtamper
  have hinput : ∀ i, s.tamper.input i = TamperState.cold := fun i => by rw [htamper]; cases i <;> rfl
  refine ⟨s.rebuilt.enterReady, congrArg Host.Outcome.next (if_pos hpart), fun h => ?entry, fun k => ?authority,
    fun r map hr hmap => ?map, fun hno i => ?noMap, fun r cover field final hr hsetup => ?setup, fun hno => ?noSetup, fun i => ?latch⟩
  case entry =>
    rw [rentry, entry_replayRows, hentry]
    rfl
  case authority =>
    have hread : s.rebuilt.enterReady.authority k = (rows.foldl State.replayRow s).authority k := by
      rw [State.authority, rauthorities]; rfl
    have hlargest := holdsLargest_replayRows rows (s := s) (k := k) (carried := []) (by
      rw [hauthority]; exact ⟨nofun, .inr ⟨rfl, rfl, rfl⟩⟩)
    rw [List.nil_append] at hlargest
    have hkeep : ∀ r : PlacedRow, (¬∃ x, r.2.record = .authority k x) → ∀ u : State,
        ((u.replayRow r).authority k).definition = (u.authority k).definition := fun r hr u => by
      rw [authority_replayRow]
      exact definition_replay_of_not_describes _ fun x hx => hr ⟨x, hx⟩
    have hcount : ((rows.foldl State.replayRow s).authority k).failCount = (s.authority k).failCount :=
      replayRows_keep (g := fun u => (u.authority k).failCount)
        (fun r _ u => by rw [authority_replayRow, failCount_replay]) s
    rw [hread]
    intro a describes carries
    have hcarries : ∀ r c tag, carries r c tag ↔ (c, tag) ∈ r.2.countersFor k := fun r c tag => (mem_countersFor _ _ _ _).symm
    refine ⟨fun r x ⟨hr, hdescribes, hlatest⟩ hx => ?_, fun hno => ?_, ?_, fun r hr c tag hc => ?_, fun ⟨r, hr, c, tag, hc⟩ => ?_,
      fun hno => ?_⟩
    · have hdefinition : a.definition = _ := replayRows_latest (g := fun u => (u.authority k).definition) hsorted hr hlatest
        (fun u => by rw [authority_replayRow]; exact definition_replay_of_describes _ hx) (fun r' _ => hkeep r') s
      simpa [Authority.definition] using hdefinition
    · have hdefinition : a.definition = (s.authority k).definition :=
        replayRows_keep (g := fun u => (u.authority k).definition) (fun r hr => hkeep r (hno r hr)) s
      rw [hauthority] at hdefinition
      simpa [Authority.definition, Authority.undefined] using hdefinition
    · rw [hcount, hauthority]
      rfl
    · exact hlargest.1 _ (List.mem_flatMap.mpr ⟨r, hr, (hcarries r c tag).mp hc⟩)
    · rcases hlargest.2 with hheld | ⟨hnil, -⟩
      · obtain ⟨r', hr', hc'⟩ := List.mem_flatMap.mp hheld
        exact ⟨r', hr', (hcarries _ _ _).mpr hc'⟩
      · have hc' := List.mem_flatMap (f := fun r : PlacedRow => r.2.countersFor k).mpr ⟨r, hr, (hcarries r c tag).mp hc⟩
        rw [hnil] at hc'
        exact absurd hc' List.not_mem_nil
    · rcases hlargest.2 with hheld | ⟨-, hnone⟩
      · obtain ⟨r, hr, hc⟩ := List.mem_flatMap.mp hheld
        exact absurd ((hcarries _ _ _).mpr hc) (hno r hr _ _)
      · exact hnone
  case map =>
    obtain ⟨hr, -, hlatest⟩ := hr
    rw [rcustody]
    exact replayRows_latest (g := fun u => u.custody.map) (f := fun x => ∃ m, x = .custody m) hsorted hr hlatest
      (fun u => by rw [custody_replayRow, hmap]; rfl) (fun r' _ hr' u => map_replayRow u fun m hm => hr' ⟨m, hm⟩) s
  case noMap =>
    rw [rcustody, replayRows_keep (g := fun u => u.custody.map) (fun r hr u => map_replayRow u (hno r hr)) s, hcustody]
    exact Vector.getElem_replicate _
  case setup =>
    obtain ⟨hr, -, hlatest⟩ := hr
    have hlast := replayRows_latest (g := State.provisioning) (f := fun x => ∃ a b c, x = .setup a b c) hsorted hr hlatest
      (fun u => provisioning_replayRow_setup u hsetup)
      (fun r' _ hr' u => provisioning_replayRow u fun a b c h => hr' ⟨a, b, c, h⟩) s
    rw [rcustody, rtamper]
    simpa [State.provisioning, Tamper.input] using hlast
  case noSetup =>
    have hstood := replayRows_keep (g := State.provisioning) (fun r hr u => provisioning_replayRow u (hno r hr)) s
    unfold State.provisioning at hstood
    rw [hinput, hinput, hcustody] at hstood
    rw [rcustody, rtamper]
    simpa [Tamper.input, TamperState.cold, TamperSetup.factory] using hstood
  case latch =>
    intro x marks clears
    obtain ⟨hmark, hcount, hlevel⟩ := input_replayRows_frame rows s i
    have hread : x = (rows.foldl State.replayRow s).tamper.input i := congrArg (Tamper.input · i) rtamper
    rw [hinput] at hmark hcount hlevel
    rw [hread]
    refine ⟨latched_replayRows hsorted (by rw [hinput]; rfl), fun r n ⟨hr, _, hlatest⟩ hn => ?_, hmark, hcount, hlevel⟩
    refine replayRows_latest (g := fun u => (u.tamper.input i).latchTime) (f := fun r => r.Marks i) hsorted hr hlatest
      (fun u => by rw [input_replayRow, hn, afterRow_of_tamper]) (fun r' _ hr' u => ?_) s
    rw [input_replayRow]
    by_cases hclears : r'.2.record.Clears i
    · rw [afterRow_of_clears _ hclears]
    · rw [afterRow_of_neither _ hr' hclears]

end Sys2Proof.Machine

/-!
PROOFS of what FAULT does to the record in hand (R65, R67, R87, R100, R115, R131, R147, R153): what a refusal leaves, what the
refusals of the queue leave together, and every way into FAULT with a record in hand.
-/

namespace Sys2Proof.Machine

open Sys2Proof

/-! ## What a refusal leaves -/

/-- From `s` to `t` jobs end, without effect on an entry beyond its write list. -/
structure EndsJobs (s t : State) : Prop where
  elsewhere : s.sameElsewhere t
  entries : ∀ h, t.entry h = { s.entry h with writeList := (t.entry h).writeList }

theorem EndsJobs.refl (s : State) : EndsJobs s s := ⟨(sameElsewhere_iff s s).mpr rfl, fun _ => rfl⟩

theorem EndsJobs.trans {s t u : State} (h : EndsJobs s t) (k : EndsJobs t u) : EndsJobs s u :=
  ⟨sameElsewhere_trans h.elsewhere k.elsewhere, fun a => by rw [k.entries, h.entries]⟩

section Chain

variable {s t : State} (h : EndsJobs s t)
include h

theorem EndsJobs.finishJob (j : JobId) (st : Status) (values : List Nat) : EndsJobs s (t.finishJob j st values) := by
  cases hx : t.job j with
  | none => rwa [State.finishJob, hx]
  | some x => exact h.trans ⟨finishJob_sameElsewhere hx st values, entry_finishJob hx st values⟩

theorem EndsJobs.finishUse (j : JobId) {st : Status} (hst : st ≠ .ok) (values : List Nat) :
    EndsJobs s (t.finishUse j st values) := by
  cases hx : t.job j with
  | none => rwa [State.finishUse, hx]
  | some x => exact h.trans ⟨finishUse_sameElsewhere hx st values, entry_finishUse_of_ne_ok hx st values hst⟩

theorem EndsJobs.addNotes (j : JobId) (notes : BitVec 16) : EndsJobs s (t.addNotes j notes) :=
  h.trans ⟨(sameElsewhere_iff _ _).mpr rfl, fun _ => rfl⟩

theorem EndsJobs.failCounterWaiters (a : HandleNo) : EndsJobs s (t.failCounterWaiters a) := by
  refine List.foldlRecOn allJobs _ h fun u hu j _ => ?_
  split
  · split
    · exact hu.finishUse j (st := .storeFault) nofun []
    · exact hu
  · exact hu

theorem EndsJobs.dropOrphan (a : Option HandleNo) : EndsJobs s (t.dropOrphan a) := by
  cases a with
  | none => exact h
  | some a =>
    refine h.trans ⟨sameElsewhere_onEntry _ _ _, fun b => ?_⟩
    rw [State.dropOrphan, State.entry_onEntry]
    split
    next hb => rw [hb]
    next => rfl

end Chain

/-- From `s` to `t` refusals alone happen: of the blocks that the record store's appends concern, only marks, the values of counter
writes and write lists change (R131). -/
structure OnlyRefuses (s t : State) : Prop where
  store : t.store = s.store
  authorities : t.authorities = s.authorities
  custody : t.custody = s.custody
  settings : t.settings = s.settings
  supply : t.supply = s.supply
  time : t.time = { s.time with timeMark := t.time.timeMark }
  tamper : ∀ i, t.tamper.input i = { s.tamper.input i with mark := (t.tamper.input i).mark }
  entries : ∀ h, t.entry h = { s.entry h with
    writeList := (t.entry h).writeList, counterPending := (t.entry h).counterPending
    counterFlight := (t.entry h).counterFlight }

theorem OnlyRefuses.refl (s : State) : OnlyRefuses s s := ⟨rfl, rfl, rfl, rfl, rfl, rfl, fun _ => rfl, fun _ => rfl⟩

theorem OnlyRefuses.trans {s t u : State} (h : OnlyRefuses s t) (k : OnlyRefuses t u) : OnlyRefuses s u where
  store := k.store.trans h.store
  authorities := k.authorities.trans h.authorities
  custody := k.custody.trans h.custody
  settings := k.settings.trans h.settings
  supply := k.supply.trans h.supply
  time := by rw [k.time, h.time]
  tamper i := by rw [k.tamper, h.tamper]
  entries a := by rw [k.entries, h.entries]

theorem EndsJobs.onlyRefuses {s t : State} (h : EndsJobs s t) : OnlyRefuses s t := by
  obtain ⟨⟨-, hsettings, hauthorities, hcustody, hstore, htime, htamper, hsupply, -⟩, hentries⟩ := h
  exact ⟨hstore, hauthorities, hcustody, hsettings, hsupply, by rw [htime], fun i => by rw [htamper],
    fun a => by rw [hentries]⟩

/-- What a refusal drops: the mark of a tamper input, the TIME mark, and the values in flight and pending of a handle. -/
structure Drops (s t : State) (marks : TamperInput → Prop) (time : Prop) (flights pendings : HandleNo → Prop) : Prop where
  only : OnlyRefuses s t
  marked : ∀ i, (marks i → (t.tamper.input i).mark = .none) ∧ (¬marks i → (t.tamper.input i).mark = (s.tamper.input i).mark)
  timed : (time → t.time.timeMark = .none) ∧ (¬time → t.time.timeMark = s.time.timeMark)
  flight : ∀ h, (flights h → (t.entry h).counterFlight = none) ∧
    (¬flights h → (t.entry h).counterFlight = (s.entry h).counterFlight)
  pending : ∀ h, (pendings h → (t.entry h).counterPending = none) ∧
    (¬pendings h → (t.entry h).counterPending = (s.entry h).counterPending)

theorem Drops.trans {s t u : State} {m m' : TamperInput → Prop} {τ τ' : Prop} {f f' p p' : HandleNo → Prop}
    (h : Drops s t m τ f p) (k : Drops t u m' τ' f' p') :
    Drops s u (fun i => m i ∨ m' i) (τ ∨ τ') (fun a => f a ∨ f' a) (fun a => p a ∨ p' a) := by
  have hboth : ∀ {α : Type} {P P' : Prop} {a b c d : α}, (P → b = d) ∧ (¬P → b = a) → (P' → c = d) ∧ (¬P' → c = b) →
      (P ∨ P' → c = d) ∧ (¬(P ∨ P') → c = a) := by
    intro α P P' a b c d hP hP'
    refine ⟨fun e => ?_, fun e => ?_⟩
    · by_cases hp' : P'
      · exact hP'.1 hp'
      · exact (hP'.2 hp').trans (hP.1 (e.resolve_right hp'))
    · rw [not_or] at e
      exact (hP'.2 e.2).trans (hP.2 e.1)
  exact ⟨h.only.trans k.only, fun i => hboth (h.marked i) (k.marked i), hboth h.timed k.timed,
    fun a => hboth (h.flight a) (k.flight a), fun a => hboth (h.pending a) (k.pending a)⟩

/-- The same drops, said otherwise. -/
theorem Drops.congr {s t : State} {m m' : TamperInput → Prop} {τ τ' : Prop} {f f' p p' : HandleNo → Prop}
    (h : Drops s t m τ f p) (hm : ∀ i, m i ↔ m' i := by simp) (hτ : τ ↔ τ' := by simp) (hf : ∀ a, f a ↔ f' a := by simp)
    (hp : ∀ a, p a ↔ p' a := by simp) : Drops s t m' τ' f' p' := by
  obtain rfl := funext fun i => propext (hm i)
  obtain rfl := propext hτ
  obtain rfl := funext fun a => propext (hf a)
  obtain rfl := funext fun a => propext (hp a)
  exact h

/-- The end of jobs drops nothing. -/
theorem EndsJobs.drops {s t : State} (h : EndsJobs s t) :
    Drops s t (fun _ => False) False (fun _ => False) fun _ => False := by
  have honly := h.onlyRefuses
  obtain ⟨⟨-, -, -, -, -, htime, htamper, -⟩, hentries⟩ := h
  exact ⟨honly, fun i => ⟨False.elim, fun _ => by rw [htamper]⟩, ⟨False.elim, fun _ => by rw [htime]⟩,
    fun a => ⟨False.elim, fun _ => by rw [hentries]⟩, fun a => ⟨False.elim, fun _ => by rw [hentries]⟩⟩

/-- A mark of a tamper input is none again (R153). -/
theorem drops_mark (s : State) (i : TamperInput) :
    Drops s (s.onTamper fun t => t.onInput i fun x => { x with mark := .none }) (fun i' => i = i') False (fun _ => False)
      fun _ => False := by
  refine ⟨⟨rfl, rfl, rfl, rfl, rfl, rfl, fun i' => ?_, fun _ => rfl⟩, fun i' => ⟨fun e => ?_, fun e => ?_⟩,
    ⟨False.elim, fun _ => rfl⟩, fun _ => ⟨False.elim, fun _ => rfl⟩, fun _ => ⟨False.elim, fun _ => rfl⟩⟩
  · cases i <;> cases i' <;> rfl
  · cases i <;> cases e <;> rfl
  · cases i <;> cases i' <;> first | rfl | exact absurd rfl e

/-- The TIME mark is none again (R147). -/
theorem drops_timeMark (s : State) : Drops s (s.onTime fun t => { t with timeMark := .none }) (fun _ => False) True
    (fun _ => False) fun _ => False :=
  ⟨⟨rfl, rfl, rfl, rfl, rfl, rfl, fun _ => rfl, fun _ => rfl⟩, fun _ => ⟨False.elim, fun _ => rfl⟩,
    ⟨fun _ => rfl, fun e => absurd trivial e⟩, fun _ => ⟨False.elim, fun _ => rfl⟩, fun _ => ⟨False.elim, fun _ => rfl⟩⟩

/-- The values in flight of a handle are discarded (R67). -/
theorem drops_flight (s : State) (a : HandleNo) : Drops s (s.onEntry a fun e => { e with counterFlight := none })
    (fun _ => False) False (fun b => a = b) fun _ => False := by
  refine ⟨⟨rfl, rfl, rfl, rfl, rfl, rfl, fun _ => rfl, fun b => ?_⟩, fun _ => ⟨False.elim, fun _ => rfl⟩,
    ⟨False.elim, fun _ => rfl⟩, fun b => ⟨fun e => ?_, fun e => ?_⟩, fun b => ⟨False.elim, fun _ => ?_⟩⟩
  all_goals rw [State.entry_onEntry]
  · split
    next hb => rw [hb]
    next => rfl
  · rw [if_pos e]
  · rw [if_neg e]
  · split
    next hb => rw [hb]
    next => rfl

/-- The values pending of a handle are discarded (R67). -/
theorem drops_pending (s : State) (a : HandleNo) : Drops s (s.onEntry a fun e => { e with counterPending := none })
    (fun _ => False) False (fun _ => False) fun b => a = b := by
  refine ⟨⟨rfl, rfl, rfl, rfl, rfl, rfl, fun _ => rfl, fun b => ?_⟩, fun _ => ⟨False.elim, fun _ => rfl⟩,
    ⟨False.elim, fun _ => rfl⟩, fun b => ⟨False.elim, fun _ => ?_⟩, fun b => ⟨fun e => ?_, fun e => ?_⟩⟩
  all_goals rw [State.entry_onEntry]
  · split
    next hb => rw [hb]
    next => rfl
  · split
    next hb => rw [hb]
    next => rfl
  · rw [if_pos e]
  · rw [if_neg e]

/-- What the refusal of a requester drops (R131). -/
theorem drops_refuse (s : State) (r : Requester) (a : Option HandleNo) :
    Drops s (s.refuse r a) (fun i => r = .tamper i) (r = .timeMark) (fun b => r = .counter b) fun _ => False := by
  have hr := EndsJobs.refl s
  cases r with
  | package j =>
    cases j with
    | none => exact (hr.dropOrphan a).drops.congr
    | some j => exact (hr.finishJob j _ _).drops.congr
  | confirmByUse j =>
    cases j with
    | none => exact (hr.dropOrphan a).drops.congr
    | some j => exact (hr.finishUse j (st := .storeFault) nofun []).drops.congr
  | lock j =>
    cases j with
    | none => exact hr.drops.congr
    | some j => exact ((hr.addNotes j _).finishJob j _ _).drops.congr
  | counter b =>
    exact ((drops_flight s b).trans ((EndsJobs.refl _).failCounterWaiters b).drops).congr
  | tamper i => exact (drops_mark s i).congr
  | timeMark => exact (drops_timeMark s).congr
  | foldKey | foldRevoke | copyAsIs | rewrite | reclaimMark =>
    exact hr.drops.congr

/-- What the refusal of a queued append drops (R131). -/
theorem drops_refuseQueued (s : State) {q : QueuedAppend}
    (hq : ∀ r p, q = .owned r p → ∃ j, r = .package j ∨ r = .confirmByUse j ∨ r = .lock j) :
    Drops s (s.refuseQueued q) (fun i => q = .tamper i) (q = .timeMark) (fun _ => False) fun b => q = .counter b := by
  cases q with
  | tamper i => exact (drops_refuse s (.tamper i) none).congr
  | timeMark => exact (drops_refuse s .timeMark none).congr
  | counter b =>
    exact ((drops_pending s b).trans ((EndsJobs.refl _).failCounterWaiters b).drops).congr
  | owned r p =>
    have hrefused := drops_refuse s r p.handle?
    obtain ⟨j, rfl | rfl | rfl⟩ := hq r p rfl
    all_goals exact hrefused.congr

/-- What the refusals of a queue drop together (R131). -/
theorem drops_queue (queue : List QueuedAppend) (s : State)
    (hq : ∀ r p, .owned r p ∈ queue → ∃ j, r = .package j ∨ r = .confirmByUse j ∨ r = .lock j) :
    Drops s (queue.foldl State.refuseQueued s) (fun i => .tamper i ∈ queue) (.timeMark ∈ queue) (fun _ => False)
      fun b => .counter b ∈ queue := by
  induction queue generalizing s with
  | nil => exact (EndsJobs.refl s).drops.congr
  | cons q queue ih =>
    have hfirst := drops_refuseQueued s (q := q) fun r p e => hq r p (by rw [e]; exact List.mem_cons_self)
    have hrest := ih (s.refuseQueued q) fun r p hr => hq r p (List.mem_cons_of_mem q hr)
    exact (hfirst.trans hrest).congr (by simp [eq_comm]) (by simp [eq_comm]) (by simp) (by simp [eq_comm])

/-! ## Refusals without a job, and the job that asked -/

/-- Without a job in any record a refusal completes no card. -/
theorem refuse_of_no_jobs {s : State} (h : ∀ j, s.job j = none) (r : Requester) (a : Option HandleNo) :
    (s.refuse r a).port = s.port ∧ ∀ j, (s.refuse r a).job j = none := by
  have hdrop : (s.dropOrphan a).port = s.port ∧ ∀ j, (s.dropOrphan a).job j = none := by
    cases a <;> exact ⟨rfl, h⟩
  cases r with
  | package j =>
    cases j with
    | none => exact hdrop
    | some j => rw [State.refuse, State.finishJob, h]; exact ⟨rfl, h⟩
  | confirmByUse j =>
    cases j with
    | none => exact hdrop
    | some j => rw [State.refuse, State.finishUse, h]; exact ⟨rfl, h⟩
  | lock j =>
    cases j with
    | none => exact ⟨rfl, h⟩
    | some j =>
      have hnoted : ∀ i, (s.addNotes j noteAuthNowLocked).job i = none := fun i => by
        rw [State.addNotes, job_onJob, h, Option.map_none, h, ite_self]
      rw [State.refuse, State.finishJob, hnoted]
      exact ⟨rfl, hnoted⟩
  | counter b =>
    have hfree : ∀ j, (s.onEntry b fun e => { e with counterFlight := none }).job j = none := h
    rw [State.refuse, failCounterWaiters_of_no_jobs hfree]
    exact ⟨rfl, h⟩
  | _ => exact ⟨rfl, h⟩

theorem refuseQueued_of_no_jobs {s : State} (h : ∀ j, s.job j = none) (q : QueuedAppend) :
    (s.refuseQueued q).port = s.port ∧ ∀ j, (s.refuseQueued q).job j = none := by
  cases q with
  | tamper i => exact refuse_of_no_jobs h _ _
  | timeMark => exact refuse_of_no_jobs h _ _
  | counter b =>
    have hfree : ∀ j, (s.onEntry b fun e => { e with counterPending := none }).job j = none := h
    rw [State.refuseQueued, failCounterWaiters_of_no_jobs hfree]
    exact ⟨rfl, h⟩
  | owned r p => exact refuse_of_no_jobs h _ _

theorem refuseQueue_of_no_jobs {s : State} (h : ∀ j, s.job j = none) (queue : List QueuedAppend) :
    (queue.foldl State.refuseQueued s).port = s.port ∧ ∀ j, (queue.foldl State.refuseQueued s).job j = none := by
  refine List.foldlRecOn (motive := fun u : State => u.port = s.port ∧ ∀ j, u.job j = none) queue State.refuseQueued ⟨rfl, h⟩ ?_
  rintro u ⟨hport, hjobs⟩ q -
  obtain ⟨hport', hjobs'⟩ := refuseQueued_of_no_jobs hjobs q
  exact ⟨hport'.trans hport, hjobs'⟩

/-- The record of the only job is refused: the job completes, and no job is left (R65, R67, R87, R100, R115). -/
theorem refuse_of_onlyJob {s : State} {j : JobId} {x : Job} (h : s.OnlyJob j x) (a : Option HandleNo) :
    (∀ q, q = .package (some j) ∨ q = .confirmByUse (some j) ∨ (∃ b, q = .counter b ∧ x.step = .counterWait ∧ x.handle = b) →
      (s.refuse q a).port = s.port.jobDone x .storeFault [] ∧ ∀ i, (s.refuse q a).job i = none) ∧
    (s.refuse (.lock (some j)) a).port = s.port.jobDone { x with notes := x.notes ||| noteAuthNowLocked } .tagBad [] ∧
      ∀ i, (s.refuse (.lock (some j)) a).job i = none := by
  obtain ⟨hx, hothers⟩ := id h
  have hleft : ∀ i, (if i = j then none else s.job i) = none := fun i => by
    split
    next => rfl
    next hi => exact hothers i hi
  constructor
  · rintro q (rfl | rfl | ⟨b, rfl, hstep, hb⟩)
    · exact ⟨finishJob_port hx _ _, fun i => (job_finishJob hx _ _ i).trans (hleft i)⟩
    · exact ⟨finishUse_port hx _ _, fun i => (job_finishUse hx _ _ i).trans (hleft i)⟩
    · have honly : (s.onEntry b fun e => { e with counterFlight := none }).OnlyJob j x := h
      rw [State.refuse, failCounterWaiters_of_onlyJob honly hstep hb]
      exact ⟨finishUse_port honly.1 _ _, fun i => (job_finishUse honly.1 _ _ i).trans (hleft i)⟩
  · have hnoted : (s.addNotes j noteAuthNowLocked).job j = some { x with notes := x.notes ||| noteAuthNowLocked } := by
      rw [State.addNotes, job_onJob, if_pos rfl, hx]
      rfl
    refine ⟨finishJob_port hnoted _ _, fun i => (job_finishJob hnoted _ _ i).trans ?_⟩
    split
    next => rfl
    next hi =>
      rw [State.addNotes, job_onJob, if_neg (Ne.symm hi)]
      exact hothers i hi

/-! ## FAULT with a record in hand -/

/-- A reclaim stopped by FAULT leaves the rows and the next seq (R131). -/
theorem stopReclaim_reads (t : Store) : t.stopReclaim.array = t.array ∧ t.stopReclaim.nextSeq = t.nextSeq := by
  unfold Store.stopReclaim
  split
  · exact ⟨rfl, rfl⟩
  · split <;> exact ⟨rfl, rfl⟩
  · exact ⟨rfl, rfl⟩

/-- `u` is `s` as the record store enters FAULT: the status page's store figures, rows of an erased bank and states of banks may
differ already. -/
structure FaultsFrom (s u : State) : Prop where
  frame : u = { s with port := u.port, store := u.store }
  port : u.port = { s.port with
    figures := { s.port.figures with nextSeq := u.port.figures.nextSeq, erasedRows := u.port.figures.erasedRows } }
  program : u.store.program = s.store.program
  retry : u.store.retry = s.store.retry
  queue : u.store.queue = s.store.queue
  nextSeq : u.store.nextSeq = s.store.nextSeq
  fault : u.store.fault = s.store.fault

theorem FaultsFrom.refl (s : State) : FaultsFrom s s := ⟨rfl, rfl, rfl, rfl, rfl, rfl, rfl⟩

/-- What stands as the refusals begin (R131). -/
theorem FaultsFrom.inFault {s u : State} (h : FaultsFrom s u) (hfault : s.store.fault = false) :
    u.inFault = { s with port := u.inFault.port, store := u.inFault.store } ∧
    u.inFault.port = { s.port with
      alert := s.port.alert ||| alertStoreFault
      figures := { s.port.figures with
        nextSeq := u.inFault.port.figures.nextSeq, erasedRows := u.inFault.port.figures.erasedRows } } ∧
    u.inFault.store.fault = true ∧ u.inFault.store.nextSeq = s.store.nextSeq ∧
    ∀ p, s.store.program = some p → rowAt u.inFault.store.array p.location = .torn := by
  obtain ⟨harray, hseq⟩ := stopReclaim_reads (u.raise alertStoreFault).giveUpProgram.store
  have halert : u.port.alert = s.port.alert := by rw [h.port]
  have hraised : (u.raise alertStoreFault).port = { s.port with
      alert := s.port.alert ||| alertStoreFault
      figures := { s.port.figures with
        nextSeq := u.port.figures.nextSeq, erasedRows := u.port.figures.erasedRows } } := by
    rw [← halert]
    exact congrArg (fun p : Port => { p with alert := u.port.alert ||| alertStoreFault }) h.port
  have hframe : u.raise alertStoreFault = { s with port := (u.raise alertStoreFault).port, store := u.store } :=
    congrArg (fun v : State => { v with port := (u.raise alertStoreFault).port }) h.frame
  unfold State.inFault
  rw [h.fault, hfault, if_neg Bool.false_ne_true]
  cases hp : u.store.program with
  | none =>
    have hgiven : (u.raise alertStoreFault).giveUpProgram = u.raise alertStoreFault := by
      unfold State.giveUpProgram
      rw [show (u.raise alertStoreFault).store.program = none from hp]
    rw [hgiven] at hseq ⊢
    refine ⟨?_, ?_, rfl, ?_, fun p e => ?_⟩
    · rw [hframe]
      rfl
    · exact hraised
    · exact hseq.trans h.nextSeq
    · rw [← h.program, hp] at e
      cases e
  | some p =>
    have hgiven : (u.raise alertStoreFault).giveUpProgram = (u.raise alertStoreFault).endProgram p.location .torn := by
      unfold State.giveUpProgram
      rw [show (u.raise alertStoreFault).store.program = some p from hp]
    rw [hgiven] at hseq harray ⊢
    rw [endProgram_eq] at hseq harray ⊢
    refine ⟨?_, ?_, rfl, ?_, fun p' e => ?_⟩
    · rw [hframe]
      rfl
    · exact congrArg (fun v : Port => { v with figures := { v.figures with
        nextSeq := (u.raise alertStoreFault).store.nextSeq
        erasedRows := (u.raise alertStoreFault).store.advanceHead.erasedRows } }) hraised
    · exact hseq.trans ((advanceHead_reads _).2.trans h.nextSeq)
    · rw [← h.program, hp] at e
      obtain rfl := Option.some.inj e
      exact (congrArg (rowAt · p.location) harray).trans ((rowAt_setRow _ _ _ _).trans (if_pos rfl))

/-- A row of the erased bank, as the erase left it (R137). -/
theorem rowAt_eraseRows_self (a : RowArray) (b : BankNo) (f : Nat → RowResidue) (n : RowNo) :
    rowAt (eraseRows a b f) ⟨b, n⟩ = (rowAt a ⟨b, n⟩).after (f n.val) := by
  simp [rowAt, eraseRows]

/-- The state in which the failed erase of bank `b` brings FAULT (R131, R137). -/
def State.eraseBad (s : State) (b : BankNo) (residue : List RowResidue) : State :=
  ((s.onStore fun t => { t with array := eraseRows t.array b fun n => residue.getD n .blank, erase := none }).onStore fun t =>
    { t with banks := t.banks.set b .needsErase, reclaim := if t.reclaimErases b then none else t.reclaim }).refreshFigures

/-- A refused bank, row or start brings FAULT from the state as it stands. -/
theorem exec_fault {c : Instr} {s : State} {q : Requester} (hfault : s.store.fault = false)
    (hheld : s.store.holdsRecordOf q)
    (hcause : (c = .appendAbandonment ∧ ∃ p, s.store.program = some p ∧ 2 ≤ p.failures) ∨
      (c = .retryStart ∧ s.resetCtl.part = .ready ∧ s.store.program = none ∧
        (s.store.erasedRows ≤ 12 ∨ s.store.nextSeq = 0xFFFFFFFF)) ∨
      (∃ b residue n, c = .eraseCompletion residue ∧ s.store.erase = some b ∧
        (rowAt s.store.array ⟨b, n⟩).after (residue.getD n.val .blank) ≠ .blank) ∨
      ∃ (tail : BankNo) (w : CopyWalk) (h : HandleNo) (g : Nat) (l : Location) (crcOk : Bool), c = .foldReadEnd crcOk ∧
        s.store.reclaim = some ⟨tail, .copy { w with stage := .reading h g (some l) }, false⟩ ∧
        (crcOk = false ∨ ∀ d k, rowAt s.store.array l = .valid d → d.record ≠ .key h g k)) :
    ∃ u, FaultsFrom s u ∧ exec c s = .next u.enterFault.settle := by
  rcases hcause with ⟨rfl, p, hp, hfailures⟩ | ⟨rfl, hready, hprogram, hbounded⟩ | ⟨b, residue, n, rfl, herase, hrow⟩ |
    ⟨tail, w, h, g, l, crcOk, rfl, hreclaim, hbad⟩
  · refine ⟨s, .refl s, ?_⟩
    rw [exec, execAppendAbandonment, hp]
    dsimp only
    rw [if_neg (by omega)]
  · refine ⟨s, .refl s, ?_⟩
    have hretry : ∃ r, s.store.retry = some r := by
      rcases hheld with ⟨p, hp, -⟩ | ⟨r, hr, -⟩
      · cases hprogram.symm.trans hp
      · exact ⟨r, hr⟩
    obtain ⟨r, hr⟩ := hretry
    have hdue : s.retryReady = true := by simp [State.retryReady, hready, hfault, hprogram, hr]
    rw [exec, execRetryStart, if_pos hdue, hr]
    dsimp only
    rw [if_pos (show s.store.erasedRows ≤ 12 ∨ s.store.nextSeq = seqEnd from hbounded)]
  · have hfails : ¬bankBlank (eraseRows s.store.array b fun n => residue.getD n .blank) b = true := fun hblank =>
      hrow ((rowAt_eraseRows_self _ _ _ n).symm.trans ((bankBlank_iff _ b).mp hblank n))
    refine ⟨s.eraseBad b residue, ⟨rfl, rfl, rfl, rfl, rfl, rfl, rfl⟩, ?_⟩
    rw [exec, execEraseCompletion, herase]
    exact congrArg Host.Outcome.next (if_neg hfails)
  · refine ⟨s, .refl s, ?_⟩
    have hstage : s.store.copyStage = some (.reading h g (some l)) := by rw [Store.copyStage, hreclaim]
    have hnone : keyRowFor (rowAt s.store.array l) crcOk h g = none := by
      unfold keyRowFor
      split
      next d hd =>
        split
        next x g' k hk =>
          refine if_neg fun ⟨hcrc, hx, hg⟩ => ?_
          rcases hbad with hbad | hbad
          · cases hbad.symm.trans hcrc
          · exact hbad d k hd (by rw [hk, hx, hg])
        next => rfl
      next => rfl
    rw [exec, execFoldReadEnd, hstage]
    dsimp only
    rw [hnone]

/-- The record in hand and its requester, where only one is in hand. -/
theorem recordsInHand_of_holds {t : Store} {q : Requester} (hone : t.program = none ∨ t.retry = none)
    (hheld : t.holdsRecordOf q) : ∃ a, t.recordsInHand = [(q, a)] := by
  unfold Store.recordsInHand
  rcases hheld with ⟨p, hp, rfl⟩ | ⟨r, hr, rfl⟩
  · have hr : t.retry = none := hone.resolve_left (by rw [hp]; nofun)
    rw [hp, hr]
    exact ⟨_, rfl⟩
  · have hp : t.program = none := hone.resolve_right (by rw [hr]; nofun)
    rw [hp, hr]
    exact ⟨_, rfl⟩

/-- A completion leaves the store figures of the status page (R23). -/
theorem jobDone_store_figures (p : Port) (x : Job) (st : Status) (values : List Nat) :
    (p.jobDone x st values).figures.nextSeq = p.figures.nextSeq ∧
      (p.jobDone x st values).figures.erasedRows = p.figures.erasedRows := by
  have hcount : ∀ (f : PageFigures) (g : Group), (f.count g st).nextSeq = f.nextSeq ∧ (f.count g st).erasedRows = f.erasedRows :=
    fun f g => by rw [count_eq]; exact ⟨rfl, rfl⟩
  exact hcount p.figures _

theorem eq_ite_of {α : Type} {P : Prop} [Decidable P] {b c d : α} (h : (P → b = c) ∧ (¬P → b = d)) :
    b = if P then c else d := by
  split
  next hP => exact h.1 hP
  next hP => exact h.2 hP

/-! ## The obligation -/

/-- Settles O47: FAULT refuses the record in hand, then the queue; the job that asked completes in the first refusal. -/
theorem faultGivesUpTheRecordInHand : Obligations.FaultGivesUpTheRecordInHand := by
  unfold Obligations.FaultGivesUpTheRecordInHand
  intro c s q badFoldRead hfault hone hheld howned hcause refused shown completes
  obtain ⟨u, hu, hexec⟩ := exec_fault hfault hheld hcause
  obtain ⟨hframe, hport, hin, hseq, htorn⟩ := hu.inFault hfault
  obtain ⟨-, hprogram, hretry, hqueue⟩ := inFault_reads u
  have hhand : ∃ a, u.store.recordsInHand = [(q, a)] := by
    rw [Store.recordsInHand, hu.program, hu.retry]
    exact recordsInHand_of_holds hone hheld
  obtain ⟨a, hhand⟩ := hhand
  have hfaulted : u.enterFault = s.store.queue.foldl State.refuseQueued (u.inFault.refuse q a) := by
    rw [enterFault_eq, hhand, hu.queue]
    rfl
  have hdrops : Drops u.inFault u.enterFault (fun i => q = .tamper i ∨ .tamper i ∈ s.store.queue)
      (q = .timeMark ∨ .timeMark ∈ s.store.queue) (fun b => q = .counter b) fun b => .counter b ∈ s.store.queue := by
    rw [hfaulted]
    exact ((drops_refuse u.inFault q a).trans (drops_queue s.store.queue (u.inFault.refuse q a) howned)).congr
  have hrefused : refused u.enterFault := by
    have honly := hdrops.only
    have hstood : u.inFault.authorities = s.authorities ∧ u.inFault.custody = s.custody ∧ u.inFault.settings = s.settings ∧
        u.inFault.supply = s.supply ∧ u.inFault.time = s.time ∧ u.inFault.tamper = s.tamper ∧
        u.inFault.directory = s.directory := by
      rw [hframe]
      exact ⟨rfl, rfl, rfl, rfl, rfl, rfl, rfl⟩
    obtain ⟨hauthorities, hcustody, hsettings, hsupply, htime, htamper, hdirectory⟩ := hstood
    refine ⟨?_, fun p hp => ?_, ⟨honly.authorities.trans hauthorities, honly.custody.trans hcustody,
      honly.settings.trans hsettings, honly.supply.trans hsupply⟩, ?_, htime ▸ honly.time, fun i => htamper ▸ honly.tamper i,
      fun h => State.entry_congr hdirectory h ▸ honly.entries h⟩
    · rw [honly.store]
      exact ⟨hin, hqueue, hprogram, hretry⟩
    · rw [honly.store]
      exact htorn p hp
    · rw [honly.store]
      exact hseq
  have hends : ∀ {p : Port}, (u.inFault.refuse q a).port = p → (∀ j, (u.inFault.refuse q a).job j = none) →
      exec c s = .next u.enterFault ∧ u.enterFault.port = p ∧ ∀ j, u.enterFault.job j = none := fun hp hjobs => by
    obtain ⟨hport', hjobs'⟩ := refuseQueue_of_no_jobs hjobs s.store.queue
    rw [← hfaulted] at hport' hjobs'
    exact ⟨by rw [hexec, settle_of_no_jobs hjobs'], hport'.trans hp, hjobs'⟩
  have hjob : ∀ j, u.inFault.job j = s.job j := fun j => by
    rw [hframe]
    rfl
  have hcompletes : ∀ y st, (u.inFault.refuse q a).port = u.inFault.port.jobDone y st [] →
      (∀ j, (u.inFault.refuse q a).job j = none) → completes y st := fun y st hdone hjobs => by
    obtain ⟨hexec', hport', hjobs'⟩ := hends hdone hjobs
    refine ⟨u.enterFault, hexec', hrefused, ?_, hjobs'⟩
    have hfigures : u.enterFault.port.figures.nextSeq = u.inFault.port.figures.nextSeq ∧
        u.enterFault.port.figures.erasedRows = u.inFault.port.figures.erasedRows := by
      rw [hport']
      exact jobDone_store_figures _ _ _ _
    rw [show shown u.enterFault = u.inFault.port from by rw [hport]; simp only [shown, hfigures]]
    exact hport'
  refine ⟨fun j x hjobs => ?_, fun hnone => ?_⟩
  · have hjobs' : u.inFault.OnlyJob j x := ⟨(hjob j).trans hjobs.1, fun i hi => (hjob i).trans (hjobs.2 i hi)⟩
    obtain ⟨hasked, hlock⟩ := refuse_of_onlyJob hjobs' a
    refine ⟨fun hq => ?_, fun hq => ?_, fun h hq hstep hh => ?_⟩
    · obtain ⟨hdone, hfree⟩ := hasked q (hq.imp_right .inl)
      exact hcompletes x .storeFault hdone hfree
    · subst hq
      exact hcompletes _ .tagBad hlock.1 hlock.2
    · obtain ⟨hdone, hfree⟩ := hasked q (.inr (.inr ⟨h, hq, hstep, hh⟩))
      exact hcompletes x .storeFault hdone hfree
  · obtain ⟨hstands, hfree⟩ := refuse_of_no_jobs (fun j => (hjob j).trans (hnone j)) q a
    obtain ⟨hexec', hport', -⟩ := hends hstands hfree
    have htime : u.inFault.time = s.time := by rw [hframe]
    have htamper : u.inFault.tamper = s.tamper := by rw [hframe]
    have hentry : ∀ h, u.inFault.entry h = s.entry h := fun h => by rw [hframe]; rfl
    refine ⟨u.enterFault, hexec', hrefused, ?_, fun i => ?_, ?_, fun h => ⟨?_, ?_⟩⟩
    · simp only [shown, hport']
      exact hport
    · rw [← htamper]
      exact eq_ite_of (hdrops.marked i)
    · rw [← htime]
      exact eq_ite_of hdrops.timed
    · rw [← hentry]
      exact eq_ite_of (hdrops.flight h)
    · rw [← hentry]
      exact eq_ite_of (hdrops.pending h)

end Sys2Proof.Machine

/-!
PROOFS of the completion of a program (R130): the event where no COPY is in progress, and the records of handle packages
(R67, R71, R75, R100 to R105, R113, R140).
-/

namespace Sys2Proof.Machine

open Sys2Proof

/-! ## The event -/

/-- The state in which a durable row's effect begins: the row stands, and the last recorded stamp is raised (R130, R147). -/
def State.rowEnded (s : State) (loc : Location) (d : RowData) : State :=
  (s.endProgram loc (.valid d)).onTime fun t => { t with lastStamp := max t.lastStamp d.stamp }

theorem rowEnded_eq (s : State) (loc : Location) (d : RowData) : s.rowEnded loc d = { s with
    store := { s.store.advanceHead with array := setRow s.store.array loc (.valid d), program := none }
    port := { s.port with figures := s.figuresAfter }
    time := { s.time with lastStamp := max s.time.lastStamp d.stamp } } := by
  rw [State.rowEnded, endProgram_eq]
  rfl

/-- The service of jobs leaves a reclaim as it stands. -/
theorem Served.reclaim {s t : State} (h : Served s t) : t.store.reclaim = s.store.reclaim :=
  (congrArg Store.reclaim h.store :)

/-- The effect of a package's record leaves a reclaim as it stands. -/
theorem reclaim_applyPackageRecord (s : State) (loc : Location) (stamp : Nat) (r : Record) :
    (s.applyPackageRecord loc stamp r).store.reclaim = s.store.reclaim := by
  cases r with
  | key a gen k =>
    unfold State.applyPackageRecord
    dsimp only
    split
    · rfl
    · exact ((Served.refl (s.onEntry a _)).staleCounters a).reclaim
    · rfl
  | confirm a gen grace ceiling =>
    unfold State.applyPackageRecord
    dsimp only
    split
    · exact ((Served.refl (s.onEntry a _)).staleCounters a).reclaim
    · rfl
  | revoke a gen highest role =>
    unfold State.applyPackageRecord
    dsimp only
    exact (((Served.refl (s.onEntry a fun e => e.applyRevoke highest role)).revokeWipes a).staleCounters a).reclaim
  | setup cover field final => cases final <;> rfl
  | time offered => cases offered <;> rfl
  | _ => rfl

theorem reclaim_acceptPackage (s : State) (header : RowHeader) : (s.acceptPackage header).store.reclaim = s.store.reclaim := by
  unfold State.acceptPackage
  split <;> rfl

/-- No durable row begins a reclaim. -/
theorem reclaim_applyDurable {s : State} (h : s.store.reclaim = none) (r : Requester) (loc : Location) (d : RowData) :
    (s.applyDurable r loc d).store.reclaim = none := by
  have hrecord := (reclaim_applyPackageRecord s loc d.stamp d.record).trans h
  cases r with
  | package job =>
    have haccepted := (reclaim_acceptPackage _ d.header).trans hrecord
    cases job with
    | none => exact ((Served.refl _).dropOrphan _).reclaim.trans haccepted
    | some j =>
      unfold State.applyDurable State.completePackage
      dsimp only
      split
      · exact haccepted
      · split
        · exact ((Served.refl _).finishJob _ _ _).reclaim.trans haccepted
        · exact ((Served.refl _).finishJob _ _ _).reclaim.trans haccepted
  | confirmByUse job =>
    cases job with
    | none => exact ((Served.refl _).dropOrphan _).reclaim.trans hrecord
    | some j =>
      unfold State.applyDurable State.completeConfirm
      dsimp only
      split
      · exact hrecord
      · split
        · exact ((Served.refl _).finishUse _ _ _).reclaim.trans hrecord
        · exact (((Served.refl _).addNotes _ _).finishUse _ _ _).reclaim.trans hrecord
  | lock job =>
    cases job with
    | none => exact h
    | some j => exact (((Served.refl _).addNotes _ _).finishJob _ _ _).reclaim.trans h
  | counter a =>
    unfold State.applyDurable State.completeCounter
    dsimp only
    exact (((Served.refl (s.onEntry a _)).releaseCounterWaiters a).reservationCheck a).reclaim.trans h
  | foldRevoke a => exact hrecord
  | reclaimMark b =>
    unfold State.applyDurable State.completeReclaimMark
    dsimp only
    rw [h]
    rfl
  | _ => exact h

/-- Where no COPY is in progress, the completion of a program is its requester's effect, and what that lets go on (R130). -/
theorem exec_appendCompletion {s : State} {p : Program} (hp : s.store.program = some p) (hreclaim : s.store.reclaim = none) :
    exec .appendCompletion s = .next ((s.rowEnded p.location p.data).applyDurable p.requester p.location p.data).settle := by
  have hended : (s.rowEnded p.location p.data).store.reclaim = none := by
    rw [rowEnded_eq]
    exact (advanceHead_reads s.store).1.trans hreclaim
  have hdurable := reclaim_applyDurable hended p.requester p.location p.data
  rw [exec, execAppendCompletion, hp]
  change Host.Outcome.next ((((State.applyDurable (s.rowEnded p.location p.data) p.requester p.location p.data).copyRowDone
    p.requester).onStore Store.dropAbandoned).settle).copyAdvance = _
  generalize (s.rowEnded p.location p.data).applyDurable p.requester p.location p.data = u at hdurable
  have hrow : u.copyRowDone p.requester = u := by
    unfold State.copyRowDone
    split
    · have hstage : u.store.setCopyStage .idle = u.store := by rw [Store.setCopyStage, hdurable]
      rw [State.onStore, hstage]
    · rfl
  have hdrop : u.onStore Store.dropAbandoned = u := by
    have hkept : u.store.dropAbandoned = u.store := by
      rw [Store.dropAbandoned, hdurable, Option.any_none, Bool.and_false]
      rfl
    rw [State.onStore, hkept]
  have hsettled : u.settle.store.reclaim = none := (Served.refl u).settle.reclaim.trans hdurable
  rw [hrow, hdrop, State.copyAdvance, hsettled]


/-! ## The completion of a handle package's record -/

/-- A record for handle `h` has changed its entry to `e'`, and wiped slots at most. -/
structure State.ChangesEntry (s a : State) (h : HandleNo) (e' : HandleEntry) : Prop where
  engine : a.engine = s.engine
  port : a.port = s.port
  authorities : a.authorities = s.authorities
  custody : a.custody = s.custody
  tamper : a.tamper = s.tamper
  lists : ∀ i, (a.slot i).list = (s.slot i).list
  entry : a.entry h = e'
  others : ∀ h', h' ≠ h → a.entry h' = s.entry h'

theorem State.ChangesEntry.onEntry (s : State) (h : HandleNo) (f : HandleEntry → HandleEntry) :
    s.ChangesEntry (s.onEntry h f) h (f (s.entry h)) :=
  ⟨rfl, rfl, rfl, rfl, rfl, fun _ => rfl, s.entry_onEntry_self h f, fun _ hne => by rw [s.entry_onEntry, if_neg hne.symm]⟩

theorem entry_onStore (s : State) (f : Store → Store) (h : HandleNo) : (s.onStore f).entry h = s.entry h := rfl

/-- Where no job waits COUNTER, the pending counter write of the handle is discarded (R67). -/
theorem State.ChangesEntry.staleCounters {s a : State} {h : HandleNo} {e' : HandleEntry} (ha : s.ChangesEntry a h e')
    (hsteps : ∀ j x, s.job j = some x → x.step ≠ .counterWait) :
    s.ChangesEntry (a.staleCounters h) h { e' with counterPending := none } := by
  obtain ⟨hengine, hport, hauthorities, hcustody, htamper, hlists, hentry, hothers⟩ := ha
  rw [staleCounters_of_no_waiter h fun j x hx => hsteps j x ((State.job_congr hengine j).symm.trans hx)]
  refine ⟨hengine, hport, hauthorities, hcustody, htamper, hlists, ?_, fun h' hne => ?_⟩
  · rw [entry_onStore, State.entry_onEntry_self, hentry]
  · rw [entry_onStore, State.entry_onEntry, if_neg hne.symm, hothers h' hne]

/-- The completion of a package's record whose effect is `a` (R100, R103). -/
def State.packageDone (a : State) (owner : Option (JobId × Job)) (d : RowData) (late : Bool) : State :=
  match owner with
  | some (j, x) =>
    if late then (a.acceptPackage d.header).finishJob j .notStaged []
    else (a.acceptPackage d.header).finishJob j .ok (pkgResults x.input)
  | none => (a.acceptPackage d.header).dropOrphan d.record.handle?

theorem acceptPackage_eq {header : RowHeader} {k : AuthNo} {c : Nat} {tag : Tag} (hheader : header = ⟨some k, some (c, tag)⟩)
    (s : State) : s.acceptPackage header = s.onAuthority k fun a => { a with accepted := c, lastTag := some tag } := by
  rw [hheader]
  rfl

theorem applyDurable_package {s a : State} {owner : Option (JobId × Job)} {loc : Location} {d : RowData}
    (ha : s.applyPackageRecord loc d.stamp d.record = a) (hjob : ∀ j x, owner = some (j, x) → a.job j = some x) :
    s.applyDurable (.package (owner.map (·.1))) loc d = a.packageDone owner d (s.lateConfirm d) := by
  cases owner with
  | none =>
    unfold State.applyDurable
    dsimp only [Option.map]
    rw [ha]
    rfl
  | some o =>
    obtain ⟨j, x⟩ := o
    have hx : (a.acceptPackage d.header).job j = some x := by
      unfold State.acceptPackage
      split <;> exact hjob j x rfl
    unfold State.applyDurable
    dsimp only [Option.map]
    rw [ha, State.completePackage, hx]
    rfl

/-- A handle package's record has become durable (R100, R113, R140): what the event shows. -/
structure State.RecordLands (s t : State) (owner : Option (JobId × Job)) (h : HandleNo) (k : AuthNo) (c : Nat) (tag : Tag)
    (st : Status) (values : Job → List Nat) (e' : HandleEntry) : Prop where
  port : ∀ j x, owner = some (j, x) → t.port = ({ s.port with figures := s.figuresAfter } : Port).jobDone x st (values x)
  orphan : owner = none → t.port = { s.port with figures := s.figuresAfter } ∧
    (t.entry h).writeList = (s.entry h).writeList.filter fun w => w.owner.isSome
  jobs : ∀ j, t.job j = none
  authorities : ∀ k', t.authority k' = if k' = k then { s.authority k with accepted := c, lastTag := some tag } else s.authority k'
  others : ∀ h', h' ≠ h → t.entry h' = { s.entry h' with writeList := (t.entry h').writeList }
  entry : t.entry h = { e' with writeList := (t.entry h).writeList }
  custody : t.custody = s.custody
  tamper : t.tamper = s.tamper

theorem State.rowEnded_reads (s : State) (loc : Location) (d : RowData) : (s.rowEnded loc d).engine = s.engine ∧
    (s.rowEnded loc d).port = { s.port with figures := s.figuresAfter } ∧ (s.rowEnded loc d).slots = s.slots ∧
    (s.rowEnded loc d).directory = s.directory ∧ (s.rowEnded loc d).authorities = s.authorities ∧
    (s.rowEnded loc d).custody = s.custody ∧ (s.rowEnded loc d).tamper = s.tamper ∧ (s.rowEnded loc d).time.tt = s.time.tt := by
  rw [rowEnded_eq]
  exact ⟨rfl, rfl, rfl, rfl, rfl, rfl, rfl, rfl⟩

/-- A handle package's record for `h` has changed its entry to `e'`, and its authority has taken counter and tag; its job, where
there is one, is still in hand. -/
structure State.RecordTakes (s b : State) (h : HandleNo) (k : AuthNo) (c : Nat) (tag : Tag) (e' : HandleEntry) : Prop where
  jobs : ∀ i, b.job i = s.job i
  port : b.port = { s.port with figures := s.figuresAfter }
  authorities : ∀ k', b.authority k' = if k' = k then { s.authority k with accepted := c, lastTag := some tag } else s.authority k'
  custody : b.custody = s.custody
  tamper : b.tamper = s.tamper
  entry : b.entry h = e'
  others : ∀ h', h' ≠ h → b.entry h' = s.entry h'

theorem State.ChangesEntry.takes {s a : State} {loc : Location} {d : RowData} {h : HandleNo} {e' : HandleEntry} {k : AuthNo}
    {c : Nat} {tag : Tag} (ha : (s.rowEnded loc d).ChangesEntry a h e') (hheader : d.header = ⟨some k, some (c, tag)⟩) :
    s.RecordTakes (a.acceptPackage d.header) h k c tag e' := by
  obtain ⟨hengine, hport, hauthorities, hcustody, htamper, -, hentry, hothers⟩ := ha
  obtain ⟨hengine₀, hport₀, -, hdirectory₀, hauthorities₀, hcustody₀, htamper₀, -⟩ := s.rowEnded_reads loc d
  have hauthority : ∀ k', a.authority k' = s.authority k' := fun k' => by
    rw [State.authority, hauthorities, hauthorities₀]
    rfl
  rw [acceptPackage_eq hheader]
  refine ⟨State.job_congr (hengine.trans hengine₀), hport.trans hport₀, fun k' => ?_, hcustody.trans hcustody₀,
    htamper.trans htamper₀, hentry, fun h' hne => ?_⟩
  · rw [State.authority_onAuthority, hauthority, hauthority]
    exact ite_congr (propext eq_comm) (fun _ => rfl) fun _ => rfl
  · refine (hothers h' hne).trans ?_
    rw [State.entry, hdirectory₀]
    rfl

section Lands

variable {s b : State} {h : HandleNo} {k : AuthNo} {c : Nat} {tag : Tag} {e' : HandleEntry} (hb : s.RecordTakes b h k c tag e')
include hb

/-- The record's job completes (R100). -/
theorem State.RecordTakes.finishJob {j : JobId} {x : Job} (hx : s.OnlyJob j x) (st : Status) (values : Job → List Nat) :
    s.RecordLands (b.finishJob j st (values x)) (some (j, x)) h k c tag st values e' := by
  obtain ⟨hjobs, hport, hauthority, hcustody, htamper, hentry, hothers⟩ := hb
  obtain ⟨hx, honly⟩ := hx
  have hx' := (hjobs j).trans hx
  obtain ⟨-, -, hauthorities', hcustody', -, -, htamper', -⟩ := finishJob_sameElsewhere hx' st (values x)
  refine ⟨fun _ _ e => ?_, fun e => (by cases e), fun i => ?_, fun k' => ?_, fun h' hne => ?_, ?_, hcustody'.trans hcustody,
    htamper'.trans htamper⟩
  · cases e
    rw [finishJob_port hx', hport]
  · rw [job_finishJob hx']
    split
    · rfl
    · exact (hjobs i).trans (honly i ‹_›)
  · rw [State.authority, hauthorities']
    exact hauthority k'
  · rw [entry_finishJob hx', hothers h' hne]
  · rw [entry_finishJob hx', hentry]

/-- A warm reset has aborted the record's job: the write that it left leaves its write list (R71, R140). -/
theorem State.RecordTakes.dropOrphan (hnone : ∀ i, s.job i = none) (hwrites : e'.writeList = (s.entry h).writeList) (st : Status)
    (values : Job → List Nat) : s.RecordLands (b.dropOrphan (some h)) none h k c tag st values e' := by
  obtain ⟨hjobs, hport, hauthority, hcustody, htamper, hentry, hothers⟩ := hb
  have hself : (b.dropOrphan (some h)).entry h = { e' with writeList := e'.writeList.filter fun w => w.owner != none } := by
    rw [State.dropOrphan, State.entry_onEntry_self, hentry]
  refine ⟨fun _ _ e => (by cases e), fun _ => ⟨hport, ?_⟩, fun i => (hjobs i).trans (hnone i), hauthority, fun h' hne => ?_, ?_,
    hcustody, htamper⟩
  · rw [hself, ← hwrites]
    exact List.filter_congr fun w _ => by cases w.owner <;> rfl
  · rw [State.dropOrphan, State.entry_onEntry, if_neg hne.symm, hothers h' hne]
  · rw [hself]

end Lands

/-- The event of a handle package's record whose effect is `a`. -/
theorem State.RecordEnds.lands {s a : State} {owner : Option (JobId × Job)} {loc : Location} {d : RowData} {h : HandleNo}
    {k : AuthNo} {c : Nat} {tag : Tag} {e' : HandleEntry} (hends : s.RecordEnds owner loc d)
    (hheader : d.header = ⟨some k, some (c, tag)⟩) (hhandle : d.record.handle? = some h)
    (happly : (s.rowEnded loc d).applyPackageRecord loc d.stamp d.record = a) (ha : (s.rowEnded loc d).ChangesEntry a h e')
    (hwrites : e'.writeList = (s.entry h).writeList) {st : Status} {values : Job → List Nat}
    (hst : if (s.rowEnded loc d).lateConfirm d = true then st = .notStaged ∧ values = fun _ => []
      else st = .ok ∧ values = fun x => pkgResults x.input) :
    ∃ t, exec .appendCompletion s = .next t ∧ s.RecordLands t owner h k c tag st values e' ∧
      ∀ i, (t.slot i).state = (a.slot i).state := by
  obtain ⟨hreclaim, -, -, ⟨payload, failures, hprogram⟩, howner⟩ := hends
  have htakes := ha.takes hheader
  have hjobs : ∀ i, a.job i = s.job i := State.job_congr (ha.engine.trans (s.rowEnded_reads loc d).1)
  have hdurable := applyDurable_package (owner := owner) happly fun j x ho => by
    subst ho
    obtain ⟨⟨hx, -⟩, -⟩ := howner
    exact (hjobs j).trans hx
  have hdone : s.RecordLands (a.packageDone owner d ((s.rowEnded loc d).lateConfirm d)) owner h k c tag st values e' ∧
      ∀ i, ((a.packageDone owner d ((s.rowEnded loc d).lateConfirm d)).slot i).state = (a.slot i).state := by
    have hslots : ∀ i, (a.acceptPackage d.header).slot i = a.slot i := fun i => by
      rw [acceptPackage_eq hheader]
      rfl
    cases owner with
    | none =>
      obtain ⟨hnone, -⟩ := howner
      rw [State.packageDone, hhandle]
      exact ⟨htakes.dropOrphan hnone hwrites st values, fun i => congrArg Slot.state (hslots i)⟩
    | some o =>
      obtain ⟨j, x⟩ := o
      obtain ⟨honly, -⟩ := howner
      have hfinish : a.packageDone (some (j, x)) d ((s.rowEnded loc d).lateConfirm d) =
          (a.acceptPackage d.header).finishJob j st (values x) := by
        rw [State.packageDone]
        split at hst
        · obtain ⟨rfl, rfl⟩ := hst
          exact if_pos ‹_›
        · obtain ⟨rfl, rfl⟩ := hst
          exact if_neg ‹_›
      rw [hfinish]
      refine ⟨htakes.finishJob honly st values, fun i => ?_⟩
      rw [slot_finishJob ((htakes.jobs j).trans honly.1), hslots]
      rfl
  refine ⟨_, (exec_appendCompletion hprogram hreclaim).trans ?_, hdone⟩
  rw [hdurable, settle_of_no_jobs hdone.1.jobs]

/-- The same where the job completes OK. -/
theorem State.RecordEnds.lands_ok {s a : State} {owner : Option (JobId × Job)} {loc : Location} {d : RowData} {h : HandleNo}
    {k : AuthNo} {c : Nat} {tag : Tag} {e' : HandleEntry} (hends : s.RecordEnds owner loc d)
    (hheader : d.header = ⟨some k, some (c, tag)⟩) (hhandle : d.record.handle? = some h)
    (happly : (s.rowEnded loc d).applyPackageRecord loc d.stamp d.record = a) (ha : (s.rowEnded loc d).ChangesEntry a h e')
    (hwrites : e'.writeList = (s.entry h).writeList) (hlate : (s.rowEnded loc d).lateConfirm d = false) :
    ∃ t, exec .appendCompletion s = .next t ∧ s.RecordLands t owner h k c tag .ok (fun x => pkgResults x.input) e' ∧
      ∀ i, (t.slot i).state = (a.slot i).state :=
  hends.lands hheader hhandle happly ha hwrites (by
    rw [hlate]
    exact ⟨rfl, rfl⟩)


/-! ## What each record makes of its entry -/

section Effects

variable {s : State} {owner : Option (JobId × Job)} {loc : Location} {d : RowData} {h : HandleNo}

theorem entry_rowEnded (s : State) (loc : Location) (d : RowData) (h : HandleNo) : (s.rowEnded loc d).entry h = s.entry h := rfl

theorem tt_rowEnded (s : State) (loc : Location) (d : RowData) : (s.rowEnded loc d).time.tt = s.time.tt := rfl

/-- No job waits COUNTER where a package's record ends. -/
theorem State.RecordEnds.no_waiter (hends : s.RecordEnds owner loc d) (j : JobId) (x : Job)
    (hx : (s.rowEnded loc d).job j = some x) : x.step ≠ .counterWait := by
  obtain ⟨-, -, -, -, howner⟩ := hends
  replace hx : s.job j = some x := (State.job_congr (s.rowEnded_reads loc d).1 j).symm.trans hx
  cases owner with
  | none => exact absurd ((howner.1 j).symm.trans hx) (fun e => by cases e)
  | some o =>
    obtain ⟨j₀, x₀⟩ := o
    obtain ⟨⟨hx₀, honly⟩, -, hstep, -⟩ := howner
    by_cases hj : j = j₀
    · rw [hj, hx₀] at hx
      cases hx
      rw [hstep]
      exact fun e => (by cases e)
    · rw [honly j hj] at hx
      cases hx

theorem State.RecordEnds.lists (hends : s.RecordEnds owner loc d) (i : Fin 4) : ((s.rowEnded loc d).slot i).list = [] := by
  obtain ⟨-, -, hlists, -⟩ := hends
  exact hlists i

/-- A record that changes its entry alone. -/
theorem applyPackageRecord_staged {g issued limit deadline : Nat} {r : KeyRecord} {au : AuthNo} (hrecord : d.record = .key h g r)
    (hstate : r.state = .staged issued limit deadline au) (s : State) : s.applyPackageRecord loc d.stamp d.record =
      s.onEntry h fun e => e.applyStaged s.time.tt g loc r issued limit deadline au := by
  unfold State.applyPackageRecord
  rw [hrecord]
  dsimp only
  rw [hstate]

theorem applyPackageRecord_active {g issued limit ceiling grace : Nat} {floor : Option Nat} {r : KeyRecord}
    (hrecord : d.record = .key h g r) (hstate : r.state = .active issued limit ceiling floor (some grace)) (s : State) :
    s.applyPackageRecord loc d.stamp d.record =
      (s.onEntry h fun e => e.applyActive s.time.tt d.stamp g loc r issued limit ceiling floor grace).staleCounters h := by
  unfold State.applyPackageRecord
  rw [hrecord]
  dsimp only
  rw [hstate]
  rfl

theorem applyPackageRecord_confirm {g grace ceiling : Nat} (hrecord : d.record = .confirm h g grace ceiling) (s : State) :
    s.applyPackageRecord loc d.stamp d.record =
      if ((s.entry h).confirmable d.stamp g).isSome then
        (s.onEntry h fun e => e.applyConfirm s.time.tt d.stamp g grace ceiling).staleCounters h
      else s.onEntry h fun e => e.applyConfirm s.time.tt d.stamp g grace ceiling := by
  unfold State.applyPackageRecord
  rw [hrecord]

theorem applyPackageRecord_revoke {g highest : Nat} {role : Option Role} (hrecord : d.record = .revoke h g highest role)
    (s : State) :
    s.applyPackageRecord loc d.stamp d.record =
      ((s.onEntry h fun e => e.applyRevoke highest role).revokeWipes h).staleCounters h := by
  unfold State.applyPackageRecord
  rw [hrecord]

theorem confirmable_of_timely {e : HandleEntry} {y : StagedGen} {stamp g : Nat} (hy : e.staged = some y) (hg : y.gen = g)
    (ht : stamp < y.deadline) : e.confirmable stamp g = some y := by
  simp [HandleEntry.confirmable, hy, hg, ht]

theorem confirmable_of_late {e : HandleEntry} {stamp g : Nat}
    (hlate : ∀ y, e.staged = some y → y.gen = g → y.deadline ≤ stamp) : e.confirmable stamp g = none := by
  rw [HandleEntry.confirmable, Option.filter_eq_none_iff]
  intro y hy hc
  obtain ⟨hg, ht⟩ : y.gen = g ∧ stamp < y.deadline := by simpa using hc
  exact absurd (hlate y hy hg) (Nat.not_le.mpr ht)

theorem lateConfirm_of_confirm {g grace ceiling : Nat} (hrecord : d.record = .confirm h g grace ceiling) (s : State) :
    s.lateConfirm d = ((s.entry h).confirmable d.stamp g).isNone := by
  rw [State.lateConfirm, hrecord]

/-- The role after a KEY record, as the obligation gives it (R55). -/
theorem role_noteKey (e : HandleEntry) (now : Nat) (r : Role) (highest : Nat) : (e.noteKey now r highest).role =
    if e.current.isSome = true ∨ (e.staged.filter fun g => decide (now < g.deadline)).isSome = true ∨
      (e.retiring.filter fun g => decide (now < g.graceEnd)).isSome = true then e.role else some r := by
  change (if (e.current.isSome || (e.presentStaged now).isSome || (e.presentRetiring now).isSome) = true then _ else _) = _
  simp only [Bool.or_eq_true, or_assoc]
  rfl

/-- After a confirm the staged generation is current, and its predecessor has retired or is gone (R103). -/
theorem applyConfirm_of_timely {e : HandleEntry} {y : StagedGen} {stamp g : Nat} (hy : e.staged = some y) (hg : y.gen = g)
    (ht : stamp < y.deadline) (now grace ceiling : Nat) : e.applyConfirm now stamp g grace ceiling = { e with
      staged := none
      current := some ⟨g, y.location, y.policy, y.issuedAt, y.expiry, y.signLimit, 0, ceiling, y.rx, none⟩
      retiring := match e.current with
        | some p => p.superseded stamp grace
        | none => e.presentRetiring now } := by
  rw [HandleEntry.applyConfirm, confirmable_of_timely hy hg ht, ← hg]
  rfl

theorem applyConfirm_of_late {e : HandleEntry} {stamp g : Nat}
    (hlate : ∀ y, e.staged = some y → y.gen = g → y.deadline ≤ stamp) (now grace ceiling : Nat) :
    e.applyConfirm now stamp g grace ceiling = e.clearLapsed now := by
  rw [HandleEntry.applyConfirm, confirmable_of_late hlate]

/-- After an ACTIVE record its generation is current, and its predecessor has retired or is gone (R102). -/
theorem applyActive_eq (e : HandleEntry) (now stamp g : Nat) (loc : Location) (r : KeyRecord) (issued limit ceiling : Nat)
    (floor : Option Nat) (grace : Nat) : e.applyActive now stamp g loc r issued limit ceiling floor grace =
      { e.noteKey now r.role r.highestGen with
        staged := e.presentStaged now
        current := some ⟨g, loc, r.policy, issued, r.expiry, limit, 0, ceiling, ⟨none, 0⟩, floor⟩
        retiring := match e.current with
          | some p => p.superseded stamp grace
          | none => e.presentRetiring now } := by
  rw [HandleEntry.applyActive, noteKey_clearLapsed]
  rfl

theorem applyStaged_eq (e : HandleEntry) (now g : Nat) (loc : Location) (r : KeyRecord) (issued limit deadline : Nat)
    (au : AuthNo) : e.applyStaged now g loc r issued limit deadline au = { e.noteKey now r.role r.highestGen with
      staged := some ⟨g, loc, r.policy, issued, r.expiry, limit, ⟨none, 0⟩, au, deadline⟩
      retiring := e.presentRetiring now } := by
  rw [HandleEntry.applyStaged, noteKey_clearLapsed]
  rfl

/-! ## The wipes of a REVOKE where no job in hand is in front of a slot -/

/-- No slot's list has a job in hand at its front. -/
def State.FrontsFree (s : State) : Prop := ∀ i j, (s.slot i).list.head? = some j → s.job j = none

theorem State.frontsFree_of_no_lists (hlists : ∀ i, (s.slot i).list = []) : s.FrontsFree := fun i j hj => by
  rw [hlists] at hj
  cases hj

theorem finishJob_of_no_job {j : JobId} (hj : s.job j = none) (st : Status) (values : List Nat) : s.finishJob j st values = s := by
  rw [State.finishJob, hj]

theorem failFrontUse_of_frontsFree (hfree : s.FrontsFree) (i : Fin 4) (st : Status) : s.failFrontUse i st = s := by
  unfold State.failFrontUse
  split
  next => rfl
  next j hj => rw [hfree i j hj]

theorem failOpening_of_frontsFree (hfree : s.FrontsFree) (i : Fin 4) (st : Status) :
    s.failOpening (.host i) st = s.setSlotState (.host i) .empty := by
  cases hj : s.servedBy (.host i) with
  | none =>
    have hserved : (s.setSlotState (.host i) .empty).servedBy (.host i) = none := by
      rw [State.servedBy, State.setSlotState, State.slot_onSlot_self]
      exact hj
    rw [State.failOpening, hserved]
  | some j => exact (failOpening_eq hj st).trans (finishJob_of_no_job (s := s.setSlotState (.host i) .empty) (hfree i j hj) st [])

/-- The turns of slots with no job in hand at their fronts change slots, but no list, and the core. -/
structure State.OnlyWipes (s u : State) : Prop where
  frame : u = { s with slots := u.slots, cipher := u.cipher }
  lists : ∀ i, (u.slot i).list = (s.slot i).list

theorem State.OnlyWipes.refl (s : State) : s.OnlyWipes s := ⟨rfl, fun _ => rfl⟩

theorem State.OnlyWipes.trans {u v : State} (hu : s.OnlyWipes u) (hv : u.OnlyWipes v) : s.OnlyWipes v :=
  ⟨by rw [hv.frame, hu.frame], fun i => (hv.lists i).trans (hu.lists i)⟩

theorem State.OnlyWipes.frontsFree {u : State} (hu : s.OnlyWipes u) (hfree : s.FrontsFree) : u.FrontsFree := fun i j hj => by
  rw [hu.lists] at hj
  rw [hu.frame]
  exact hfree i j hj

theorem onlyWipes_wipe (s : State) (i : SlotId) : s.OnlyWipes (s.wipe i) := by
  have hframe := wipe_eq s i
  refine ⟨by rw [hframe], fun k => ?_⟩
  cases i with
  | package => rw [slot_wipe_package]
  | host n =>
    rw [slot_wipe]
    split
    next e => rw [Slot.wiped_list, e]
    next => rfl

theorem onlyWipes_openingDropped (s : State) (i : Fin 4) : s.OnlyWipes (s.openingDropped i) := by
  refine ⟨rfl, fun k => ?_⟩
  rw [slot_openingDropped]
  split
  next e => rw [e]
  next => rfl

/-- The turn of a slot wipes it, ends its opening, or leaves it (R50). -/
theorem revokeWipe_of_frontsFree (hfree : s.FrontsFree) (h : HandleNo) (i : Fin 4) : s.revokeWipe h i =
    match (s.slot i).state with
    | .opened x _ _ _ => if x = h then s.wipe (.host i) else s
    | .reading x _ _ | .unwrapping x _ _ _ => if x = h then s.openingDropped i else s
    | _ => s := by
  unfold State.revokeWipe
  rw [failFrontUse_of_frontsFree ((onlyWipes_wipe s (.host i)).frontsFree hfree), failOpening_of_frontsFree]
  · rfl
  · exact hfree

theorem onlyWipes_revokeWipe (hfree : s.FrontsFree) (h : HandleNo) (i : Fin 4) : s.OnlyWipes (s.revokeWipe h i) ∧
    ∀ n, n ≠ i → (s.revokeWipe h i).slot n = s.slot n := by
  rw [revokeWipe_of_frontsFree hfree]
  have hwipe : s.OnlyWipes (s.wipe (.host i)) ∧ ∀ n, n ≠ i → (s.wipe (.host i)).slot n = s.slot n :=
    ⟨onlyWipes_wipe s _, fun n hn => by rw [slot_wipe, if_neg hn.symm]⟩
  have hdrop : s.OnlyWipes (s.openingDropped i) ∧ ∀ n, n ≠ i → (s.openingDropped i).slot n = s.slot n :=
    ⟨onlyWipes_openingDropped s i, fun n hn => by rw [slot_openingDropped, if_neg hn.symm]⟩
  have hself : s.OnlyWipes s ∧ ∀ n, n ≠ i → s.slot n = s.slot n := ⟨.refl s, fun _ _ => rfl⟩
  split
  · split
    · exact hwipe
    · exact hself
  · split
    · exact hdrop
    · exact hself
  · split
    · exact hdrop
    · exact hself
  · exact hself

/-- A slot once a REVOKE of handle `h` has had its turn with it (R50). -/
theorem state_revokeWipe (hfree : s.FrontsFree) {i : Fin 4} {a : HandleNo} {g : Nat} {p : Policy} {m : List Byte}
    (hopen : (s.slot i).state = .opened a g p m) :
    ((s.revokeWipe h i).slot i).state = if a = h then .closing s.time.milli else .opened a g p m := by
  rw [revokeWipe_of_frontsFree hfree, hopen]
  dsimp only
  split
  · rw [slot_wipe, if_pos rfl, Slot.wiped, hopen]
  · exact hopen

/-- After the wipes of a REVOKE a slot with a key of its handle is CLOSING, and the key of another handle stands. -/
theorem revokeWipes_of_frontsFree (hfree : s.FrontsFree) (h : HandleNo) : s.OnlyWipes (s.revokeWipes h) ∧
    ∀ i a g p m, (s.slot i).state = .opened a g p m →
      ((s.revokeWipes h).slot i).state = if a = h then .closing s.time.milli else .opened a g p m := by
  have hturn : ∀ {u : State} (n : Fin 4), s.OnlyWipes u → s.OnlyWipes (u.revokeWipe h n) := fun n hu =>
    hu.trans (onlyWipes_revokeWipe (hu.frontsFree hfree) h n).1
  have hkept : ∀ {u : State} {i n : Fin 4}, s.OnlyWipes u → n ≠ i → (u.revokeWipe h n).slot i = u.slot i := fun hu hn =>
    (onlyWipes_revokeWipe (hu.frontsFree hfree) h _).2 _ hn.symm
  have hwipes : s.OnlyWipes (allSlots.foldl (State.revokeWipe h) s) :=
    foldl_allSlots_reaches (P := s.OnlyWipes) (Q := s.OnlyWipes) 0 (fun u n _ => hturn n) (fun u => hturn 0) (fun u n _ => hturn n)
      (.refl s)
  obtain ⟨-, -, -, -, hslots⟩ := revokeWipes_reads s h
  refine ⟨?_, fun i a g p m hopen => ?_⟩
  · rcases revokeWipes_eq s h with e | e
    · rw [e]
      exact hwipes
    · rw [e]
      exact hwipes.trans (onlyWipes_wipe _ .package)
  · rw [hslots]
    refine (foldl_allSlots_reaches (f := State.revokeWipe h) (P := fun u => s.OnlyWipes u ∧ u.slot i = s.slot i)
      (Q := fun u => s.OnlyWipes u ∧ (u.slot i).state = if a = h then .closing s.time.milli else .opened a g p m) i
      (fun u n hn hu => ?_) (fun u hu => ?_) (fun u n hn hu => ?_) ⟨.refl s, rfl⟩).2
    · obtain ⟨hu, hsame⟩ := hu
      exact ⟨hturn n hu, (hkept hu hn).trans hsame⟩
    · obtain ⟨hu, hsame⟩ := hu
      refine ⟨hturn i hu, ?_⟩
      rw [state_revokeWipe (hu.frontsFree hfree) (hsame ▸ hopen), hu.frame]
    · obtain ⟨hu, hstate⟩ := hu
      exact ⟨hturn n hu, (congrArg Slot.state (hkept hu hn)).trans hstate⟩

end Effects


/-! ## The event of each handle package's record -/

theorem slot_staleCounters_of_no_waiter {s : State} (h : HandleNo) (hsteps : ∀ j x, s.job j = some x → x.step ≠ .counterWait)
    (i : Fin 4) : (s.staleCounters h).slot i = s.slot i := by
  rw [staleCounters_of_no_waiter h hsteps]
  rfl

/-- What a REVOKE record does where no job is in front of a slot and none waits COUNTER (R50, R105). -/
theorem applyRevoke_changes {s : State} (hfree : s.FrontsFree) (hsteps : ∀ j x, s.job j = some x → x.step ≠ .counterWait)
    {loc : Location} {d : RowData} {h : HandleNo} {g highest : Nat} {role : Option Role}
    (hrecord : d.record = .revoke h g highest role) {a : State} (ha : s.applyPackageRecord loc d.stamp d.record = a) :
    s.ChangesEntry a h { (s.entry h).applyRevoke highest role with counterPending := none } ∧
      a.store = { s.store with queue := a.store.queue } ∧
      ∀ i b g' p m, (s.slot i).state = .opened b g' p m →
        (a.slot i).state = if b = h then .closing s.time.milli else .opened b g' p m := by
  have hfree' : (s.onEntry h fun e => e.applyRevoke highest role).FrontsFree := hfree
  obtain ⟨⟨hframe, hsame⟩, hslots⟩ := revokeWipes_of_frontsFree hfree' h
  have happly := applyPackageRecord_revoke (loc := loc) hrecord s
  rw [ha] at happly
  generalize (s.onEntry h fun e => e.applyRevoke highest role).revokeWipes h = u at hframe hsame hslots happly
  have hsteps' : ∀ j x, u.job j = some x → x.step ≠ .counterWait := fun j x hx => by
    rw [hframe] at hx
    exact hsteps j x hx
  obtain ⟨-, -, -, -, -, -, hentry, hothers⟩ := State.ChangesEntry.onEntry s h fun e => e.applyRevoke highest role
  have hwiped : s.ChangesEntry u h ((s.entry h).applyRevoke highest role) := by
    refine ⟨by rw [hframe]; rfl, by rw [hframe]; rfl, by rw [hframe]; rfl, by rw [hframe]; rfl, by rw [hframe]; rfl, hsame, ?_,
      fun h' hne => ?_⟩
    · rw [hframe]
      exact hentry
    · rw [hframe]
      exact hothers h' hne
  refine ⟨happly ▸ hwiped.staleCounters hsteps, ?_, fun i b g' p m hopen => ?_⟩
  · rw [happly, staleCounters_of_no_waiter h hsteps', hframe]
    rfl
  · rw [happly, slot_staleCounters_of_no_waiter h hsteps']
    exact hslots i b g' p m hopen

section Events

variable {s : State} {owner : Option (JobId × Job)} {loc : Location} {d : RowData} {h : HandleNo} {k : AuthNo} {c : Nat} {tag : Tag}
  (hends : s.RecordEnds owner loc d) (hheader : d.header = ⟨some k, some (c, tag)⟩)
include hends hheader

/-- R101: a STAGE that waits for its confirm. -/
theorem State.RecordEnds.staged_lands {g issued limit deadline : Nat} {r : KeyRecord} {au : AuthNo}
    (hrecord : d.record = .key h g r) (hstate : r.state = .staged issued limit deadline au) :
    ∃ t, exec .appendCompletion s = .next t ∧ s.RecordLands t owner h k c tag .ok (fun x => pkgResults x.input)
      ((s.entry h).applyStaged s.time.tt g loc r issued limit deadline au) := by
  obtain ⟨t, hexec, hlands, -⟩ := hends.lands_ok hheader (by rw [hrecord]; rfl) (applyPackageRecord_staged hrecord hstate _)
    (.onEntry _ h _) rfl (by rw [State.lateConfirm, hrecord])
  exact ⟨t, hexec, hlands⟩

/-- R102: an IMMEDIATE STAGE. -/
theorem State.RecordEnds.active_lands {g issued limit ceiling grace : Nat} {floor : Option Nat} {r : KeyRecord}
    (hrecord : d.record = .key h g r) (hstate : r.state = .active issued limit ceiling floor (some grace)) :
    ∃ t, exec .appendCompletion s = .next t ∧ s.RecordLands t owner h k c tag .ok (fun x => pkgResults x.input)
      { (s.entry h).applyActive s.time.tt d.stamp g loc r issued limit ceiling floor grace with counterPending := none } := by
  obtain ⟨t, hexec, hlands, -⟩ := hends.lands_ok hheader (by rw [hrecord]; rfl) (applyPackageRecord_active hrecord hstate _)
    ((State.ChangesEntry.onEntry _ h _).staleCounters hends.no_waiter) rfl (by rw [State.lateConfirm, hrecord])
  exact ⟨t, hexec, hlands⟩

/-- R103: a CONFIRM stamped before the deadline of its generation. -/
theorem State.RecordEnds.confirm_lands {g grace ceiling : Nat} {y : StagedGen} (hrecord : d.record = .confirm h g grace ceiling)
    (hy : (s.entry h).staged = some y) (hg : y.gen = g) (htimely : d.stamp < y.deadline) :
    ∃ t, exec .appendCompletion s = .next t ∧ s.RecordLands t owner h k c tag .ok (fun x => pkgResults x.input)
      { (s.entry h).applyConfirm s.time.tt d.stamp g grace ceiling with counterPending := none } := by
  have htook : (((s.rowEnded loc d).entry h).confirmable d.stamp g) = some y := confirmable_of_timely hy hg htimely
  obtain ⟨t, hexec, hlands, -⟩ := hends.lands_ok hheader (by rw [hrecord]; rfl)
    ((applyPackageRecord_confirm hrecord _).trans (by rw [htook]; exact if_pos rfl))
    ((State.ChangesEntry.onEntry _ h _).staleCounters hends.no_waiter)
    (congrArg HandleEntry.writeList (applyConfirm_of_timely hy hg htimely s.time.tt grace ceiling) :)
    (by rw [lateConfirm_of_confirm hrecord, htook]; rfl)
  exact ⟨t, hexec, hlands⟩

/-- R103: a late CONFIRM. -/
theorem State.RecordEnds.late_lands {g grace ceiling : Nat} (hrecord : d.record = .confirm h g grace ceiling)
    (hlate : ∀ y, (s.entry h).staged = some y → y.gen = g → y.deadline ≤ d.stamp) :
    ∃ t, exec .appendCompletion s = .next t ∧ s.RecordLands t owner h k c tag .notStaged (fun _ => [])
      ((s.entry h).clearLapsed s.time.tt) := by
  have htook : (((s.rowEnded loc d).entry h).confirmable d.stamp g) = none := confirmable_of_late hlate
  have hentry := applyConfirm_of_late hlate s.time.tt grace ceiling
  obtain ⟨t, hexec, hlands, -⟩ := hends.lands hheader (by rw [hrecord]; rfl)
    ((applyPackageRecord_confirm hrecord _).trans (by rw [htook]; exact if_neg Bool.false_ne_true))
    (.onEntry _ h _) (congrArg HandleEntry.writeList hentry :) (by
      rw [lateConfirm_of_confirm hrecord, htook]
      exact ⟨rfl, rfl⟩)
  exact ⟨t, hexec, hentry ▸ hlands⟩

/-- R104: a CANCEL. -/
theorem State.RecordEnds.cancel_lands {g : Nat} (hrecord : d.record = .cancel h g) :
    ∃ t, exec .appendCompletion s = .next t ∧ s.RecordLands t owner h k c tag .ok (fun x => pkgResults x.input)
      ((s.entry h).applyCancel s.time.tt g) := by
  obtain ⟨t, hexec, hlands, -⟩ := hends.lands_ok hheader (by rw [hrecord]; rfl)
    (show _ = (s.rowEnded loc d).onEntry h fun e => e.applyCancel s.time.tt g by rw [hrecord]; rfl) (.onEntry _ h _) rfl
    (by rw [State.lateConfirm, hrecord])
  exact ⟨t, hexec, hlands⟩

/-- R104: a RELEASE. -/
theorem State.RecordEnds.release_lands {g : Nat} (hrecord : d.record = .release h g) :
    ∃ t, exec .appendCompletion s = .next t ∧ s.RecordLands t owner h k c tag .ok (fun x => pkgResults x.input)
      ((s.entry h).applyRelease s.time.tt) := by
  obtain ⟨t, hexec, hlands, -⟩ := hends.lands_ok hheader (by rw [hrecord]; rfl)
    (show _ = (s.rowEnded loc d).onEntry h fun e => e.applyRelease s.time.tt by rw [hrecord]; rfl) (.onEntry _ h _) rfl
    (by rw [State.lateConfirm, hrecord])
  exact ⟨t, hexec, hlands⟩

/-- R105, R50: a REVOKE, with its wipes. -/
theorem State.RecordEnds.revoke_lands {g highest : Nat} {role : Option Role} (hrecord : d.record = .revoke h g highest role) :
    ∃ t, exec .appendCompletion s = .next t ∧ s.RecordLands t owner h k c tag .ok (fun x => pkgResults x.input)
        { (s.entry h).applyRevoke highest role with counterPending := none } ∧
      ∀ i a g' p m, (s.slot i).state = .opened a g' p m →
        (t.slot i).state = if a = h then .closing s.time.milli else .opened a g' p m := by
  have hfree : (s.rowEnded loc d).FrontsFree := State.frontsFree_of_no_lists hends.lists
  obtain ⟨hchanges, -, hslots⟩ := applyRevoke_changes (loc := loc) hfree hends.no_waiter hrecord rfl
  obtain ⟨t, hexec, hlands, hstates⟩ := hends.lands_ok hheader (by rw [hrecord]; rfl) rfl hchanges rfl
    (by rw [State.lateConfirm, hrecord])
  exact ⟨t, hexec, hlands, fun i a g' p m hopen => (hstates i).trans (hslots i a g' p m hopen)⟩

end Events


/-! ## A SIGN that waits for a counter write -/

theorem entry_setJob (s : State) (j : JobId) (x : Option Job) (h : HandleNo) : (s.setJob j x).entry h = s.entry h := rfl

/-- The only job that waits COUNTER on a handle is released, to be judged again (R67, R75). -/
theorem releaseCounterWaiters_of_waiter {s : State} {h : HandleNo} {j : JobId} {y : Job} (hy : s.job j = some y)
    (hstep : y.step = .counterWait) (hh : y.handle = h)
    (hothers : ∀ i z, i ≠ j → s.job i = some z → z.step ≠ .counterWait) :
    s.releaseCounterWaiters h = s.setJob j (some { y with step := .slotQueue }) := by
  obtain ⟨before, behind, hall⟩ := List.append_of_mem (mem_allJobs j)
  have hnodup : (before ++ j :: behind).Nodup := hall ▸ by decide
  have hbefore : ∀ i ∈ before, i ≠ j := fun i hi e => List.disjoint_of_nodup_append hnodup hi (by rw [e]; exact List.mem_cons_self)
  have hbehind : ∀ i ∈ behind, i ≠ j := fun i hi e => by
    obtain ⟨hj, -⟩ := List.nodup_cons.mp hnodup.of_append_right
    exact hj (e ▸ hi)
  have hkept : ∀ (u : State) (i : JobId), (∀ z, u.job i = some z → z.step ≠ .counterWait) → (match u.job i with
      | some x => if x.step = .counterWait ∧ x.handle = h then u.setStep i .slotQueue else u
      | none => u) = u := fun u i hu => by
    split
    next z hz => exact if_neg fun e => hu z hz e.1
    next => rfl
  have hturn : s.setStep j .slotQueue = s.setJob j (some { y with step := .slotQueue }) := onJob_eq_setJob hy _
  rw [State.releaseCounterWaiters, hall, List.foldl_append, List.foldl_cons,
    foldl_eq_self (s := s) (l := before) fun i hi => hkept s i fun z => hothers i z (hbefore i hi), hy]
  dsimp only
  rw [if_pos ⟨hstep, hh⟩, hturn]
  refine foldl_eq_self fun i hi => hkept _ i fun z hz => ?_
  rw [State.job_setJob, if_neg (hbehind i hi).symm] at hz
  exact hothers i z (hbehind i hi) hz

/-- A SIGN alone in hand, released from its wait for a counter, at the front of slot `n`, which holds generation `g` of its
handle `h`. -/
structure State.SignReleased (v : State) (j : JobId) (y : Job) (n : Fin 4) (h : HandleNo) (g : Nat) : Prop where
  jobs : ∀ i, v.job i = if i = j then some y else none
  kind : y.kind = .sign
  step : y.step = .slotQueue
  handle : y.handle = h
  slotNo : y.slotNo = n
  field : y.genField = 0 ∨ y.genField = g
  waiting : v.engine.laneWaiting = []
  list : (v.slot n).list = [j]
  others : ∀ i, i ≠ n → (v.slot i).list = []
  opened : ∃ p m, (v.slot n).state = .opened h g p m

/-- The SIGN of record `j` has completed with status `st`: no job is in hand, and nothing else of the handle's counter write
changes. -/
structure State.SignOver (v t : State) (y : Job) (n : Fin 4) (h : HandleNo) (st : Status) : Prop where
  port : t.port = v.port.jobDone y st []
  jobs : ∀ i, t.job i = none
  list : (t.slot n).list = []
  pending : (t.entry h).counterPending = (v.entry h).counterPending
  store : t.store = v.store

section Released

variable {v : State} {j : JobId} {y : Job} {n : Fin 4} {h : HandleNo} {g : Nat} (hv : v.SignReleased j y n h g)
include hv

/-- The SIGN is judged at the front of its slot (R46). -/
theorem State.SignReleased.internalStep : v.internalStep = some (v.serveUse n j y h g) := by
  obtain ⟨hjobs, hkind, hstep, -, -, -, hwaiting, hlist, hothers, p, m, hopen⟩ := hv
  have hy : v.job j = some y := (hjobs j).trans (if_pos rfl)
  rw [internalStep_of_onlyFront (onlyFront_of_single hjobs hwaiting hothers hstep)]
  exact serveFront_use_opened (congrArg List.head? hlist) hy hstep (.inl hkind) hopen

theorem State.SignReleased.job : v.job j = some y := (hv.jobs j).trans (if_pos rfl)

/-- The end of a released SIGN, in a state that leaves the jobs and the directory as they are. -/
theorem State.SignReleased.finishUse {u : State} {y' : Job} {st : Status} (hjobs : ∀ i, i ≠ j → u.job i = v.job i)
    (hy' : u.job j = some y') (hport : u.port.jobDone y' st [] = v.port.jobDone y st []) (hlist : (u.slot n).list = [j])
    (hentry : u.entry h = v.entry h) (hstore : u.store = v.store) (hst : st ≠ .ok) :
    v.SignOver (u.finishUse j st []) y n h st := by
  obtain ⟨-, -, -, -, hstore', -⟩ := finishUse_sameElsewhere hy' st []
  refine ⟨(finishUse_port hy' st []).trans hport, fun i => ?_, ?_, ?_, hstore'.trans hstore⟩
  · rw [job_finishUse hy']
    split
    · rfl
    · rw [hjobs i ‹_›, hv.jobs, if_neg ‹_›]
  · rw [slot_finishUse_list hy', hlist]
    simp
  · rw [entry_finishUse_of_ne_ok hy' st [] hst, hentry]

theorem State.SignReleased.settles {t : State} {st : Status} (hserve : v.serveUse n j y h g = t) (ht : v.SignOver t y n h st) :
    v.settle = t :=
  settle_of_one (hv.internalStep.trans (congrArg some hserve)) (internalStep_of_no_jobs ht.jobs)

/-- R46, R73: a SIGN under a generation that is live and no longer current completes NOT_CURRENT. -/
theorem State.SignReleased.notCurrent {st : Standing} (hst : (v.entry h).standing v.time.tt g = some st)
    (hcurrent : ∀ c, (v.entry h).current = some c → c.gen ≠ g) : v.SignOver v.settle y n h .notCurrent := by
  have hjudge : judgeSign ((v.setJob j (some (y.passed g))).entry y.handle) (v.setJob j (some (y.passed g))).time.tt g y.group
      y.option = .error .notCurrent := by
    rw [judgeSign_eq, hv.handle]
    rw [entry_setJob]
    cases hc : (v.entry h).current with
    | none => rfl
    | some c => exact if_pos (hcurrent c hc)
  have hserve : v.serveUse n j y h g = (v.setJob j (some (y.passed g))).finishUse j .notCurrent [] := by
    rw [serveUse_of_match hv.job hv.handle hv.field, hst]
    dsimp only
    rw [if_pos hv.kind, State.serveSign, hjudge]
  have hover := hv.finishUse (u := v.setJob j (some (y.passed g))) (y' := y.passed g) (st := .notCurrent)
    (fun i hi => by rw [State.job_setJob, if_neg hi.symm]) (State.job_setJob_self v j _) rfl hv.list rfl rfl (fun e => by cases e)
  rw [hv.settles hserve hover]
  exact hover

/-- R46: a SIGN under a generation that is not live wipes its slot and completes NO_KEY. -/
theorem State.SignReleased.noKey (hst : (v.entry h).standing v.time.tt g = none) :
    v.SignOver v.settle y n h .noKey ∧ (v.settle.slot n).state = .closing v.time.milli := by
  obtain ⟨p, m, hopen⟩ := hv.opened
  have hserve : v.serveUse n j y h g = ((v.setJob j (some (y.passed g))).wipe (.host n)).finishUse j .noKey [] := by
    rw [serveUse_of_match hv.job hv.handle hv.field, hst]
  have hframe := wipe_eq (v.setJob j (some (y.passed g))) (.host n)
  have hslot : ((v.setJob j (some (y.passed g))).wipe (.host n)).slot n = ⟨.closing v.time.milli, 0, [j]⟩ := by
    rw [slot_wipe, if_pos rfl, slot_setJob, Slot.wiped, hopen, ← hv.list]
    rfl
  have hy' : ((v.setJob j (some (y.passed g))).wipe (.host n)).job j = some (y.passed g) := by
    rw [hframe]
    exact State.job_setJob_self v j _
  have hover := hv.finishUse (u := (v.setJob j (some (y.passed g))).wipe (.host n)) (y' := y.passed g) (st := .noKey)
    (fun i hi => by rw [hframe]; exact (State.job_setJob v j i _).trans (if_neg hi.symm)) hy' (by rw [hframe]; rfl)
    (by rw [hslot]) (by rw [hframe]; rfl) (by rw [hframe]; rfl) (fun e => by cases e)
  rw [hv.settles hserve hover]
  exact ⟨hover, by rw [slot_finishUse_of_closing hy' .noKey hslot]⟩

end Released


/-! ## A package's record that changes the generation of a waiting SIGN -/

/-- The record of the package of record `j` is in program, and a SIGN, the only other job, waits for a counter write of the
package's handle `h`, in front of slot `n`, which holds generation `g` of the handle. -/
structure State.PackageBeforeSign (s : State) (j j' : JobId) (x y : Job) (n : Fin 4) (loc : Location) (d : RowData) (h : HandleNo)
    (g : Nat) : Prop where
  jobs : s.OnlyJobs j x j' y
  lists : s.ListsAre n [j']
  program : ∃ payload failures, s.store.program = some ⟨.package (some j), payload, loc, d, failures⟩
  reclaim : s.store.reclaim = none
  recordStore : x.step = .recordStore
  kind : y.kind = .sign
  counterWait : y.step = .counterWait
  handle : y.handle = h
  slotNo : y.slotNo = n
  field : y.genField = 0 ∨ y.genField = g
  opened : ∃ p m, (s.slot n).state = .opened h g p m

/-- The counter write of handle `h` discarded, and the SIGN `y` of record `j` released (R67). -/
def State.staleReleased (s : State) (h : HandleNo) (j : JobId) (y : Job) : State :=
  ((s.onEntry h fun e => { e with counterPending := none }).onStore fun t =>
    { t with queue := t.queue.filter fun q => q != .counter h }).setJob j (some { y with step := .slotQueue })

theorem entry_staleReleased (s : State) (h : HandleNo) (j : JobId) (y : Job) :
    (s.staleReleased h j y).entry h = { s.entry h with counterPending := none } :=
  State.entry_onEntry_self s h fun e => { e with counterPending := none }

theorem staleCounters_of_waiter {s : State} {h : HandleNo} {j : JobId} {y : Job} (hy : s.job j = some y)
    (hstep : y.step = .counterWait) (hh : y.handle = h)
    (hothers : ∀ i z, i ≠ j → s.job i = some z → z.step ≠ .counterWait) : s.staleCounters h = s.staleReleased h j y :=
  releaseCounterWaiters_of_waiter (s := (s.onEntry h fun e => { e with counterPending := none }).onStore fun t =>
    { t with queue := t.queue.filter fun q => q != .counter h }) hy hstep hh hothers

theorem job_staleCounters_of_no_waiter {u : State} (h : HandleNo) (hsteps : ∀ i z, u.job i = some z → z.step ≠ .counterWait)
    (i : JobId) : (u.staleCounters h).job i = u.job i := by
  rw [staleCounters_of_no_waiter h hsteps]
  rfl

/-- Where no job waits COUNTER: a stale counter write, and the authority's counter and tag. -/
theorem staleAccepted_reads {u : State} (h : HandleNo) (hsteps : ∀ i z, u.job i = some z → z.step ≠ .counterWait)
    {header : RowHeader} {k : AuthNo} {c : Nat} {tag : Tag} (hheader : header = ⟨some k, some (c, tag)⟩) :
    ((u.staleCounters h).acceptPackage header).engine = u.engine ∧ ((u.staleCounters h).acceptPackage header).port = u.port ∧
      ((u.staleCounters h).acceptPackage header).slots = u.slots ∧
      (((u.staleCounters h).acceptPackage header).entry h).counterPending = none ∧
      .counter h ∉ ((u.staleCounters h).acceptPackage header).store.queue := by
  rw [acceptPackage_eq hheader, staleCounters_of_no_waiter h hsteps]
  refine ⟨rfl, rfl, rfl, ?_, fun hm => by simpa using List.of_mem_filter hm⟩
  exact congrArg HandleEntry.counterPending (State.entry_onEntry_self u h fun e => { e with counterPending := none })

section Behind

variable {s : State} {j j' : JobId} {x y : Job} {n : Fin 4} {loc : Location} {d : RowData} {h : HandleNo} {g : Nat}
  {k : AuthNo} {c : Nat} {tag : Tag} (hs : s.PackageBeforeSign j j' x y n loc d h g) (hheader : d.header = ⟨some k, some (c, tag)⟩)
include hs hheader

/-- R67, R100: the package completes, and the SIGN is alone in hand, to be judged again. -/
theorem State.PackageBeforeSign.releases {f : HandleEntry → HandleEntry}
    (happly : (s.rowEnded loc d).applyPackageRecord loc d.stamp d.record = ((s.rowEnded loc d).onEntry h f).staleCounters h)
    (hlate : (s.rowEnded loc d).lateConfirm d = false) :
    ∃ v : State, exec .appendCompletion s = .next v.settle ∧ v.SignReleased j' { y with step := .slotQueue } n h g ∧
      v.port = ({ s.port with figures := s.figuresAfter } : Port).jobDone x .ok (pkgResults x.input) ∧
      (∃ l, v.entry h = { f (s.entry h) with counterPending := none, writeList := l }) ∧ .counter h ∉ v.store.queue ∧
      v.time.tt = s.time.tt ∧ v.time.milli = s.time.milli := by
  obtain ⟨⟨hne, hx, hy, hothers⟩, ⟨hlist, hempty, hwaiting⟩, ⟨payload, failures, hprogram⟩, hreclaim, hstepx, hkind, hstepy, hhandle,
    hslotNo, hfield, p, m, hopen⟩ := hs
  obtain ⟨-, hport₀, -⟩ := s.rowEnded_reads loc d
  have hwaiters : ∀ i z, i ≠ j' → s.job i = some z → z.step ≠ .counterWait := fun i z hi hz => by
    by_cases hij : i = j
    · rw [hij, hx] at hz
      cases hz
      rw [hstepx]
      exact fun e => (by cases e)
    · rw [hothers i hij hi] at hz
      cases hz
  have hstale := staleCounters_of_waiter (s := (s.rowEnded loc d).onEntry h f) hy hstepy hhandle hwaiters
  obtain ⟨a, ha⟩ : ∃ a, (((s.rowEnded loc d).onEntry h f).staleReleased h j' y).acceptPackage d.header = a := ⟨_, rfl⟩
  have hframe : a = (((s.rowEnded loc d).onEntry h f).staleReleased h j' y).onAuthority k fun a =>
      { a with accepted := c, lastTag := some tag } := ha.symm.trans (acceptPackage_eq hheader _)
  have hjob : ∀ i, a.job i = if j' = i then some { y with step := .slotQueue } else s.job i := fun i => by
    rw [hframe]
    exact State.job_setJob _ j' i _
  have hx' : a.job j = some x := (hjob j).trans ((if_neg hne.symm).trans hx)
  have hslots : ∀ i, a.slot i = s.slot i := fun i => by
    rw [hframe]
    rfl
  obtain ⟨-, -, -, -, hstore, htime, -⟩ := finishJob_sameElsewhere hx' .ok (pkgResults x.input)
  have hwithout : ∀ i, ((a.finishJob j .ok (pkgResults x.input)).slot i) = (s.slot i).without j := fun i => by
    rw [slot_finishJob hx', hslots]
  have hdurable := applyDurable_package (owner := some (j, x)) (happly.trans hstale) fun _ _ e => by
    cases e
    exact (State.job_setJob _ j' j _).trans ((if_neg hne.symm).trans hx)
  refine ⟨a.finishJob j .ok (pkgResults x.input), ?_, ⟨fun i => ?_, hkind, rfl, hhandle, hslotNo, hfield, ?_, ?_, fun i hi => ?_, p, m,
    ?_⟩, ?_, ?_, ?_, ?_, ?_⟩
  · rw [exec_appendCompletion hprogram hreclaim]
    refine congrArg (fun u => Host.Outcome.next (State.settle u)) (hdurable.trans ?_)
    rw [State.packageDone, hlate, ha]
    exact if_neg Bool.false_ne_true
  · rw [job_finishJob hx', hjob]
    by_cases hi : i = j
    · rw [if_pos hi, if_neg (hi ▸ hne)]
    · rw [if_neg hi]
      by_cases hi' : i = j'
      · rw [if_pos hi', if_pos hi'.symm]
      · rw [if_neg hi', if_neg (Ne.symm hi'), hothers i hi hi']
  · rw [finishJob_engine hx', hframe]
    exact (congrArg (List.filter _) hwaiting).trans rfl
  · rw [hwithout, Slot.without, hlist]
    simp [hne.symm]
  · rw [hwithout, Slot.without, hempty i hi]
    rfl
  · rw [hwithout]
    exact hopen
  · rw [finishJob_port hx', hframe]
    exact congrArg (Port.jobDone · x .ok (pkgResults x.input)) hport₀
  · refine ⟨((a.finishJob j .ok (pkgResults x.input)).entry h).writeList, (entry_finishJob hx' .ok (pkgResults x.input) h).trans ?_⟩
    have hentry : a.entry h = { f (s.entry h) with counterPending := none } := by
      rw [hframe]
      refine (entry_staleReleased ((s.rowEnded loc d).onEntry h f) h j' y).trans ?_
      rw [State.entry_onEntry_self, entry_rowEnded]
    rw [hentry]
  · rw [hstore, hframe]
    exact fun hm => by simpa using List.of_mem_filter hm
  · rw [htime, hframe]
    rfl
  · rw [htime, hframe]
    rfl

/-- What the event shows where the package and the SIGN have completed (R67, R75). -/
structure State.BothOver (t : State) (n : Fin 4) (h : HandleNo) (port : Port) : Prop where
  port : t.port = port
  jobs : ∀ i, t.job i = none
  list : (t.slot n).list = []
  pending : (t.entry h).counterPending = none
  queue : .counter h ∉ t.store.queue

/-- R67, R75: the SIGN's generation is superseded; it is judged by what has become of it. -/
theorem State.PackageBeforeSign.superseded {f : HandleEntry → HandleEntry} {p : CurrentGen} {grace : Nat}
    (happly : (s.rowEnded loc d).applyPackageRecord loc d.stamp d.record = ((s.rowEnded loc d).onEntry h f).staleCounters h)
    (hlate : (s.rowEnded loc d).lateConfirm d = false) (hg : p.gen = g)
    (hcurrent : ∀ c, (f (s.entry h)).current = some c → c.gen ≠ g) (hstaged : ∀ z, (f (s.entry h)).staged = some z → z.gen ≠ g)
    (hretiring : (f (s.entry h)).retiring = p.superseded d.stamp grace) :
    let done := ({ s.port with figures := s.figuresAfter } : Port).jobDone x .ok (pkgResults x.input)
    (∀ r, p.superseded d.stamp grace = some r → s.time.tt < r.graceEnd → ∃ t, exec .appendCompletion s = .next t ∧
      t.BothOver n h (done.jobDone y .notCurrent [])) ∧
    ((∀ r, p.superseded d.stamp grace = some r → r.graceEnd ≤ s.time.tt) → ∃ t, exec .appendCompletion s = .next t ∧
      t.BothOver n h (done.jobDone y .noKey []) ∧ (t.slot n).state = .closing s.time.milli) := by
  intro done
  obtain ⟨v, hexec, hv, hport, ⟨l, hentry⟩, hqueue, htt, hmilli⟩ := hs.releases hheader happly hlate
  have hover : ∀ {st : Status}, v.SignOver v.settle { y with step := .slotQueue } n h st →
      v.settle.BothOver n h (done.jobDone y st []) := fun ht =>
    ⟨ht.port.trans (congrArg (Port.jobDone · y _ []) hport), ht.jobs, ht.list, ht.pending.trans (by rw [hentry]),
      by rw [ht.store]; exact hqueue⟩
  have hcurrent' : ¬(v.entry h).current.any (fun c => c.gen = g) = true := by
    rw [hentry]
    simpa [Option.any_eq_true] using hcurrent
  have hstaged' : ¬(v.entry h).staged.any (fun c => c.gen = g ∧ v.time.tt < c.deadline) = true := by
    rw [hentry]
    simp only [Option.any_eq_true, decide_eq_true_eq, not_exists, not_and]
    exact fun z hz hzg => absurd hzg (hstaged z hz)
  have hstanding : (v.entry h).standing v.time.tt g =
      if (p.superseded d.stamp grace).any (fun r => decide (s.time.tt < r.graceEnd)) = true then some .retiring else none := by
    have hgen : ∀ r, p.superseded d.stamp grace = some r → r.gen = g := fun r hr => by
      rw [CurrentGen.superseded] at hr
      split at hr <;> cases hr
      exact hg
    rw [standing_eq, if_neg hcurrent', if_neg hstaged', hentry, hretiring, htt]
    cases hr : p.superseded d.stamp grace with
    | none => rfl
    | some r => simp [hgen r hr]
  refine ⟨fun r hr hlive => ?_, fun hdead => ?_⟩
  · refine ⟨_, hexec, hover (hv.notCurrent (st := .retiring) ?_ fun c hc => hcurrent c (by rw [hentry] at hc; exact hc))⟩
    rw [hstanding, hr]
    exact if_pos (decide_eq_true hlive)
  · obtain ⟨ht, hclosing⟩ := hv.noKey (hstanding.trans (if_neg fun e => by
      obtain ⟨r, hr, hlive⟩ := (Option.any_eq_true _ _).mp e
      exact absurd (hdead r hr) (Nat.not_le.mpr (of_decide_eq_true hlive))))
    exact ⟨_, hexec, hover ht, by rw [hclosing, hmilli]⟩

/-- R48, R50, R105: a REVOKE's wipe completes the SIGN before its own package. -/
theorem State.PackageBeforeSign.revoked {g' highest : Nat} {role : Option Role} (hrecord : d.record = .revoke h g' highest role) :
    ∃ t, exec .appendCompletion s = .next t ∧
      t.BothOver n h ((({ s.port with figures := s.figuresAfter } : Port).jobDone y .noKey []).jobDone x .ok (pkgResults x.input)) ∧
      (t.slot n).state = .closing s.time.milli := by
  obtain ⟨⟨hne, hx, hy, hothers⟩, ⟨hlist, hempty, -⟩, ⟨payload, failures, hprogram⟩, hreclaim, hstepx, hkind, hstepy, -, -, -, p, m,
    hopen⟩ := hs
  obtain ⟨-, hport₀, -⟩ := s.rowEnded_reads loc d
  obtain ⟨r, hr⟩ : ∃ r, (s.rowEnded loc d).onEntry h (fun e => e.applyRevoke highest role) = r := ⟨_, rfl⟩
  have hslots : ∀ i, r.slot i = s.slot i := fun i => by rw [← hr]; rfl
  have hjobs₀ : ∀ i, r.job i = s.job i := fun i => by rw [← hr]; rfl
  obtain ⟨⟨hport, hjobs, -, hslot, -⟩, -⟩ := revokeWipes_reach (s := r) (m := m) (K := fun _ => True) (fun _ _ _ => trivial)
    (fun i hi => (congrArg Slot.list (hslots i)).trans (hempty i hi)) fun u hu =>
      ⟨hu.use (by rw [hslots]; exact hopen) (by rw [hslots]; exact hlist) ((hjobs₀ j').trans hy) (.inl hkind) (by rw [hstepy]; rfl),
        trivial⟩
  obtain ⟨hengine', hport', -, -, hslots'⟩ := revokeWipes_reads r h
  obtain ⟨u, hu⟩ : ∃ u, r.revokeWipes h = u := ⟨_, rfl⟩
  rw [hu] at hengine' hport' hslots'
  have hjobs' : ∀ i, u.job i = if i = j then some x else none := fun i => by
    rw [State.job_congr hengine', hjobs, hjobs₀]
    by_cases hi : i = j
    · rw [if_pos hi, if_neg (hi ▸ hne), hi, hx]
    · rw [if_neg hi]
      split
      · rfl
      · exact hothers i hi ‹_›
  have hsteps : ∀ i z, u.job i = some z → z.step ≠ .counterWait := fun i z hz => by
    rw [hjobs'] at hz
    split at hz <;> cases hz
    rw [hstepx]
    exact fun e => (by cases e)
  obtain ⟨a, ha⟩ : ∃ a, (u.staleCounters h).acceptPackage d.header = a := ⟨_, rfl⟩
  have hreads := staleAccepted_reads h hsteps hheader
  rw [ha] at hreads
  obtain ⟨hengine, hport'', hslots'', hpending, hqueue⟩ := hreads
  have hx' : a.job j = some x := (State.job_congr hengine j).trans ((hjobs' j).trans (if_pos rfl))
  have hdone : ∀ i, (a.finishJob j .ok (pkgResults x.input)).job i = none := fun i => by
    rw [job_finishJob hx', State.job_congr hengine, hjobs']
    split <;> rfl
  have hslot' : (a.finishJob j .ok (pkgResults x.input)).slot n = ⟨.closing s.time.milli, 0, []⟩ := by
    have hkept : a.slot n = u.slot n := by rw [State.slot, hslots'']; rfl
    rw [slot_finishJob hx', hkept, hslots', hslot, ← hr]
    rfl
  obtain ⟨-, -, -, -, hstore, -⟩ := finishJob_sameElsewhere hx' .ok (pkgResults x.input)
  refine ⟨a.finishJob j .ok (pkgResults x.input), ?_, ⟨?_, hdone, by rw [hslot'], ?_, by rw [hstore]; exact hqueue⟩, by rw [hslot']⟩
  · have happly : (s.rowEnded loc d).applyPackageRecord loc d.stamp d.record = u.staleCounters h :=
      (applyPackageRecord_revoke hrecord _).trans (by rw [hr, hu])
    have hdurable := applyDurable_package (owner := some (j, x)) happly fun _ _ e => by
      cases e
      exact (job_staleCounters_of_no_waiter h hsteps j).trans ((hjobs' j).trans (if_pos rfl))
    have hlate : (s.rowEnded loc d).lateConfirm d = false := by rw [State.lateConfirm, hrecord]
    rw [exec_appendCompletion hprogram hreclaim, ← settle_of_no_jobs hdone]
    refine congrArg (fun u => Host.Outcome.next (State.settle u)) (hdurable.trans ?_)
    rw [State.packageDone, hlate, ha]
    exact if_neg Bool.false_ne_true
  · rw [finishJob_port hx', hport'', hport', hport, ← hr]
    exact congrArg (fun q => (Port.jobDone q y .noKey []).jobDone x .ok (pkgResults x.input)) hport₀
  · rw [entry_finishJob hx', hpending]

end Behind


/-! ## The obligation -/

/-- Settles O50: the entry that each record leaves, and the package and the SIGN that complete in one event. -/
theorem packageRecordsChangeTheDirectory : Obligations.PackageRecordsChangeTheDirectory := by
  unfold Obligations.PackageRecordsChangeTheDirectory
  constructor
  · intro s j j' x y n payload loc d failures h k counter tag p m c hjobs hlists hprogram hreclaim hheader _ hstep _ hkind hwait hhandle
      hslotNo hfield hopen hcurrent done ends released
    have hs : s.PackageBeforeSign j j' x y n loc d h c.gen :=
      ⟨hjobs, hlists, ⟨payload, failures, hprogram⟩, hreclaim, hstep, hkind, hwait, hhandle, hslotNo, hfield, p, m, hopen⟩
    have reports : ∀ {t port} {wiped : Prop}, exec .appendCompletion s = .next t → t.BothOver n h port →
        (wiped → (t.slot n).state = .closing s.time.milli) → ends port wiped := fun hexec ht hwiped =>
      ⟨_, hexec, ht.port, ht.jobs, ht.list, hwiped, ht.pending, ht.queue⟩
    have judged : ∀ {f : HandleEntry → HandleEntry} {grace : Nat}, (s.rowEnded loc d).applyPackageRecord loc d.stamp d.record =
        ((s.rowEnded loc d).onEntry h f).staleCounters h → (s.rowEnded loc d).lateConfirm d = false →
        (∀ c', (f (s.entry h)).current = some c' → c'.gen ≠ c.gen) → (∀ z, (f (s.entry h)).staged = some z → z.gen ≠ c.gen) →
        (f (s.entry h)).retiring = c.superseded d.stamp grace → released grace := by
      intro f grace happly hlate hnew hstaged hretiring
      obtain ⟨hlive, hdead⟩ := hs.superseded hheader happly hlate rfl hnew hstaged hretiring
      refine ⟨fun r hr ht => ?_, fun hall => ?_⟩
      · obtain ⟨t, hexec, hover⟩ := hlive r hr ht
        exact reports hexec hover False.elim
      · obtain ⟨t, hexec, hover, hwiped⟩ := hdead hall
        exact reports hexec hover fun _ => hwiped
    refine ⟨fun g grace ceiling z hrecord hz hzg hgen htimely => ?_,
      fun g r issued limit ceiling floor grace hrecord hstate hgen hstaged => ?_, fun g highest role hrecord => ?_⟩
    · have htook : ((s.rowEnded loc d).entry h).confirmable d.stamp g = some z := confirmable_of_timely hz hzg htimely
      have hentry := applyConfirm_of_timely hz hzg htimely s.time.tt grace ceiling
      refine judged (f := fun e => e.applyConfirm s.time.tt d.stamp g grace ceiling)
        ((applyPackageRecord_confirm hrecord _).trans (by rw [htook]; exact if_pos rfl))
        (by rw [lateConfirm_of_confirm hrecord, htook]; rfl) (fun c' hc' => ?_) (fun z' hz' => ?_) ?_
      · rw [hentry] at hc'
        cases hc'
        exact hgen
      · rw [hentry] at hz'
        cases hz'
      · rw [hentry, hcurrent]
    · refine judged (f := fun e => e.applyActive s.time.tt d.stamp g loc r issued limit ceiling floor grace)
        (applyPackageRecord_active hrecord hstate _)
        (by rw [State.lateConfirm, hrecord]) (fun c' hc' => ?_) (fun z' hz' => ?_) ?_
      · rw [applyActive_eq] at hc'
        cases hc'
        exact hgen
      · rw [applyActive_eq] at hz'
        exact hstaged z' (Option.filter_eq_some_iff.mp hz').1
      · rw [applyActive_eq, hcurrent]
    · obtain ⟨t, hexec, hover, hwiped⟩ := hs.revoked hheader hrecord
      exact reports hexec hover fun _ => hwiped
  · intro s owner loc d h k c tag hends hheader e staged retiring role shown after ok
    refine ⟨fun g r issued limit deadline au hrecord hstate => ?_, fun g r issued limit ceiling floor grace hrecord hstate => ?_,
      fun g grace ceiling y hrecord hy hg htimely => ?_, fun g grace ceiling hrecord hlate => ?_, fun g hrecord => ?_,
      fun g hrecord => ?_, fun g highest r hrecord => ?_⟩
    · obtain ⟨t, hexec, hlands⟩ := hends.staged_lands hheader hrecord hstate
      refine ⟨t, hexec, hlands.port, hlands.orphan, hlands.jobs, hlands.authorities, hlands.others, ?_, hlands.custody,
        hlands.tamper⟩
      rw [hlands.entry, applyStaged_eq]
      exact ⟨rfl, rfl, rfl, rfl, rfl, role_noteKey _ _ _ r.highestGen, rfl⟩
    · obtain ⟨t, hexec, hlands⟩ := hends.active_lands hheader hrecord hstate
      refine ⟨t, hexec, hlands.port, hlands.orphan, hlands.jobs, hlands.authorities, hlands.others, ?_, hlands.custody,
        hlands.tamper⟩
      rw [hlands.entry, applyActive_eq]
      exact ⟨rfl, rfl, rfl, rfl, rfl, role_noteKey _ _ _ r.highestGen, rfl⟩
    · obtain ⟨t, hexec, hlands⟩ := hends.confirm_lands hheader hrecord hy hg htimely
      refine ⟨t, hexec, hlands.port, hlands.orphan, hlands.jobs, hlands.authorities, hlands.others, ?_, hlands.custody,
        hlands.tamper⟩
      rw [hlands.entry, applyConfirm_of_timely hy hg htimely]
      exact ⟨rfl, rfl, rfl, rfl, rfl, rfl⟩
    · obtain ⟨t, hexec, hlands⟩ := hends.late_lands hheader hrecord hlate
      refine ⟨t, hexec, hlands.port, hlands.orphan, hlands.jobs, hlands.authorities, hlands.others, ?_, hlands.custody,
        hlands.tamper⟩
      rw [hlands.entry]
      exact ⟨rfl, rfl, rfl, rfl, rfl, rfl⟩
    · obtain ⟨t, hexec, hlands⟩ := hends.cancel_lands hheader hrecord
      refine ⟨t, hexec, hlands.port, hlands.orphan, hlands.jobs, hlands.authorities, hlands.others, ?_, hlands.custody,
        hlands.tamper⟩
      rw [hlands.entry]
      refine ⟨rfl, ?_, rfl, rfl, rfl, rfl⟩
      exact congrArg (Option.filter · staged) (funext fun y => bne_eq_decide y.gen g)
    · obtain ⟨t, hexec, hlands⟩ := hends.release_lands hheader hrecord
      refine ⟨t, hexec, hlands.port, hlands.orphan, hlands.jobs, hlands.authorities, hlands.others, ?_, hlands.custody,
        hlands.tamper⟩
      rw [hlands.entry]
      exact ⟨rfl, rfl, rfl, rfl, rfl, rfl⟩
    · obtain ⟨t, hexec, hlands, hslots⟩ := hends.revoke_lands hheader hrecord
      refine ⟨⟨t, hexec, hlands.port, hlands.orphan, hlands.jobs, hlands.authorities, hlands.others, ?_, hlands.custody,
        hlands.tamper⟩, t, hexec, hslots⟩
      rw [hlands.entry]
      refine ⟨rfl, rfl, rfl, rfl, rfl, ?_, rfl⟩
      cases r <;> rfl

end Sys2Proof.Machine

/-!
PROOFS of the walk of a COPY (R134 to R137): what an idle COPY goes on with, once its row in program has become durable.
-/

namespace Sys2Proof.Machine

open Sys2Proof

/-! ## The generations that a fold carries -/

theorem mem_insertAscending {a n : Nat} {l : List Nat} : a ∈ insertAscending n l ↔ a = n ∨ a ∈ l := by
  induction l with
  | nil => simp [insertAscending]
  | cons x xs ih =>
    rw [insertAscending]
    split
    · exact List.mem_cons
    · rw [List.mem_cons, List.mem_cons, ih, or_left_comm]

theorem isSome_of_any {α : Type} {o : Option α} {p : α → Bool} (h : o.any p = true) : o.isSome = true := by
  cases o with
  | none => cases h
  | some a => rfl

/-- A generation that a fold carries has a row. -/
theorem locationOf_of_mem_presentGens {e : HandleEntry} {tt g : Nat} (h : g ∈ e.presentGens tt) : (e.locationOf g).isSome = true := by
  have hsorted : ∀ l : List Nat, g ∈ l.foldr insertAscending [] ↔ g ∈ l := fun l => by
    induction l with
    | nil => exact Iff.rfl
    | cons a l ih => rw [List.foldr_cons, mem_insertAscending, ih, List.mem_cons]
  have hgen : (∃ c, e.current = some c ∧ c.gen = g) ∨ (∃ y, e.staged = some y ∧ y.gen = g) ∨ ∃ r, e.retiring = some r ∧ r.gen = g := by
    rw [HandleEntry.presentGens, hsorted] at h
    simp only [List.mem_append, Option.mem_toList, Option.map_eq_some_iff, HandleEntry.presentRetiring, HandleEntry.presentStaged,
      Option.filter_eq_some_iff] at h
    rcases h with (⟨r, ⟨hr, -⟩, hg⟩ | ⟨c, hc, hg⟩) | ⟨y, ⟨hy, -⟩, hg⟩
    · exact .inr (.inr ⟨r, hr, hg⟩)
    · exact .inl ⟨c, hc, hg⟩
    · exact .inr (.inl ⟨y, hy, hg⟩)
  unfold HandleEntry.locationOf
  rcases hgen with ⟨c, hc, hg⟩ | ⟨y, hy, hg⟩ | ⟨r, hr, hg⟩
  · simp [hc, hg]
  · simp only [hy, Option.any_some, hg, beq_self_eq_true, if_true]
    split
    next hc => exact Option.isSome_map.trans (isSome_of_any hc)
    next => rfl
  · simp only [hr, Option.any_some, hg, beq_self_eq_true, if_true]
    split
    next hc => exact Option.isSome_map.trans (isSome_of_any hc)
    next =>
      split
      next hy => exact Option.isSome_map.trans (isSome_of_any hy)
      next => rfl

/-! ## The walk -/

/-- A counted row of the tail at place `n`, with what it calls for at its turn, meets `f` (R134). -/
def State.TurnAt (s : State) (tail : BankNo) (folded : List HandleNo) (n : Nat) (f : PlacedRow → RowTurn → Prop) : Prop :=
  ∃ r ∈ countedRows s.store.array, r.1.bank = tail ∧ r.1.row.val = n ∧ f r (s.rowTurn (countedRows s.store.array) folded r)

/-- The walk once the row at place `n` is taken (R134). -/
def State.RowTaken (s : State) (w w' : CopyWalk) (n : Nat) (r : PlacedRow) (x : RowTurn) : Prop :=
  (x = .copy r.2 ∧ w' = { w with nextRow := n + 1, stage := .ready (.asIs r.2) }) ∨
    ∃ h, x = .fold h ∧ match (s.entry h).presentGens s.time.tt with
      | [] => w' = { w with nextRow := n + 1, folded := h :: w.folded, stage := .ready (.foldRevoke h) }
      | g :: rest => w' = { w with
          nextRow := n + 1, folded := h :: w.folded, foldHandle := h, foldGens := rest, stage := .reading h g (s.readAsked h g) }

/-- The walk once no row of the tail is left: the next authority that needs a rewrite, or the RECLAIM mark (R136, R137). -/
def State.RowsOver (s : State) (tail : BankNo) (w w' : CopyWalk) : Prop :=
  (∃ k : AuthNo, w.nextAuthority ≤ k.val ∧ needsRewrite (countedRows s.store.array) tail k = true ∧
      (∀ a : AuthNo, w.nextAuthority ≤ a.val → a < k → needsRewrite (countedRows s.store.array) tail a = false) ∧
      w' = { w with nextRow := max w.nextRow 64, nextAuthority := k.val + 1, stage := .ready (.rewrite k) }) ∨
    ((∀ a : AuthNo, w.nextAuthority ≤ a.val → needsRewrite (countedRows s.store.array) tail a = false) ∧
      w' = { w with nextRow := max w.nextRow 64, nextAuthority := max w.nextAuthority 6, stage := .ready .reclaimMark })

section Walk

variable {s : State} {tail : BankNo} {w w' : CopyWalk}

theorem copyGoesOn_of_fold {g : Nat} {rest : List Nat} (hw : w.foldGens = g :: rest) : s.CopyGoesOn tail w w' ↔
    w' = { w with foldGens := rest, stage := .reading w.foldHandle g (s.readAsked w.foldHandle g) } := by
  rw [State.CopyGoesOn, hw]

theorem copyGoesOn_of_no_fold (hw : w.foldGens = []) : s.CopyGoesOn tail w w' ↔
    (∃ n, w.nextRow ≤ n ∧ n < 64 ∧ (∀ m, w.nextRow ≤ m → m < n → ¬s.TurnAt tail w.folded m fun _ x => x ≠ .nothing) ∧
      s.TurnAt tail w.folded n (s.RowTaken w w' n)) ∨
    ((∀ m, w.nextRow ≤ m → m < 64 → ¬s.TurnAt tail w.folded m fun _ x => x ≠ .nothing) ∧ s.RowsOver tail w w') := by
  obtain ⟨nextRow, folded, foldHandle, foldGens, nextAuthority, stage⟩ := w
  obtain rfl : foldGens = [] := hw
  rfl

/-- The walk passes a row whose turn calls for nothing. -/
theorem copyGoesOn_of_passed (hw : w.foldGens = []) (hn : w.nextRow < 64)
    (hpassed : ¬s.TurnAt tail w.folded w.nextRow fun _ x => x ≠ .nothing)
    (h : s.CopyGoesOn tail { w with nextRow := w.nextRow + 1 } w') : s.CopyGoesOn tail w w' := by
  have hall : ∀ {N : Nat}, (∀ m, w.nextRow + 1 ≤ m → m < N → ¬s.TurnAt tail w.folded m fun _ x => x ≠ .nothing) →
      ∀ m, w.nextRow ≤ m → m < N → ¬s.TurnAt tail w.folded m fun _ x => x ≠ .nothing := fun hlater m hm hmN => by
    rcases Nat.eq_or_lt_of_le hm with e | hlt
    · exact e ▸ hpassed
    · exact hlater m hlt hmN
  rw [copyGoesOn_of_no_fold hw]
  rcases (copyGoesOn_of_no_fold (w := { w with nextRow := w.nextRow + 1 }) hw).mp h with ⟨n, hn', hlt, hlater, hturn⟩ | ⟨hlater, hover⟩
  · exact .inl ⟨n, Nat.le_of_succ_le hn', hlt, hall hlater, hturn⟩
  · refine .inr ⟨hall hlater, ?_⟩
    have hmax : max (w.nextRow + 1) 64 = max w.nextRow 64 := by omega
    unfold State.RowsOver at hover ⊢
    dsimp only at hover
    rw [hmax] at hover
    exact hover

/-- The walk passes an authority that needs no rewrite. -/
theorem copyGoesOn_of_kept (hw : w.foldGens = []) (hrow : 64 ≤ w.nextRow) (ha : w.nextAuthority < 6)
    (hkept : needsRewrite (countedRows s.store.array) tail ⟨w.nextAuthority, ha⟩ = false)
    (h : s.CopyGoesOn tail { w with nextAuthority := w.nextAuthority + 1 } w') : s.CopyGoesOn tail w w' := by
  have hfrom : ∀ a : AuthNo, w.nextAuthority ≤ a.val → a = ⟨w.nextAuthority, ha⟩ ∨ w.nextAuthority + 1 ≤ a.val := fun a hle =>
    (Nat.eq_or_lt_of_le hle).imp (fun e => Fin.ext e.symm) id
  rw [copyGoesOn_of_no_fold hw]
  rcases (copyGoesOn_of_no_fold (w := { w with nextAuthority := w.nextAuthority + 1 }) hw).mp h with ⟨n, hn, hlt, -⟩ | ⟨hlater, hover⟩
  · exact absurd (Nat.lt_of_le_of_lt hn hlt) (Nat.not_lt.mpr hrow)
  · refine .inr ⟨hlater, ?_⟩
    rcases hover with ⟨k, hk, hneeds, hbefore, e⟩ | ⟨hnone, e⟩
    · refine .inl ⟨k, Nat.le_of_succ_le hk, hneeds, fun a hle hlt => ?_, e⟩
      rcases hfrom a hle with rfl | hle
      · exact hkept
      · exact hbefore a hle hlt
    · refine .inr ⟨fun a hle => ?_, ?_⟩
      · rcases hfrom a hle with rfl | hle
        · exact hkept
        · exact hnone a hle
      · have hmax : max (w.nextAuthority + 1) 6 = max w.nextAuthority 6 := by omega
        dsimp only at e
        rw [hmax] at e
        exact e

/-- The row that is copied is the one whose turn it is. -/
theorem rowTurn_copy {rows : List PlacedRow} {folded : List HandleNo} {r : PlacedRow} {d : RowData}
    (h : s.rowTurn rows folded r = .copy d) : d = r.2 := by
  unfold State.rowTurn at h
  split at h
  · split at h <;> cases h
  · split at h
    case h_1 | h_2 | h_3 =>
      split at h <;> cases h
      rfl
    case h_4 => cases h

/-- A row found at its place is the one whose turn it is: the counted rows stand at places of their own. -/
theorem turnAt_of_find {n : Nat} (hn : n < 64) {r : PlacedRow}
    (hfind : ((countedRows s.store.array).find? fun r => r.1 = ⟨tail, Fin.ofNat 64 n⟩) = some r) (folded : List HandleNo)
    (f : PlacedRow → RowTurn → Prop) :
    s.TurnAt tail folded n f ↔ f r (s.rowTurn (countedRows s.store.array) folded r) := by
  have hplace : r.1 = ⟨tail, Fin.ofNat 64 n⟩ := by simpa using List.find?_some hfind
  have hval : (Fin.ofNat 64 n).val = n := Nat.mod_eq_of_lt hn
  constructor
  · rintro ⟨r', hr', hbank, hrow, hf⟩
    have hplace' : r'.1 = r.1 := by
      rw [hplace]
      obtain ⟨⟨b, i⟩, d⟩ := r'
      dsimp only at hbank hrow ⊢
      rw [hbank, show i = Fin.ofNat 64 n from Fin.ext (hrow.trans hval.symm)]
    have hrows := (rowAt_of_mem_countedRows hr').symm.trans ((congrArg (rowAt _) hplace').trans
      (rowAt_of_mem_countedRows (List.mem_of_find?_eq_some hfind)))
    have hsame : r' = r := Prod.ext hplace' (Row.valid.inj hrows)
    exact hsame ▸ hf
  · exact fun hf => ⟨r, List.mem_of_find?_eq_some hfind, by rw [hplace], by rw [hplace]; exact hval, hf⟩

theorem not_turnAt_of_find {n : Nat} (hn : n < 64)
    (hfind : ((countedRows s.store.array).find? fun r => r.1 = ⟨tail, Fin.ofNat 64 n⟩) = none) (folded : List HandleNo)
    (f : PlacedRow → RowTurn → Prop) : ¬s.TurnAt tail folded n f := by
  rintro ⟨r, hr, hbank, hrow, -⟩
  refine List.find?_eq_none.mp hfind r hr (decide_eq_true ?_)
  obtain ⟨⟨b, i⟩, d⟩ := r
  dsimp only at hbank hrow ⊢
  rw [hbank, show i = Fin.ofNat 64 n from Fin.ext (hrow.trans (Nat.mod_eq_of_lt hn).symm)]

/-- The walk with its waiting fold read started, where the read's bank is free (R128). -/
def State.readStarted (s : State) (w : CopyWalk) : CopyWalk :=
  match w.stage with
  | .reading h g none => { w with stage := .reading h g (s.readAsked h g) }
  | _ => w

/-- The walk `w` goes on to `w'`, whose fold read, where it waits for one, has a row to read. -/
def State.WalkEnds (s : State) (tail : BankNo) (w w' : CopyWalk) : Prop :=
  s.CopyGoesOn tail w (s.readStarted w') ∧ ∀ h g, w'.stage = .reading h g none → ((s.entry h).locationOf g).isSome = true

theorem copyWalkOn_of_stage (rows : List PlacedRow) (fuel : Nat) (hw : w.stage ≠ .idle) : s.copyWalkOn rows tail fuel w = w := by
  cases fuel with
  | zero => rfl
  | succ fuel => exact if_neg hw

/-- The fold in hand goes on with its next generation (R134). -/
theorem walkEnds_of_fold {rows : List PlacedRow} {fuel g : Nat} {rest : List Nat} (hidle : w.stage = .idle)
    (hw : w.foldGens = g :: rest) (hlocated : ((s.entry w.foldHandle).locationOf g).isSome = true) :
    s.copyWalkOn rows tail (fuel + 1) w = { w with foldGens := rest, stage := .reading w.foldHandle g none } ∧
      s.WalkEnds tail w { w with foldGens := rest, stage := .reading w.foldHandle g none } := by
  refine ⟨?_, (copyGoesOn_of_fold hw).mpr rfl, fun h g' e => ?_⟩
  · rw [State.copyWalkOn, if_pos hidle, State.copyMove, hw]
    exact copyWalkOn_of_stage rows fuel (fun e => by cases e)
  · cases e
    exact hlocated

/-- A move at a row of the tail (R134). -/
theorem copyMove_of_row (rows : List PlacedRow) (hw : w.foldGens = []) (hn : w.nextRow < 64) : s.copyMove rows tail w =
    match rows.find? fun r => r.1 = ⟨tail, Fin.ofNat 64 w.nextRow⟩ with
    | none => { w with nextRow := w.nextRow + 1 }
    | some r =>
      match s.rowTurn rows w.folded r with
      | .nothing => { w with nextRow := w.nextRow + 1 }
      | .copy d => { w with nextRow := w.nextRow + 1, stage := .ready (.asIs d) }
      | .fold h => CopyWalk.beginFold { w with nextRow := w.nextRow + 1 } h ((s.entry h).presentGens s.time.tt) := by
  obtain ⟨nextRow, folded, foldHandle, foldGens, nextAuthority, stage⟩ := w
  obtain rfl : foldGens = [] := hw
  exact if_pos hn

/-- A move at an authority, or at the end of the walk (R136, R137). -/
theorem copyMove_of_rows_over (rows : List PlacedRow) (hw : w.foldGens = []) (hn : 64 ≤ w.nextRow) : s.copyMove rows tail w =
    if h : w.nextAuthority < 6 then
      if needsRewrite rows tail ⟨w.nextAuthority, h⟩ then
        { w with nextAuthority := w.nextAuthority + 1, stage := .ready (.rewrite ⟨w.nextAuthority, h⟩) }
      else { w with nextAuthority := w.nextAuthority + 1 }
    else { w with stage := .ready .reclaimMark } := by
  obtain ⟨nextRow, folded, foldHandle, foldGens, nextAuthority, stage⟩ := w
  obtain rfl : foldGens = [] := hw
  exact if_neg (Nat.not_lt.mpr hn)

/-- A row that is copied, or the first row of a handle's fold, is taken (R134). -/
theorem walkEnds_of_taken (fuel : Nat) (hidle : w.stage = .idle) (hw : w.foldGens = []) (hn : w.nextRow < 64) {r : PlacedRow}
    (hfind : ((countedRows s.store.array).find? fun r => r.1 = ⟨tail, Fin.ofNat 64 w.nextRow⟩) = some r)
    (hx : s.rowTurn (countedRows s.store.array) w.folded r ≠ .nothing) :
    s.WalkEnds tail w (s.copyWalkOn (countedRows s.store.array) tail (fuel + 2) w) := by
  have hnone : ∀ m, w.nextRow ≤ m → m < w.nextRow → ¬s.TurnAt tail w.folded m fun _ x => x ≠ .nothing := fun m hm hlt =>
    absurd hlt (Nat.not_lt.mpr hm)
  have taken : ∀ {w'}, s.RowTaken w w' w.nextRow r (s.rowTurn (countedRows s.store.array) w.folded r) → s.CopyGoesOn tail w w' :=
    fun ht => (copyGoesOn_of_no_fold hw).mpr (.inl ⟨_, Nat.le_refl _, hn, hnone, (turnAt_of_find hn hfind w.folded _).mpr ht⟩)
  rw [State.copyWalkOn, if_pos hidle, copyMove_of_row _ hw hn, hfind]
  dsimp only
  cases hturn : s.rowTurn (countedRows s.store.array) w.folded r with
  | nothing => exact absurd hturn hx
  | copy d =>
    have hd : d = r.2 := rowTurn_copy hturn
    rw [hturn] at taken
    dsimp only
    rw [copyWalkOn_of_stage _ _ (fun e => by cases e)]
    exact ⟨taken (.inl ⟨by rw [hd], by rw [hd]; rfl⟩), fun h g e => (by cases e)⟩
  | fold h =>
    rw [hturn] at taken
    dsimp only
    cases hgens : (s.entry h).presentGens s.time.tt with
    | nil =>
      rw [CopyWalk.beginFold, copyWalkOn_of_stage _ _ (fun e => by cases e)]
      refine ⟨taken (.inr ⟨h, rfl, ?_⟩), fun h g e => (by cases e)⟩
      rw [hgens]
      rfl
    | cons g rest =>
      have hlocated := locationOf_of_mem_presentGens (hgens ▸ List.mem_cons_self : g ∈ (s.entry h).presentGens s.time.tt)
      obtain ⟨hmove, -, hread⟩ := walkEnds_of_fold (s := s) (tail := tail) (rows := countedRows s.store.array) (fuel := fuel)
        (w := CopyWalk.beginFold { w with nextRow := w.nextRow + 1 } h (g :: rest)) hidle rfl hlocated
      rw [hmove]
      refine ⟨taken (.inr ⟨h, rfl, ?_⟩), hread⟩
      rw [hgens]
      rfl

/-- A walk with no fold in hand goes on: its moves pass what calls for nothing, until one readies a row or asks for a read. -/
theorem walkEnds_of_no_fold (fuel : Nat) (w : CopyWalk) (hidle : w.stage = .idle) (hw : w.foldGens = [])
    (hfuel : (64 - w.nextRow) + (6 - w.nextAuthority) + 2 ≤ fuel) :
    s.WalkEnds tail w (s.copyWalkOn (countedRows s.store.array) tail fuel w) := by
  induction fuel generalizing w with
  | zero => omega
  | succ fuel ih =>
    by_cases hn : w.nextRow < 64
    · have passes : ¬s.TurnAt tail w.folded w.nextRow (fun _ x => x ≠ .nothing) →
          s.copyMove (countedRows s.store.array) tail w = { w with nextRow := w.nextRow + 1 } →
          s.WalkEnds tail w (s.copyWalkOn (countedRows s.store.array) tail (fuel + 1) w) := fun hpassed hmove => by
        obtain ⟨hgoes, hlocated⟩ := ih { w with nextRow := w.nextRow + 1 } hidle hw (by dsimp only; omega)
        rw [State.copyWalkOn, if_pos hidle, hmove]
        exact ⟨copyGoesOn_of_passed hw hn hpassed hgoes, hlocated⟩
      cases hfind : (countedRows s.store.array).find? fun r => r.1 = ⟨tail, Fin.ofNat 64 w.nextRow⟩ with
      | none => exact passes (not_turnAt_of_find hn hfind _ _) (by rw [copyMove_of_row _ hw hn, hfind])
      | some r =>
        by_cases hx : s.rowTurn (countedRows s.store.array) w.folded r = .nothing
        · exact passes (fun ht => (turnAt_of_find hn hfind _ _).mp ht hx) (by
            rw [copyMove_of_row _ hw hn, hfind]
            dsimp only
            rw [hx])
        · obtain ⟨fuel, rfl⟩ : ∃ n, fuel = n + 1 := ⟨fuel - 1, by omega⟩
          exact walkEnds_of_taken fuel hidle hw hn hfind hx
    · have hrow := Nat.not_lt.mp hn
      have hrows : max w.nextRow 64 = w.nextRow := Nat.max_eq_left hrow
      have hover : ∀ {w'}, s.RowsOver tail w w' → s.CopyGoesOn tail w w' := fun h =>
        (copyGoesOn_of_no_fold hw).mpr (.inr ⟨fun m hm hlt => absurd (Nat.lt_of_le_of_lt hm hlt) hn, h⟩)
      rw [State.copyWalkOn, if_pos hidle, copyMove_of_rows_over _ hw hrow]
      by_cases ha : w.nextAuthority < 6
      · rw [dif_pos ha]
        cases hneeds : needsRewrite (countedRows s.store.array) tail ⟨w.nextAuthority, ha⟩ with
        | true =>
          rw [if_pos rfl, copyWalkOn_of_stage _ _ (fun e => by cases e)]
          refine ⟨hover (.inl ⟨⟨w.nextAuthority, ha⟩, Nat.le_refl _, hneeds, fun a hle hlt => ?_, ?_⟩), fun h g e => (by cases e)⟩
          · exact absurd hlt (Nat.not_lt.mpr hle)
          · rw [hrows]
            rfl
        | false =>
          obtain ⟨hgoes, hlocated⟩ := ih { w with nextAuthority := w.nextAuthority + 1 } hidle hw (by dsimp only; omega)
          rw [if_neg Bool.false_ne_true]
          exact ⟨copyGoesOn_of_kept hw hrow ha hneeds hgoes, hlocated⟩
      · rw [dif_neg ha, copyWalkOn_of_stage _ _ (fun e => by cases e)]
        refine ⟨hover (.inr ⟨fun a hle => absurd (Nat.lt_of_le_of_lt hle a.isLt) ha, ?_⟩), fun h g e => (by cases e)⟩
        rw [hrows, Nat.max_eq_left (Nat.not_lt.mp ha)]
        rfl

/-- The COPY goes on from any idle walk whose fold in hand, if there is one, has a row to read. -/
theorem walkEnds {w : CopyWalk} (hidle : w.stage = .idle)
    (hfold : ∀ g rest, w.foldGens = g :: rest → ((s.entry w.foldHandle).locationOf g).isSome = true) :
    s.WalkEnds tail w (s.copyWalkOn (countedRows s.store.array) tail 80 w) := by
  cases hw : w.foldGens with
  | nil => exact walkEnds_of_no_fold 80 w hidle hw (by omega)
  | cons g rest =>
    obtain ⟨hmove, hends⟩ := walkEnds_of_fold (s := s) (tail := tail) (rows := countedRows s.store.array) (fuel := 79) hidle hw
      (hfold g rest hw)
    rw [hmove]
    exact hends

end Walk

/-! ## The state in which the COPY goes on -/

/-- The state with the walk of its reclaim over bank `tail` replaced. -/
def State.walking (s : State) (tail : BankNo) (w : CopyWalk) : State :=
  s.onStore fun t => { t with reclaim := some ⟨tail, .copy w, false⟩ }

/-- A waiting fold read with a row to read starts if its bank is free (R128, R134). -/
theorem foldReadStart_walking {s : State} {tail : BankNo} {w : CopyWalk}
    (hlocated : ∀ h g, w.stage = .reading h g none → ((s.entry h).locationOf g).isSome = true) :
    (s.walking tail w).foldReadStart = s.walking tail (s.readStarted w) := by
  obtain ⟨nextRow, folded, foldHandle, foldGens, nextAuthority, stage⟩ := w
  cases stage with
  | idle => rfl
  | ready => rfl
  | running => rfl
  | reading h g l =>
    cases l with
    | some l => rfl
    | none =>
      obtain ⟨l, hl⟩ := Option.isSome_iff_exists.mp (hlocated h g rfl)
      have hasked : s.readAsked h g = if s.store.bankBusy l.bank = true then none else some l := by
        rw [State.readAsked, hl, Option.filter_some]
        cases s.store.bankBusy l.bank <;> rfl
      have hstarts : (s.walking tail ⟨nextRow, folded, foldHandle, foldGens, nextAuthority, .reading h g none⟩).foldReadStart =
          if s.store.bankBusy l.bank = true then s.walking tail ⟨nextRow, folded, foldHandle, foldGens, nextAuthority, .reading h g none⟩
          else s.walking tail ⟨nextRow, folded, foldHandle, foldGens, nextAuthority, .reading h g (some l)⟩ := by
        change (match (s.entry h).locationOf g with | none => _ | some l => _) = _
        rw [hl]
        rfl
      rw [hstarts, State.readStarted]
      dsimp only
      rw [hasked]
      split <;> rfl

/-- An idle COPY goes on where the program circuit is free, outside FAULT (R134, R135). -/
theorem copyAdvance_goesOn {s : State} {tail : BankNo} {w : CopyWalk} (hreclaim : s.store.reclaim = some ⟨tail, .copy w, false⟩)
    (hidle : w.stage = .idle) (hprogram : s.store.program = none) (hretry : s.store.retry = none) (hfault : s.store.fault = false)
    (hfold : ∀ g rest, w.foldGens = g :: rest → ((s.entry w.foldHandle).locationOf g).isSome = true) :
    ∃ w', s.CopyGoesOn tail w w' ∧ s.copyAdvance = s.walking tail w' := by
  obtain ⟨hgoes, hlocated⟩ := walkEnds (s := s) (tail := tail) hidle hfold
  refine ⟨_, hgoes, ?_⟩
  have hfree : (s.store.circuitFree && !s.store.fault && decide (w.stage = .idle)) = true := by
    rw [Store.circuitFree, hprogram, hretry, hfault, hidle]
    rfl
  rw [State.copyAdvance, hreclaim]
  dsimp only
  rw [if_pos hfree]
  exact foldReadStart_walking hlocated

end Sys2Proof.Machine

/-!
PROOFS of the completion of marks, of the rows of a COPY, and of the records of locks and confirms by use (R67, R77, R87, R95,
R115, R134 to R137, R140, R147, R153).
-/

namespace Sys2Proof.Machine

open Sys2Proof

/-! ## Marks, where no job is in hand -/

theorem exec_of_no_jobs {s t : State} {p : Program} (hp : s.store.program = some p) (hreclaim : s.store.reclaim = none)
    (ht : (s.rowEnded p.location p.data).applyDurable p.requester p.location p.data = t) (hjobs : ∀ j, t.job j = none) :
    exec .appendCompletion s = .next t := by
  rw [exec_appendCompletion hp hreclaim, ht, settle_of_no_jobs hjobs]

theorem releaseCounterWaiters_of_no_waiter {s : State} (h : HandleNo) (hno : s.NoCounterWaiter h) :
    s.releaseCounterWaiters h = s := by
  refine foldl_eq_self fun j _ => ?_
  split
  next x hx => exact if_neg (hno j x hx)
  next => rfl

/-- The entry once the counter write in flight has completed (R67). -/
def HandleEntry.counted (e : HandleEntry) (g ceiling : Nat) (floor : Option Nat) : HandleEntry :=
  { e with
    current := e.current.map fun c => if c.gen = g then { c with txCeiling := ceiling, rxFloor := floor } else c
    counterFlight := none }

/-- A COUNTER mark's completion: the entry, the jobs released, and the reservation check (R67, R77). -/
theorem completeCounter_eq (s : State) (h h' : HandleNo) (g ceiling : Nat) (floor : Option Nat) :
    s.completeCounter h (.counter h' g ceiling floor) =
      ((s.onEntry h fun e => e.counted g ceiling floor).releaseCounterWaiters h).reservationCheck h := rfl

theorem reservationCheck_of_no_raise {s : State} {h : HandleNo}
    (hno : ∀ c, (s.entry h).current = some c → ¬(s.entry h).raises c) : s.reservationCheck h = s := by
  cases hc : (s.entry h).current with
  | none => rw [State.reservationCheck, HandleEntry.wantsRaise, hc]
  | some c => exact reservationCheck_of_not_raises hc (hno c hc)

/-- Where no job is in hand, what a COUNTER mark's completion does (R67, R77). -/
theorem completeCounter_of_no_jobs {s : State} (hjobs : ∀ j, s.job j = none) (ha : s.supply.activity = .active)
    (h h' : HandleNo) (g ceiling : Nat) (floor : Option Nat) :
    let t := s.onEntry h fun e => e.counted g ceiling floor
    ((∀ c, (t.entry h).current = some c → ¬(t.entry h).raises c) → s.completeCounter h (.counter h' g ceiling floor) = t) ∧
    ∀ c, (t.entry h).current = some c → (t.entry h).raises c → s.completeCounter h (.counter h' g ceiling floor) =
      t.raiseAsked h (some (min (c.txCeiling + 256) c.signLimit)) none := by
  intro t
  have hno : t.NoCounterWaiter h := fun j x hx => absurd ((hjobs j).symm.trans hx) (fun e => by cases e)
  have hcheck : s.completeCounter h (.counter h' g ceiling floor) = t.reservationCheck h :=
    (completeCounter_eq s h h' g ceiling floor).trans
      (congrArg (State.reservationCheck · h) (releaseCounterWaiters_of_no_waiter h hno))
  refine ⟨fun hkeeps => hcheck.trans (reservationCheck_of_no_raise hkeeps), fun c hc hr => ?_⟩
  rw [hcheck, reservationCheck_of_raises hc hr, askCounter_eq (s := t) ha fun _ _ => hno]

/-! ## A COUNTER mark that a SIGN waits for -/

/-- The SIGN is judged again, and is issued a counter below the new ceiling (R67, R73, R74). -/
theorem State.SignReleased.issues {v : State} {j : JobId} {y : Job} {n : Fin 4} {h : HandleNo} {g : Nat} {p : Policy}
    {key : List Byte} {c : CurrentGen} (hv : v.SignReleased j y n h g) (hopen : (v.slot n).state = .opened h g p key)
    (hcore : v.cipher.running = none) (hc : (v.entry h).current = some c) (hgen : c.gen = g)
    (hright : (if y.card.val < 16 then c.policy.signM else c.policy.signC) = true)
    (hoption : y.option = true → c.policy.payload = true) (hexpiry : v.time.tt < c.expiry) (hlimit : c.txNext < c.signLimit)
    (hbelow : c.txNext + 65 < c.txCeiling) :
    v.settle = v.issuedTo j y h g c key ∧ (v.issuedTo j y h g c key).job j = some (y.issued g c v.time.tt false) ∧
      (v.issuedTo j y h g c key).cipher.running = some ⟨.sign j key, false⟩ ∧ (v.issuedTo j y h g c key).port = v.port ∧
      (v.issuedTo j y h g c key).entry h = { v.entry h with current := some c.issue } := by
  have hopen' : (v.slot y.slotNo).state = .opened h g p key := by rw [hv.slotNo]; exact hopen
  have hserve : v.serveUse n j y h g = v.issuedTo j y h g c key := by
    rw [← hv.slotNo] at *
    exact serveUse_sign_issued hv.job hv.handle hv.field hopen' hv.kind hc hgen hright hoption hexpiry hlimit (by omega)
      fun hr => by
        have hnear : c.txCeiling ≤ c.txNext + 1 + 64 := hr.1
        omega
  have hjobs : ∀ i, (v.issuedTo j y h g c key).job i = if j = i then some (y.issued g c v.time.tt false) else v.job i := fun i =>
    (State.job_setJob (v.onEntry h fun e => { e with current := some c.issue }) j i _).trans (by rw [hcore]; rfl)
  have hstill : (v.issuedTo j y h g c key).internalStep = none := by
    refine internalStep_of_still (still_of_waiting (fun i z hz => ?_) hv.waiting)
    rw [hjobs] at hz
    split at hz
    · cases hz
      rfl
    · rw [hv.jobs, if_neg (Ne.symm ‹_›)] at hz
      cases hz
  refine ⟨settle_of_one (hv.internalStep.trans (congrArg some hserve)) hstill, (hjobs j).trans (if_pos rfl), ?_, rfl,
    State.entry_onEntry_self v h fun e => { e with current := some c.issue }⟩
  change (v.cipher.useAsked j y.group (.sign j key)).running = _
  rw [Cipher.useAsked, hcore]
  rfl

/-! ## A RECLAIM mark -/

/-- The store once the RECLAIM mark of bank `b` is durable: its erase is due in MAINS, and the reclaim ends in RESERVE (R137;
log entry 15). -/
def Store.markDone (t : Store) (b : BankNo) (power : Power) : Store :=
  if power = .mains then { t with banks := t.banks.set b .erasing, reclaim := some ⟨b, .erase, false⟩ }
  else { t with banks := t.banks.set b .needsErase, reclaim := none }

theorem completeReclaimMark_eq {s : State} {b tail : BankNo} {w : CopyWalk} (h : s.store.reclaim = some ⟨tail, .copy w, false⟩) :
    s.completeReclaimMark b = s.onStore fun t => t.markDone b s.supply.power := by
  rw [State.completeReclaimMark, h]
  cases s.supply.power <;> rfl

theorem reclaim_markDone (t : Store) (b : BankNo) (power : Power) :
    (t.markDone b power).reclaim = none ∨ (t.markDone b power).reclaim = some ⟨b, .erase, false⟩ := by
  unfold Store.markDone
  split
  · exact .inr rfl
  · exact .inl rfl

/-- With no job in hand, what follows a durable row is what its COPY makes of it. -/
theorem exec_of_no_jobs_in_copy {s u : State} {p : Program} (hp : s.store.program = some p)
    (hu : ((s.rowEnded p.location p.data).applyDurable p.requester p.location p.data).copyRowDone p.requester = u)
    (hjobs : ∀ j, u.job j = none) (habandoned : u.store.reclaim.any (·.abandoned) = false) :
    exec .appendCompletion s = .next u.copyAdvance := by
  have hdrop : u.onStore Store.dropAbandoned = u := by
    have hkept : u.store.dropAbandoned = u.store := by
      rw [Store.dropAbandoned, habandoned, Bool.and_false]
      rfl
    rw [State.onStore, hkept]
  rw [exec, execAppendCompletion, hp]
  change Host.Outcome.next ((((State.applyDurable (s.rowEnded p.location p.data) p.requester p.location p.data).copyRowDone
    p.requester).onStore Store.dropAbandoned).settle).copyAdvance = _
  rw [hu, hdrop, settle_of_no_jobs hjobs]

theorem reclaim_rowEnded (s : State) (loc : Location) (d : RowData) : (s.rowEnded loc d).store.reclaim = s.store.reclaim := by
  rw [rowEnded_eq]
  exact (advanceHead_reads s.store).1

theorem exec_reclaimMark {s : State} {b tail : BankNo} {w : CopyWalk} {payload : Payload} {loc : Location} {d : RowData}
    {failures : Nat} (hp : s.store.program = some ⟨.reclaimMark b, payload, loc, d, failures⟩) (hjobs : ∀ j, s.job j = none)
    (hreclaim : s.store.reclaim = some ⟨tail, .copy w, false⟩) :
    exec .appendCompletion s = .next ((s.rowEnded loc d).onStore fun t => t.markDone b s.supply.power) := by
  have heffect := completeReclaimMark_eq (b := b) ((reclaim_rowEnded s loc d).trans hreclaim)
  have hreclaim' := reclaim_markDone (s.rowEnded loc d).store b s.supply.power
  refine (exec_of_no_jobs_in_copy hp heffect hjobs ?_).trans (congrArg Host.Outcome.next ?_)
  · rcases hreclaim' with e | e <;> exact congrArg (Option.any _) e
  · unfold State.copyAdvance
    split
    next tail w hcopy =>
      rcases hreclaim' with e | e
      · cases e.symm.trans hcopy
      · cases e.symm.trans hcopy
    next => rfl

/-! ## The rows of a COPY -/

/-- The row of a COPY in program has become durable, with no job in hand: the COPY goes on (R134, R135). -/
theorem exec_copyRow {s u : State} {p : Program} {tail : BankNo} {w : CopyWalk} (hp : s.store.program = some p)
    (hcopy : p.requester.copyRow = true)
    (hu : (s.rowEnded p.location p.data).applyDurable p.requester p.location p.data = u) (hjobs : ∀ j, u.job j = none)
    (hreclaim : u.store.reclaim = some ⟨tail, .copy w, false⟩) (hprogram : u.store.program = none) (hretry : u.store.retry = none)
    (hfault : u.store.fault = false)
    (hfold : ∀ g rest, w.foldGens = g :: rest → ((u.entry w.foldHandle).locationOf g).isSome = true) :
    ∃ w', u.CopyGoesOn tail { w with stage := .idle } w' ∧ exec .appendCompletion s = .next (u.walking tail w') := by
  have hidle : u.copyRowDone p.requester = u.walking tail { w with stage := .idle } := by
    have hstage : u.store.setCopyStage .idle = { u.store with reclaim := some ⟨tail, .copy { w with stage := .idle }, false⟩ } := by
      rw [Store.setCopyStage, hreclaim]
    rw [State.copyRowDone, if_pos hcopy, State.onStore, hstage]
    rfl
  obtain ⟨w', hgoes, hadvance⟩ := copyAdvance_goesOn (s := u.walking tail { w with stage := .idle }) (tail := tail)
    (w := { w with stage := .idle }) rfl rfl hprogram hretry hfault hfold
  have hexec := exec_of_no_jobs_in_copy (u := u.walking tail { w with stage := .idle }) hp
    ((congrArg (State.copyRowDone · p.requester) hu).trans hidle) hjobs rfl
  exact ⟨w', hgoes, hexec.trans (congrArg Host.Outcome.next hadvance)⟩

/-- A change of records that keeps their generations finds the same one. -/
theorem any_gen_map {α : Type} {gen : α → Nat} {f : α → α} (hgen : ∀ a, gen (f a) = gen a) (g : Nat) (o : Option α) :
    (o.map f).any (fun a => gen a == g) = o.any fun a => gen a == g := by
  cases o with
  | none => rfl
  | some a => exact congrArg (· == g) (hgen a)

theorem map_place_map {α : Type} {gen : α → Nat} {place q : α → Location} {f : α → α} {g : Nat}
    (hplace : ∀ a, gen a = g → place (f a) = q a) {o : Option α} (ho : o.any (fun a => gen a == g) = true) :
    (o.map f).map place = o.map q := by
  cases o with
  | none => rfl
  | some a => exact congrArg some (hplace a (eq_of_beq ho))

/-- The place of the generation of a fold's row, and those of the other generations (R63, R134). -/
theorem locationOf_moveLocation (e : HandleEntry) (g g' : Nat) (loc : Location) : (e.moveLocation g loc).locationOf g' =
    if g' = g then (e.locationOf g').map fun _ => loc else e.locationOf g' := by
  have hplaces : ∀ {α : Type} {gen : α → Nat} {place : α → Location} {move : α → α} {o : Option α},
      (∀ a, place (move a) = if gen a = g then loc else place a) → o.any (fun a => gen a == g') = true →
      (o.map move).map place = if g' = g then (o.map place).map (fun _ => loc) else o.map place := by
    intro α gen place move o hmove ho
    by_cases hg : g' = g
    · rw [if_pos hg, map_place_map (q := (fun _ => loc) ∘ place) (fun a ha => (hmove a).trans (if_pos (ha.trans hg))) ho,
        Option.map_map]
    · rw [if_neg hg]
      exact map_place_map (fun a ha => (hmove a).trans (if_neg fun e => hg (ha.symm.trans e))) ho
  have hcurrent : (e.moveLocation g loc).current.any (fun c => c.gen == g') = e.current.any fun c => c.gen == g' :=
    any_gen_map (fun c => by split <;> rfl) g' _
  have hstaged : (e.moveLocation g loc).staged.any (fun c => c.gen == g') = e.staged.any fun c => c.gen == g' :=
    any_gen_map (fun c => by split <;> rfl) g' _
  have hretiring : (e.moveLocation g loc).retiring.any (fun c => c.gen == g') = e.retiring.any fun c => c.gen == g' :=
    any_gen_map (fun c => by split <;> rfl) g' _
  unfold HandleEntry.locationOf
  rw [hcurrent, hstaged, hretiring]
  by_cases h1 : e.current.any (fun c => c.gen == g') = true
  · rw [if_pos h1, if_pos h1]
    exact hplaces (fun c => by split <;> rfl) h1
  rw [if_neg h1, if_neg h1]
  by_cases h2 : e.staged.any (fun c => c.gen == g') = true
  · rw [if_pos h2, if_pos h2]
    exact hplaces (fun c => by split <;> rfl) h2
  rw [if_neg h2, if_neg h2]
  by_cases h3 : e.retiring.any (fun c => c.gen == g') = true
  · rw [if_pos h3, if_pos h3]
    exact hplaces (fun c => by split <;> rfl) h3
  rw [if_neg h3, if_neg h3]
  exact (ite_self none).symm


theorem store_rowEnded (s : State) (loc : Location) (d : RowData) : (s.rowEnded loc d).store.program = none ∧
    (s.rowEnded loc d).store.retry = s.store.retry ∧ (s.rowEnded loc d).store.fault = s.store.fault := by
  rw [rowEnded_eq]
  dsimp only
  unfold Store.advanceHead
  split
  · exact ⟨rfl, rfl, rfl⟩
  · split <;> exact ⟨rfl, rfl, rfl⟩

theorem job_rowEnded (s : State) (loc : Location) (d : RowData) (j : JobId) : (s.rowEnded loc d).job j = s.job j :=
  State.job_congr (s.rowEnded_reads loc d).1 j

section Copy

variable {s : State} {q : Requester} {payload : Payload} {loc : Location} {d : RowData} {failures : Nat} {tail : BankNo} {w : CopyWalk}
  (hp : s.store.program = some ⟨q, payload, loc, d, failures⟩) (hjobs : ∀ j, s.job j = none)
  (hreclaim : s.store.reclaim = some ⟨tail, .copy w, false⟩) (hretry : s.store.retry = none) (hfault : s.store.fault = false)
include hp hjobs hreclaim hretry hfault

/-- After a row of a COPY that changes one entry at most, the COPY goes on (R134, R135). -/
theorem exec_copyRow_of_onEntry {u : State} (hcopy : q.copyRow = true) (hu : (s.rowEnded loc d).applyDurable q loc d = u)
    (hframe : u = { s.rowEnded loc d with directory := u.directory })
    (hfold : ∀ g rest, w.foldGens = g :: rest → ((u.entry w.foldHandle).locationOf g).isSome = true) :
    ∃ w', u.CopyGoesOn tail { w with stage := .idle } w' ∧ exec .appendCompletion s = .next (u.walking tail w') := by
  obtain ⟨hprogram, hretry', hfault'⟩ := store_rowEnded s loc d
  have hstore : u.store = (s.rowEnded loc d).store := by rw [hframe]
  refine exec_copyRow hp hcopy hu (fun j => ?_) (by rw [hstore, reclaim_rowEnded, hreclaim]) (by rw [hstore, hprogram])
    (by rw [hstore, hretry', hretry]) (by rw [hstore, hfault', hfault]) hfold
  rw [hframe]
  exact (job_rowEnded s loc d j).trans (hjobs j)

/-- A REVOKE row of a fold acts as a REVOKE does, and the COPY goes on (R50, R105, R134). -/
theorem exec_foldRevoke {h : HandleNo} {g highest : Nat} {role : Option Role} (hq : q = .foldRevoke h)
    (hrecord : d.record = .revoke h g highest role) (hfold : w.foldGens = []) :
    ∃ t, exec .appendCompletion s = .next t ∧ t.port = { s.port with figures := s.figuresAfter } ∧
      t.entry h = { (s.entry h).applyRevoke highest role with counterPending := none } ∧
      (∀ h', h' ≠ h → t.entry h' = s.entry h') ∧
      ∀ i a g' p m, (s.slot i).state = .opened a g' p m →
        (t.slot i).state = if a = h then .closing s.time.milli else .opened a g' p m := by
  obtain ⟨hprogram, hretry', hfault'⟩ := store_rowEnded s loc d
  obtain ⟨-, hport₀, -⟩ := s.rowEnded_reads loc d
  have hjobs₀ : ∀ j, (s.rowEnded loc d).job j = none := fun j => (job_rowEnded s loc d j).trans (hjobs j)
  obtain ⟨u, hu⟩ : ∃ u, (s.rowEnded loc d).applyPackageRecord loc d.stamp d.record = u := ⟨_, rfl⟩
  obtain ⟨⟨hengine, hport, -, -, -, -, hentry, hothers⟩, hstore, hslots⟩ := applyRevoke_changes (loc := loc)
    (s := s.rowEnded loc d) (fun _ j _ => hjobs₀ j) (fun j x hx => by rw [hjobs₀] at hx; cases hx) hrecord hu
  obtain ⟨w', -, hexec⟩ := exec_copyRow (u := u) hp (by rw [hq]; rfl) (by dsimp only; rw [hq]; exact hu)
    (fun j => (State.job_congr hengine j).trans (hjobs₀ j)) (by rw [hstore]; exact (reclaim_rowEnded s loc d).trans hreclaim)
    (by rw [hstore]; exact hprogram) (by rw [hstore]; exact hretry'.trans hretry) (by rw [hstore]; exact hfault'.trans hfault)
    (fun g rest e => by rw [hfold] at e; cases e)
  exact ⟨_, hexec, hport.trans hport₀, hentry, fun h' hne => hothers h' hne, hslots⟩

end Copy

/-! ## The record of a lock, and a confirm by use -/

/-- A lock's record completes TAG_BAD with AUTH_NOW_LOCKED (R95, R115). -/
theorem exec_lock {s : State} {j : JobId} {x : Job} {payload : Payload} {loc : Location} {d : RowData} {failures : Nat}
    (hp : s.store.program = some ⟨.lock (some j), payload, loc, d, failures⟩) (honly : s.OnlyJob j x)
    (hreclaim : s.store.reclaim = none) : ∃ t, exec .appendCompletion s = .next t ∧
      t.port = ({ s.port with figures := s.figuresAfter } : Port).jobDone { x with notes := x.notes ||| noteAuthNowLocked } .tagBad [] ∧
      (∀ i, t.job i = none) ∧ t.authorities = s.authorities := by
  obtain ⟨hx, hothers⟩ := honly
  obtain ⟨-, hport, -, -, hauthorities, -⟩ := s.rowEnded_reads loc d
  have hnoted : (s.rowEnded loc d).addNotes j noteAuthNowLocked =
      (s.rowEnded loc d).setJob j (some { x with notes := x.notes ||| noteAuthNowLocked }) :=
    onJob_eq_setJob ((job_rowEnded s loc d j).trans hx) _
  obtain ⟨v, hv⟩ : ∃ v, (s.rowEnded loc d).setJob j (some { x with notes := x.notes ||| noteAuthNowLocked }) = v := ⟨_, rfl⟩
  have hy : v.job j = some { x with notes := x.notes ||| noteAuthNowLocked } := hv ▸ State.job_setJob_self _ j _
  have hjobs : ∀ i, (v.finishJob j .tagBad []).job i = none := fun i => by
    rw [job_finishJob hy]
    split
    · rfl
    · rw [← hv, State.job_setJob, if_neg (Ne.symm ‹_›), job_rowEnded]
      exact hothers i ‹_›
  obtain ⟨-, -, hauthorities', -⟩ := finishJob_sameElsewhere hy .tagBad []
  refine ⟨_, exec_of_no_jobs hp hreclaim (congrArg (State.finishJob · j .tagBad []) (hnoted.trans hv)) hjobs, ?_, hjobs, ?_⟩
  · rw [finishJob_port hy, ← hv]
    exact congrArg (Port.jobDone · _ .tagBad []) hport
  · rw [hauthorities', ← hv]
    exact hauthorities

/-- The job of the record in program is the only one in hand, or, where a warm reset has aborted it, none is. -/
def State.OwnerAlone (s : State) (owner : Option (JobId × Job)) : Prop :=
  (∀ j x, owner = some (j, x) → s.OnlyJob j x) ∧ (owner = none → ∀ j, s.job j = none)

/-- The mark of a confirm by use has become durable, and has made `e'` of its entry (R87, R140). -/
structure State.ConfirmLands (s t : State) (owner : Option (JobId × Job)) (h : HandleNo) (late : Bool) (e' : HandleEntry) : Prop where
  jobs : ∀ j, t.job j = none
  entry : t.entry h = { e' with writeList := (t.entry h).writeList, touched := (t.entry h).touched }
  port : ∀ j x, owner = some (j, x) → t.port = ({ s.port with figures := s.figuresAfter } : Port).jobDone
    (if late then x else { x with notes := x.notes ||| noteConfirmedByUse }) .ok [x.gen]
  orphan : owner = none → t.port = { s.port with figures := s.figuresAfter } ∧
    (t.entry h).writeList = e'.writeList.filter fun w => w.owner.isSome

/-- Without a grace the predecessor is gone (R103). -/
theorem superseded_zero (c : CurrentGen) (stamp : Nat) : c.superseded stamp 0 = none := by
  unfold CurrentGen.superseded
  exact if_pos (Or.inl rfl)

section Confirm

variable {s : State} {owner : Option (JobId × Job)} {payload : Payload} {loc : Location} {d : RowData} {failures : Nat}
  {h : HandleNo} {a : State} {e' : HandleEntry}

/-- The mark of a confirm by use has become durable, and has changed its entry to `e'` (R87, R103). -/
theorem exec_confirmByUse (hp : s.store.program = some ⟨.confirmByUse (owner.map (·.1)), payload, loc, d, failures⟩)
    (hreclaim : s.store.reclaim = none) (hhandle : d.record.handle? = some h)
    (howner : s.OwnerAlone owner)
    (happly : (s.rowEnded loc d).applyPackageRecord loc d.stamp d.record = a) (ha : (s.rowEnded loc d).ChangesEntry a h e')
    {late : Bool} (hlate : (s.rowEnded loc d).lateConfirm d = late) :
    ∃ t, exec .appendCompletion s = .next t ∧ s.ConfirmLands t owner h late e' := by
  obtain ⟨hengine, hport, -, -, -, -, hentry, -⟩ := ha
  obtain ⟨-, hport₀, -⟩ := s.rowEnded_reads loc d
  have hjobs : ∀ i, a.job i = s.job i := fun i => (State.job_congr hengine i).trans (job_rowEnded s loc d i)
  obtain ⟨hjob, hnone⟩ := howner
  cases owner with
  | none =>
    have hself : (a.dropOrphan (some h)).entry h = { e' with writeList := e'.writeList.filter fun w => w.owner != none } := by
      rw [State.dropOrphan, State.entry_onEntry_self, hentry]
    have heffect : (s.rowEnded loc d).applyDurable (.confirmByUse none) loc d = a.dropOrphan (some h) := by
      rw [← happly, ← hhandle]
      rfl
    have hfree : ∀ j, (a.dropOrphan (some h)).job j = none := fun j => (hjobs j).trans (hnone rfl j)
    refine ⟨_, exec_of_no_jobs hp hreclaim heffect hfree, hfree, ?_, fun _ _ e => (by cases e), fun _ =>
      ⟨hport.trans hport₀, ?_⟩⟩
    · rw [hself]
    · rw [hself]
      exact List.filter_congr fun w _ => by cases w.owner <;> rfl
  | some o =>
    obtain ⟨j, x⟩ := o
    obtain ⟨hx, hothers⟩ := hjob j x rfl
    have hx' := (hjobs j).trans hx
    obtain ⟨y, hy⟩ : ∃ y, (if late then x else { x with notes := x.notes ||| noteConfirmedByUse }) = y := ⟨_, rfl⟩
    obtain ⟨v, hv⟩ : ∃ v, a.setJob j (some y) = v := ⟨_, rfl⟩
    have hv' : (if late then a else a.addNotes j noteConfirmedByUse) = v := by
      rw [← hv, ← hy]
      cases late with
      | true => exact (congrArg (a.setJob j) hx'.symm).trans (setJob_self a j) |>.symm
      | false => exact onJob_eq_setJob hx' _
    have heffect : (s.rowEnded loc d).applyDurable (.confirmByUse (some j)) loc d = v.finishUse j .ok [x.gen] := by
      have hdone : a.completeConfirm j late = v.finishUse j .ok [x.gen] := by
        rw [State.completeConfirm, hx', ← hv']
      rw [← hdone, ← happly, ← hlate]
      rfl
    have hvy : v.job j = some y := hv ▸ State.job_setJob_self a j _
    have hfree : ∀ i, (v.finishUse j .ok [x.gen]).job i = none := fun i => by
      rw [job_finishUse hvy]
      split
      · rfl
      · rw [← hv, State.job_setJob, if_neg (Ne.symm ‹_›), hjobs]
        exact hothers i ‹_›
    have hventry : v.entry h = e' := by
      rw [← hv]
      exact hentry
    have hends := entry_finishUse hvy .ok [x.gen] h
    rw [hventry] at hends
    refine ⟨_, exec_of_no_jobs hp hreclaim heffect hfree, hfree, hends, fun _ _ e => ?_, fun e => (by cases e)⟩
    cases e
    rw [finishUse_port hvy, ← hv, hy]
    exact congrArg (Port.jobDone · y .ok [x.gen]) (hport.trans hport₀)

variable (hp : s.store.program = some ⟨.confirmByUse (owner.map (·.1)), payload, loc, d, failures⟩)
  (hreclaim : s.store.reclaim = none) (howner : s.OwnerAlone owner) {g ceiling : Nat} {y : StagedGen}
  (hrecord : d.record = .confirm h g 0 ceiling) (hy : (s.entry h).staged = some y)
include hp hreclaim howner hrecord hy

/-- A confirm by use stamped before the deadline (R87, R103). -/
theorem exec_confirmByUse_timely (hg : y.gen = g) (hsteps : ∀ j x, owner = some (j, x) → x.step ≠ .counterWait)
    (htimely : d.stamp < y.deadline) :
    ∃ t, exec .appendCompletion s = .next t ∧ s.ConfirmLands t owner h false
      { (s.entry h).applyConfirm s.time.tt d.stamp g 0 ceiling with counterPending := none } := by
  have htook := confirmable_of_timely hy hg htimely
  have happly := applyPackageRecord_confirm (loc := loc) hrecord (s.rowEnded loc d)
  rw [entry_rowEnded, tt_rowEnded, htook, Option.isSome_some, if_pos rfl] at happly
  have hwaiters : ∀ j x, (s.rowEnded loc d).job j = some x → x.step ≠ .counterWait := fun i z hz => by
    replace hz := (job_rowEnded s loc d i).symm.trans hz
    cases ho : owner with
    | none => cases (howner.2 ho i).symm.trans hz
    | some o =>
      obtain ⟨hx, hothers⟩ := howner.1 o.1 o.2 ho
      by_cases hi : i = o.1
      · rw [hi, hx] at hz
        cases hz
        exact hsteps _ _ ho
      · cases (hothers i hi).symm.trans hz
  refine exec_confirmByUse hp hreclaim (by rw [hrecord]; rfl) howner happly ((State.ChangesEntry.onEntry (s.rowEnded loc d) h
    fun e => e.applyConfirm s.time.tt d.stamp g 0 ceiling).staleCounters hwaiters) ?_
  rw [lateConfirm_of_confirm hrecord, entry_rowEnded, htook]
  rfl

/-- A late confirm by use (R87, R103). -/
theorem exec_confirmByUse_late (hlate : y.deadline ≤ d.stamp) :
    ∃ t, exec .appendCompletion s = .next t ∧ s.ConfirmLands t owner h true ((s.entry h).clearLapsed s.time.tt) := by
  have hall : ∀ z, (s.entry h).staged = some z → z.gen = g → z.deadline ≤ d.stamp := fun z hz _ => by
    cases hy.symm.trans hz
    exact hlate
  have happly := applyPackageRecord_confirm (loc := loc) hrecord (s.rowEnded loc d)
  rw [entry_rowEnded, tt_rowEnded, confirmable_of_late hall, Option.isSome_none, if_neg Bool.false_ne_true] at happly
  rw [← applyConfirm_of_late hall s.time.tt 0 ceiling]
  refine exec_confirmByUse hp hreclaim (by rw [hrecord]; rfl) howner happly
    (State.ChangesEntry.onEntry (s.rowEnded loc d) h fun e => e.applyConfirm s.time.tt d.stamp g 0 ceiling) ?_
  rw [lateConfirm_of_confirm hrecord, entry_rowEnded, confirmable_of_late hall]
  rfl

end Confirm


/-! ## The obligation -/

/-- The state in which a COUNTER mark's completion has released the SIGN `x` (R67). -/
def State.signReleased (s : State) (loc : Location) (d : RowData) (h : HandleNo) (g ceiling : Nat) (floor : Option Nat) (j : JobId)
    (x : Job) : State :=
  ((s.rowEnded loc d).onEntry h fun e => e.counted g ceiling floor).setJob j (some { x with step := .slotQueue })

/-- R67, R75, R77: the SIGN that waits for a COUNTER mark is released, and the reservation check asks for nothing. -/
theorem exec_counter_releases {s : State} {h : HandleNo} {g ceiling : Nat} {floor : Option Nat} {j : JobId} {x : Job}
    {payload : Payload} {loc : Location} {d : RowData} {failures : Nat} {c : CurrentGen}
    (hp : s.store.program = some ⟨.counter h, payload, loc, d, failures⟩) (hrecord : d.record = .counter h g ceiling floor)
    (hreclaim : s.store.reclaim = none) (honly : s.OnlyJob j x) (hstep : x.step = .counterWait) (hhandle : x.handle = h)
    (hc : (s.entry h).current = some c) (hgen : c.gen = g) (hbelow : c.txNext + 65 < ceiling) :
    ((s.signReleased loc d h g ceiling floor j x).entry h).current = some { c with txCeiling := ceiling, rxFloor := floor } ∧
      exec .appendCompletion s = .next (s.signReleased loc d h g ceiling floor j x).settle := by
  obtain ⟨hx, hothers⟩ := honly
  obtain ⟨v, hv⟩ : ∃ v, s.signReleased loc d h g ceiling floor j x = v := ⟨_, rfl⟩
  have hcurrent : (v.entry h).current = some { c with txCeiling := ceiling, rxFloor := floor } := by
    have hentry : v.entry h = (s.entry h).counted g ceiling floor := by
      rw [← hv]
      exact State.entry_onEntry_self (s.rowEnded loc d) h fun e => e.counted g ceiling floor
    rw [hentry, HandleEntry.counted, hc]
    exact congrArg some (if_pos hgen)
  have hreleases : ((s.rowEnded loc d).onEntry h fun e => e.counted g ceiling floor).releaseCounterWaiters h = v := by
    rw [← hv]
    refine releaseCounterWaiters_of_waiter ((job_rowEnded s loc d j).trans hx) hstep hhandle fun i z hi hz => ?_
    cases (hothers i hi).symm.trans ((job_rowEnded s loc d i).symm.trans hz)
  have hkeeps : v.reservationCheck h = v := by
    refine reservationCheck_of_not_raises hcurrent fun hr => ?_
    have hnear : ceiling ≤ c.txNext + 64 := hr.1
    omega
  have heffect : (s.rowEnded loc d).applyDurable (.counter h) loc d = v := by
    rw [State.applyDurable, hrecord, completeCounter_eq, hreleases, hkeeps]
  rw [hv]
  exact ⟨hcurrent, (exec_appendCompletion hp hreclaim).trans (congrArg (fun u => Host.Outcome.next (State.settle u)) heffect)⟩

/-- Settles O52: the marks, the SIGN that waits for one, the RECLAIM mark, the rows of a COPY, a lock and a confirm by use. -/
theorem otherRecordsBecomeDurable : Obligations.OtherRecordsBecomeDurable := by
  unfold Obligations.OtherRecordsBecomeDurable
  intro s q payload loc d failures hp shown ended go idle
  have hended : ended = s.rowEnded loc d := (rowEnded_eq s loc d).symm
  have hjobs₀ : ∀ j, (s.rowEnded loc d).job j = s.job j := job_rowEnded s loc d
  obtain ⟨-, hport₀, -⟩ := s.rowEnded_reads loc d
  refine ⟨fun hidle hreclaim => ⟨fun i hq => ?_, fun hq => ?_, fun hq => ?_, fun h g ceiling floor hq hrecord hactive => ?_⟩,
    ?_, ?_, ?_, ?_, ?_⟩
  · subst hq
    rw [hended]
    exact exec_of_no_jobs hp hreclaim rfl fun j => (hjobs₀ j).trans (hidle.1 j)
  · subst hq
    rw [hended]
    exact exec_of_no_jobs hp hreclaim rfl fun j => (hjobs₀ j).trans (hidle.1 j)
  · rw [hended]
    refine exec_of_no_jobs hp hreclaim ?_ fun j => (hjobs₀ j).trans (hidle.1 j)
    rcases hq with rfl | ⟨k, rfl⟩ | rfl <;> rfl
  · subst hq
    intro e applied
    have happlied : applied = (s.rowEnded loc d).onEntry h fun e => e.counted g ceiling floor := by
      rw [← hended]
      rfl
    have hentry : applied.entry h = e := State.entry_onEntry_self ended h fun _ => e
    have hjobs : ∀ j, applied.job j = none := fun j => by
      rw [happlied]
      exact (hjobs₀ j).trans (hidle.1 j)
    obtain ⟨hkeeps, hraises⟩ := completeCounter_of_no_jobs (fun j => (hjobs₀ j).trans (hidle.1 j)) hactive h h g ceiling floor
    rw [← happlied, hentry] at hkeeps hraises
    rw [← hrecord] at hkeeps hraises
    refine ⟨fun hno => exec_of_no_jobs hp hreclaim (hkeeps hno) hjobs, fun c hc hr => ?_⟩
    refine exec_of_no_jobs hp hreclaim (hraises c hc hr) fun j => ?_
    rw [State.job_congr (raiseAsked_engine applied h _ none)]
    exact hjobs j
  · intro h g ceiling floor j x p key c hq hrecord hreclaim honly hkind hstep hhandle hfield hopen hlist hothers hwaiting hcore hc hgen
      hbelow hright hoption hexpiry hlimit
    subst hq
    obtain ⟨hcurrent, hexec⟩ := exec_counter_releases hp hrecord hreclaim honly hstep hhandle hc hgen hbelow
    obtain ⟨hx, hnone⟩ := honly
    have hv : (s.signReleased loc d h g ceiling floor j x).SignReleased j { x with step := .slotQueue } x.slotNo h g :=
      ⟨fun i => by
        refine (State.job_setJob _ j i _).trans (ite_congr (propext eq_comm) (fun _ => rfl) fun hi => ?_)
        exact (hjobs₀ i).trans (hnone i hi), hkind, rfl, hhandle, rfl, hfield, hwaiting, hlist, hothers, p, key, hopen⟩
    obtain ⟨hsettle, hjob, hruns, hport, hentry⟩ := hv.issues hopen hcore hcurrent hgen hright hoption hexpiry hlimit hbelow
    rw [hsettle] at hexec
    refine ⟨_, _, hexec, hjob, rfl, rfl, rfl, hruns, hport.trans hport₀, ?_, ?_⟩
    · rw [hentry]
      exact congrArg HandleEntry.counterFlight
        (State.entry_onEntry_self (s.rowEnded loc d) h fun e => e.counted g ceiling floor)
    · rw [hentry]
      rfl
  · intro b tail w hjobs hq hreclaim
    subst hq
    rw [hended]
    exact exec_reclaimMark hp hjobs hreclaim
  · intro tail w hidle hreclaim hretry hfault hfold goesOn
    refine ⟨fun hq => ?_, fun h g hq hlocated => ?_, fun h g highest role hq hrecord hgens => ?_⟩
    · obtain ⟨w', hgoes, hexec⟩ := exec_copyRow_of_onEntry (u := s.rowEnded loc d) hp hidle.1 hreclaim hretry hfault
        (by rcases hq with rfl | ⟨k, rfl⟩ <;> rfl) (by rcases hq with rfl | ⟨k, rfl⟩ <;> rfl) rfl hfold
      rw [hended]
      exact ⟨w', hgoes, hexec⟩
    · subst hq
      obtain ⟨u, hu⟩ : ∃ u, (s.rowEnded loc d).onEntry h (fun e => e.moveLocation g loc) = u := ⟨_, rfl⟩
      have hframe : u = { s.rowEnded loc d with directory := u.directory } := by
        rw [← hu]
        rfl
      have hself : u.entry h = (s.entry h).moveLocation g loc := by
        rw [← hu]
        exact State.entry_onEntry_self (s.rowEnded loc d) h fun e => e.moveLocation g loc
      have hother : ∀ h', h' ≠ h → u.entry h' = s.entry h' := fun h' hne => by
        rw [← hu]
        exact (State.entry_onEntry (s.rowEnded loc d) h h' _).trans (if_neg hne.symm)
      have hmoved : (u.entry h).locationOf g = some loc := by
        obtain ⟨l, hl⟩ := Option.isSome_iff_exists.mp hlocated
        rw [hself, locationOf_moveLocation, if_pos rfl, hl]
        rfl
      have hkept : ∀ g', g' ≠ g → (u.entry h).locationOf g' = (s.entry h).locationOf g' := fun g' hne => by
        rw [hself, locationOf_moveLocation, if_neg hne]
      obtain ⟨w', hgoes, hexec⟩ := exec_copyRow_of_onEntry hp hidle.1 hreclaim hretry hfault rfl hu hframe fun g' rest e => by
        by_cases hh : w.foldHandle = h
        · by_cases hg : g' = g
          · rw [hh, hg, hmoved]
            rfl
          · rw [hh, hkept g' hg, ← hh]
            exact hfold g' rest e
        · rw [hother _ hh]
          exact hfold g' rest e
      rw [hended]
      exact ⟨u, hframe, hother, hmoved, hkept, by rw [hself]; rfl, w', hgoes, hexec⟩
    · obtain ⟨t, hexec, hport, hentry, hothers, hslots⟩ := exec_foldRevoke hp hidle.1 hreclaim hretry hfault hq hrecord hgens
      refine ⟨t, hexec, hport, hentry.trans ?_, hothers, hslots⟩
      cases role <;> rfl
  · intro j x honly hreclaim hq
    subst hq
    exact exec_lock hp honly hreclaim
  · intro owner h g ceiling y hq hreclaim howner hrecord hy hg
    subst hq
    have halone : s.OwnerAlone owner ∧ ∀ j x, owner = some (j, x) → x.step ≠ .counterWait := by
      cases owner with
      | none => exact ⟨⟨fun _ _ e => (by cases e), fun _ => howner.1⟩, fun _ _ e => by cases e⟩
      | some o =>
        obtain ⟨honly, -, -, hstep⟩ := howner
        refine ⟨⟨fun j x e => ?_, fun e => by cases e⟩, fun j x e => ?_⟩
        · cases e
          exact honly
        · cases e
          rw [hstep]
          exact fun e => by cases e
    obtain ⟨halone, hsteps⟩ := halone
    by_cases htimely : d.stamp < y.deadline
    · obtain ⟨t, hexec, hfree, ht, hport, horphan⟩ := exec_confirmByUse_timely hp hreclaim halone hrecord hy hg hsteps htimely
      have hentry := applyConfirm_of_timely hy hg htimely s.time.tt 0 ceiling
      rw [hentry] at ht horphan
      refine ⟨t, hexec, hfree, fun _ => ?_, fun hle => absurd htimely (Nat.not_lt.mpr hle), fun j x ho => ?_, horphan⟩
      · rw [ht]
        refine ⟨rfl, ?_, rfl⟩
        cases (s.entry h).current with
        | none => rfl
        | some c => exact superseded_zero c d.stamp
      · rw [hport j x ho, if_pos htimely]
        rfl
    · obtain ⟨t, hexec, hfree, ht, hport, horphan⟩ := exec_confirmByUse_late hp hreclaim halone hrecord hy (Nat.not_lt.mp htimely)
      refine ⟨t, hexec, hfree, fun hlt => absurd hlt htimely, fun _ => ?_, fun j x ho => ?_, horphan⟩
      · rw [ht]
        exact ⟨rfl, rfl⟩
      · rw [hport j x ho, if_neg htimely]
        rfl

end Sys2Proof.Machine

/-!
PROOFS about the replay window: which counters it accepts, and what it remembers (R81, R82).
-/

namespace Sys2Proof.Machine

open Sys2Proof

/-! ## The replay window -/

/-- The window has judged the counter, or counts it as judged: rx_high itself, or in the seen-map (R81). -/
def RxWindow.Used (w : RxWindow) (k : Nat) : Prop := w.high = some k ∨ w.hasSeen k = true

theorem RxWindow.not_used_of_fresh {w : RxWindow} (hw : w.high = none) (k : Nat) : ¬w.Used k := by
  simp [RxWindow.Used, RxWindow.hasSeen, hw]

/-- Below rx_high by `i + 1`, bit `i` of the map stands for the counter (R81). -/
theorem RxWindow.used_iff {w : RxWindow} {h : Nat} (hw : w.high = some h) (k : Nat) :
    w.Used k ↔ k = h ∨ (k < h ∧ h ≤ k + 32 ∧ w.seen.getLsbD (h - 1 - k) = true) := by
  have hdepth : k < h → (h - 1 - k < 32 ↔ h ≤ k + 32) := fun _ => by omega
  have hseen : w.hasSeen k = true ↔ k < h ∧ h ≤ k + 32 ∧ w.seen.getLsbD (h - 1 - k) = true := by
    simp only [RxWindow.hasSeen, hw, Bool.and_eq_true, decide_eq_true_eq, and_assoc]
    exact and_congr_right fun hk => and_congr_left fun _ => hdepth hk
  rw [RxWindow.Used, hseen, hw, Option.some.injEq, eq_comm]

/-- The window in which counter `m`, above rx_high `h`, has become rx_high (R81). -/
def RxWindow.raised (w : RxWindow) (h m : Nat) : RxWindow :=
  ⟨some m, if m - h ≤ 32 then (w.seen <<< (m - h)) ||| (1 <<< (m - h - 1)) else 0⟩

/-- The map of a raised window: the old rx_high, and what the old map holds, as far below as before. -/
theorem RxWindow.getLsbD_raised (w : RxWindow) {h m i : Nat} (hm : h < m) (hi : i < 32) :
    (w.raised h m).seen.getLsbD i = true ↔ i + 1 = m - h ∨ (m - h ≤ i ∧ w.seen.getLsbD (i - (m - h)) = true) := by
  unfold RxWindow.raised
  dsimp only
  split
  next hnear =>
    have hbit := getLsbD_or_single (w.seen <<< (m - h)) ⟨m - h - 1, by omega⟩ ⟨i, hi⟩
    dsimp only at hbit
    rw [hbit, Bool.or_eq_true, decide_eq_true_eq, Fin.mk.injEq, BitVec.getLsbD_shiftLeft]
    refine or_congr (by omega) ?_
    simp [hi]
  next hfar =>
    simp only [BitVec.ofNat_eq_ofNat, BitVec.getLsbD_zero, Bool.false_eq_true, false_iff]
    omega

theorem RxWindow.judge_above {w : RxWindow} {h m : Nat} (hw : w.high = some h) (hm : h < m) :
    w.judge m = .accepted (w.raised h m) := by
  unfold RxWindow.judge RxWindow.raised
  simp only [hw, if_pos hm]
  split <;> rfl

/-- At rx_high or below it, the counter is judged by its distance and by its bit (R81). -/
theorem RxWindow.judge_below {w : RxWindow} {h m : Nat} (hw : w.high = some h) (hm : m ≤ h) : w.judge m =
    if m + 32 < h then .tooOld
    else if m = h ∨ w.seen.getLsbD (h - 1 - m) = true then .replay
    else .accepted ⟨some h, w.seen ||| (1 <<< (h - 1 - m))⟩ := by
  have hfar : m + 32 < h ↔ 32 < h - m := by omega
  unfold RxWindow.judge
  simp only [hw, if_neg (Nat.not_lt.mpr hm), hfar]
  by_cases he : m = h
  · simp [he]
  · simp [he]

/-- What is seen in a raised window: what was seen and stays within 32, the old rx_high among it, and the counter itself (R81). -/
theorem RxWindow.used_raised {w : RxWindow} {h m : Nat} (hw : w.high = some h) (hm : h < m) (k : Nat) :
    (w.raised h m).Used k ↔ (w.Used k ∨ k = m) ∧ m ≤ k + 32 := by
  rw [RxWindow.used_iff (w := w.raised h m) rfl, RxWindow.used_iff hw]
  by_cases hk : k < m ∧ m ≤ k + 32
  · obtain ⟨hbelow, hnear⟩ := hk
    rw [w.getLsbD_raised hm (show m - 1 - k < 32 by omega), show m - 1 - k - (m - h) = h - 1 - k by omega]
    have hdepth : m - 1 - k + 1 = m - h ↔ k = h := by omega
    have hshift : m - h ≤ m - 1 - k ↔ k < h := by omega
    have hnear' : k < h → h ≤ k + 32 := by omega
    rw [hdepth, hshift]
    have hne : k ≠ m := by omega
    tauto
  · omega

/-- What is seen once a counter below rx_high is accepted: what was seen, and the counter itself (R81). -/
theorem RxWindow.used_below {w : RxWindow} {h m : Nat} (hw : w.high = some h) (hm : m < h) (hnear : h ≤ m + 32) (k : Nat) :
    (⟨some h, w.seen ||| (1 <<< (h - 1 - m))⟩ : RxWindow).Used k ↔ (w.Used k ∨ k = m) ∧ h ≤ k + 32 := by
  rw [RxWindow.used_iff (h := h) rfl, RxWindow.used_iff hw]
  by_cases hk : k < h ∧ h ≤ k + 32
  · obtain ⟨hbelow, hwithin⟩ := hk
    have hbit := getLsbD_or_single w.seen ⟨h - 1 - m, by omega⟩ ⟨h - 1 - k, by omega⟩
    dsimp only at hbit
    rw [hbit, Bool.or_eq_true, decide_eq_true_eq, Fin.mk.injEq, show h - 1 - k = h - 1 - m ↔ k = m by omega]
    tauto
  · omega

theorem RxWindow.judge_fresh {w : RxWindow} (hw : w.high = none) (m : Nat) : w.judge m = .accepted ⟨some m, 0⟩ := by
  rw [RxWindow.judge, hw]

theorem RxWindow.judge_eq_replay_iff (w : RxWindow) (m : Nat) : w.judge m = .replay ↔ w.Used m := by
  cases hw : w.high with
  | none => simp [RxWindow.judge_fresh hw, RxWindow.not_used_of_fresh hw]
  | some h =>
    rw [RxWindow.used_iff hw]
    by_cases hm : h < m
    · rw [RxWindow.judge_above hw hm]
      exact ⟨nofun, fun _ => by omega⟩
    · rw [RxWindow.judge_below hw (Nat.not_lt.mp hm)]
      by_cases hfar : m + 32 < h
      · rw [if_pos hfar]
        exact ⟨nofun, fun _ => by omega⟩
      · have hbelow : m ≠ h → m < h ∧ h ≤ m + 32 := by omega
        rw [if_neg hfar, ite_eq_left_iff]
        simp only [reduceCtorEq, imp_false, not_not]
        tauto

theorem RxWindow.judge_eq_tooOld_iff (w : RxWindow) (m : Nat) :
    w.judge m = .tooOld ↔ ∃ h, w.high = some h ∧ m + 32 < h := by
  cases hw : w.high with
  | none => simp [RxWindow.judge_fresh hw]
  | some h =>
    simp only [Option.some.injEq, exists_eq_left']
    by_cases hm : h < m
    · rw [RxWindow.judge_above hw hm]
      exact ⟨nofun, fun _ => by omega⟩
    · rw [RxWindow.judge_below hw (Nat.not_lt.mp hm), ite_eq_left_iff]
      refine ⟨fun h' => by_contra fun hfar => ?_, fun hfar hno => absurd hfar hno⟩
      have hjudged := h' hfar
      split at hjudged <;> cases hjudged

/-- The three ways in which a counter is accepted: as the first, above rx_high, or below it (R81). -/
theorem RxWindow.judge_accepted {w v : RxWindow} {m : Nat} (hv : w.judge m = .accepted v) :
    (w.high = none ∧ v = ⟨some m, 0⟩) ∨ (∃ h, w.high = some h ∧ h < m ∧ v = w.raised h m) ∨
      ∃ h, w.high = some h ∧ m < h ∧ h ≤ m + 32 ∧ v = ⟨some h, w.seen ||| (1 <<< (h - 1 - m))⟩ := by
  cases hw : w.high with
  | none =>
    rw [RxWindow.judge_fresh hw] at hv
    cases hv
    exact .inl ⟨rfl, rfl⟩
  | some h =>
    by_cases hm : h < m
    · rw [RxWindow.judge_above hw hm] at hv
      cases hv
      exact .inr (.inl ⟨h, rfl, hm, rfl⟩)
    · rw [RxWindow.judge_below hw (Nat.not_lt.mp hm)] at hv
      split at hv
      next => cases hv
      next hfar =>
        split at hv
        next => cases hv
        next hseen =>
          cases hv
          have hne : m ≠ h := fun e => hseen (.inl e)
          exact .inr (.inr ⟨h, rfl, by omega, by omega, rfl⟩)

/-- rx_high after an accepted counter is the larger of the two (R81). -/
theorem RxWindow.high_of_accepted {w v : RxWindow} {m : Nat} (hv : w.judge m = .accepted v) :
    ∃ h, v.high = some h ∧ m ≤ h ∧ (∀ h', w.high = some h' → h = max h' m) ∧ (w.high = none → h = m) := by
  rcases RxWindow.judge_accepted hv with ⟨hw, rfl⟩ | ⟨h, hw, hm, rfl⟩ | ⟨h, hw, hm, -, rfl⟩ <;> rw [hw]
  · exact ⟨m, rfl, Nat.le_refl m, nofun, fun _ => rfl⟩
  · exact ⟨m, rfl, Nat.le_refl m, fun h' e => (by cases e; omega), nofun⟩
  · exact ⟨h, rfl, Nat.le_of_lt hm, fun h' e => (by cases e; omega), nofun⟩

/-- What is seen after an accepted counter: what was seen, and the counter itself, within 32 of the new rx_high (R81). -/
theorem RxWindow.used_of_accepted {w v : RxWindow} {m : Nat} (hv : w.judge m = .accepted v) (k : Nat) :
    v.Used k ↔ (w.Used k ∨ k = m) ∧ ∀ h, v.high = some h → h ≤ k + 32 := by
  have hwithin : ∀ a, (∀ h, some a = some h → h ≤ k + 32) ↔ a ≤ k + 32 := fun a => by simp
  rcases RxWindow.judge_accepted hv with ⟨hw, rfl⟩ | ⟨h, hw, hm, rfl⟩ | ⟨h, hw, hm, hnear, rfl⟩
  · rw [RxWindow.used_iff (h := m) rfl, hwithin, or_iff_right (RxWindow.not_used_of_fresh hw k)]
    simp only [BitVec.ofNat_eq_ofNat, BitVec.getLsbD_zero, Bool.false_eq_true, and_false, or_false]
    omega
  · exact (RxWindow.used_raised hw hm k).trans (and_congr_right fun _ => (hwithin m).symm)
  · exact (RxWindow.used_below hw hm hnear k).trans (and_congr_right fun _ => (hwithin h).symm)

/-- Settles O34: the verdicts one by one, and the window after an accepted counter. -/
theorem windowAcceptsEachCounterOnce : Obligations.WindowAcceptsEachCounterOnce := by
  unfold Obligations.WindowAcceptsEachCounterOnce
  exact fun w m => ⟨w.judge_eq_replay_iff m, w.judge_eq_tooOld_iff m, fun v hv =>
    ⟨RxWindow.high_of_accepted hv, RxWindow.used_of_accepted hv⟩⟩

end Sys2Proof.Machine

/-!
PROOFS of the end of a SIGN's operation (R47, R69, R72, R76).
-/

namespace Sys2Proof.Machine

open Sys2Proof

/-! ## The only job in hand -/

theorem State.OnlyJob.setJob {s : State} {j : JobId} {x : Job} (h : s.OnlyJob j x) (y : Job) :
    (s.setJob j (some y)).OnlyJob j y :=
  ⟨State.job_setJob_self s j _, fun i hi => by rw [State.job_setJob, if_neg (Ne.symm hi), h.2 i hi]⟩

theorem State.OnlyJob.noJobs_finishUse {s : State} {j : JobId} {x : Job} (h : s.OnlyJob j x) (st : Status) (values : List Nat)
    (i : JobId) : (s.finishUse j st values).job i = none := by
  rw [job_finishUse h.1]
  split
  next => rfl
  next hi => exact h.2 i hi

/-! ## SIGN -/

theorem roleCode_eq (r : Option Role) : roleCode r = (r.map Role.code).getD 0 := by cases r <;> rfl

/-- A SIGN once its operation has ended: under ENCIPHER its output is the payload as sent (R72, R76). -/
def Job.signed (x : Job) (key : List Byte) (role : Nat) : Job :=
  { x with output := if x.option then signedPayload key role x else [] }

/-- The job of a SIGN's operation completes OK with its counter and tag (R76). -/
theorem exec_sign_completes {s : State} {j : JobId} {x : Job} {key : List Byte} (hcore : s.CoreEnds (.sign j key))
    (hx : s.job j = some x) : exec .signOperationEnd s = .next ((s.coreEnded.setJob j
      (some (x.signed key (roleCode (s.entry x.handle).role)))).finishUse j .ok
        [x.counter, (signTag key (roleCode (s.entry x.handle).role) x).toNat]).settle := by
  have hx' : s.coreEnded.job j = some x := hx
  rw [exec, execSignOperationEnd, hcore.1]
  simp only [Bool.false_eq_true, if_false]
  rw [coreIdle_of_coreEnds hcore, State.signDone, hx']
  simp only
  rw [onJob_eq_setJob hx']
  rfl

/-- The end of a use that had passed the match leaves its slot's state, but wipes an OPEN one for AUTO_CLOSE (R46, R47). -/
theorem Slot.afterUse_eq (u : Slot) (close : Bool) (now : Nat) : u.afterUse close now =
    { u with idle := 0, state := match u.state with
      | .opened a b c d => if close then .closing now else .opened a b c d
      | other => other } := by
  obtain ⟨state, idle, list⟩ := u
  cases close <;> cases state <;> rfl

/-- A SIGN that ends OK touches its handle, and leaves every entry otherwise (R64, R69). -/
theorem entry_finishUse_of_sign {s : State} {j : JobId} {x : Job} (hx : s.job j = some x) (hk : x.kind = .sign)
    (values : List Nat) (h : HandleNo) :
    (s.finishUse j .ok values).entry h = if h = x.handle then { s.entry h with touched := true } else s.entry h := by
  rw [finishUse_eq hx, entry_useEnds, State.entry_congr (directory_finishJob hx .ok values (by rw [hk]; decide))]
  simp only [true_and, eq_comm]

/-- Settles O32: the operation's result, and the end of the use that was the only job in hand. -/
theorem signOperationCompletesTheJob : Obligations.SignOperationCompletesTheJob := by
  unfold Obligations.SignOperationCompletesTheJob
  intro s j x key hcore hjob hkind hmatched role sent tag
  have hexec := exec_sign_completes hcore hjob.1
  rw [show roleCode (s.entry x.handle).role = role from roleCode_eq _] at hexec
  have honly := State.OnlyJob.setJob (s := s.coreEnded) hjob (x.signed key role)
  have hends : ((s.coreEnded.setJob j (some (x.signed key role))).finishUse j .ok [x.counter, tag.toNat]).slot x.slotNo = _ :=
    (slot_finishUse honly.1 .ok [x.counter, tag.toNat] x.slotNo).trans
      ((if_pos ⟨hmatched, rfl⟩).trans (Slot.afterUse_eq _ _ _))
  have hjobs := honly.noJobs_finishUse .ok [x.counter, tag.toNat]
  refine ⟨_, hexec.trans (congrArg Host.Outcome.next (settle_of_no_jobs hjobs)), ?_, hjobs, ?_, finishUse_port honly.1 .ok _,
    entry_finishUse_of_sign honly.1 hkind _, congrArg Slot.idle hends, congrArg Slot.state hends⟩
  · exact congrArg Cipher.running (finishUse_cipher honly.1 .ok _)
  · exact sameElsewhere_trans (sameElsewhere_trans (coreEnded_sameElsewhere s) (sameElsewhere_setJob _ _ _))
      (finishUse_sameElsewhere honly.1 .ok _)

end Sys2Proof.Machine

/-!
PROOFS about an accepted CHECK: its confirm by use, the end of its decipher, and the write behind it (R64, R65, R72, R83, R85 to R87).
-/

namespace Sys2Proof.Machine

open Sys2Proof

/-! ## The moves of the only job in hand -/

/-- The only job in hand, at a step that does not go on alone, waits for an event from outside. -/
theorem State.OnlyJob.still {s : State} {j : JobId} {x : Job} (h : s.OnlyJob j x) (hstep : x.step.goesOnAlone = false)
    (hwaiting : s.engine.laneWaiting = []) : s.Still := by
  refine still_of_waiting (fun i y hy => ?_) hwaiting
  by_cases hi : i = j
  · rw [hi, h.1] at hy
    cases hy
    exact hstep
  · rw [h.2 i hi] at hy
    cases hy

/-- The front of the write list at which the only job in hand waits is the move that the part makes (R65). -/
theorem State.OnlyJob.internalStep {s t : State} {j : JobId} {x : Job} (h : s.OnlyJob j x) (hfront : s.writeFront j = some t) :
    s.internalStep = some t := by
  obtain ⟨before, behind, hall⟩ := List.append_of_mem (mem_allJobs j)
  have hnodup : (before ++ j :: behind).Nodup := hall ▸ by decide
  have hfirst : allJobs.findSome? s.writeFront = some t :=
    List.findSome?_eq_some_iff.mpr ⟨before, j, behind, hall, hfront, fun i hi => writeFront_eq_none fun y hy => by
      have hne : i ≠ j := fun e => List.disjoint_of_nodup_append hnodup hi (by rw [e]; exact List.mem_cons_self)
      rw [h.2 i hne] at hy
      cases hy⟩
  rw [State.internalStep, hfirst]
  rfl

/-- A job whose entry is not at the front of the write list waits on (R65). -/
theorem State.OnlyJob.settle_behind {s : State} {j : JobId} {x : Job} (h : s.OnlyJob j x) (hstep : x.step = .confirmWait)
    (hbehind : s.atWriteFront j x = false) (hwaiting : s.engine.laneWaiting = []) : s.settle = s := by
  have hsteps : ∀ i y, s.job i = some y → i = j ∧ y = x := fun i y hy => by
    by_cases hi : i = j
    · rw [hi, h.1] at hy
      exact ⟨hi, (Option.some.inj hy).symm⟩
    · rw [h.2 i hi] at hy
      cases hy
  refine settle_of_still ⟨fun i y hy _ w hw howner => ?_, .inl hwaiting, fun i y _ hy _ => ?_, fun _ i y _ hy hs => ?_⟩
  · obtain ⟨rfl, rfl⟩ := hsteps i y hy
    simp [State.atWriteFront, hw, howner] at hbehind
  · obtain ⟨-, rfl⟩ := hsteps i y hy
    simp [hstep]
  · obtain ⟨-, rfl⟩ := hsteps i y hy
    rw [hstep] at hs
    cases hs

/-- A use that ends OK has touched its handle (R69). -/
theorem touched_finishUse {s : State} {j : JobId} {x : Job} (hx : s.job j = some x) (values : List Nat) :
    ((s.finishUse j .ok values).entry x.handle).touched = true := by
  rw [finishUse_eq hx, entry_useEnds, if_pos ⟨rfl, rfl⟩]

/-- A job at another step of its course. -/
def Job.toStep (x : Job) (u : JobStep) : Job := { x with step := u }

theorem setStep_eq {s : State} {j : JobId} {x : Job} (hx : s.job j = some x) (u : JobStep) :
    s.setStep j u = s.setJob j (some (x.toStep u)) := onJob_eq_setJob hx _

theorem writeHandle_of_check {x : Job} (hk : x.kind = .check) : x.writeHandle = x.handle := by
  rw [Job.writeHandle, hk]
  exact if_neg nofun

/-! ## The confirm by use -/

/-- An accepted CHECK asks for a confirm by use (R85). -/
def State.AsksConfirm (s : State) (y : Job) : Prop :=
  y.notes &&& noteStagedUsed ≠ 0 ∧ (s.slot y.slotNo).state.policy.confirmOnUse = true

/-- The write by which a CHECK confirms its generation (R64, R85). -/
def Job.confirmWrite (y : Job) (j : JobId) : WriteEntry := ⟨some j, .confirmByUse, y.gen⟩

/-- The state in which CHECK `y` has joined the write list of its handle (R85). -/
def State.confirmJoined (s : State) (j : JobId) (y : Job) : State :=
  (s.setJob j (some (y.toStep .confirmWait))).joinWriteList y.handle (y.confirmWrite j)

theorem checkAccepted_of_asks {s : State} {j : JobId} {y : Job} (hy : s.job j = some y) (hask : s.AsksConfirm y) :
    s.checkAccepted j = s.confirmJoined j y := by
  rw [State.checkAccepted, hy]
  simp only
  refine (if_pos hask).trans ?_
  rw [setStep_eq hy]
  rfl

theorem checkAccepted_of_not_asks {s : State} {j : JobId} {y : Job} (hy : s.job j = some y) (hask : ¬s.AsksConfirm y) :
    s.checkAccepted j = s.finishUse j .ok [y.gen] := by
  rw [State.checkAccepted, hy]
  exact if_neg hask

theorem entry_confirmJoined (s : State) (j : JobId) (y : Job) : (s.confirmJoined j y).entry y.handle =
    { s.entry y.handle with writeList := (s.entry y.handle).writeList ++ [y.confirmWrite j] } :=
  State.entry_onEntry_self (s.setJob j _) y.handle _

/-- The append that a confirm by use asks for at the front of its write list (R86). -/
def Job.confirmAppend (y : Job) (j : JobId) (g : StagedGen) : QueuedAppend :=
  .owned (.confirmByUse (some j)) (.plain ⟨some g.authority, none⟩ (.confirm y.handle y.gen 0 (firstCeiling g.signLimit)))

/-- The staged generation that CHECK `y` confirms, where it is present yet (R86). -/
def State.confirms (s : State) (y : Job) : Option StagedGen :=
  ((s.entry y.handle).presentStaged s.time.tt).filter fun g => g.gen = y.gen

theorem confirms_eq_some_iff {s : State} {y : Job} {g : StagedGen} : s.confirms y = some g ↔
    (s.entry y.handle).staged = some g ∧ g.gen = y.gen ∧ s.time.tt < g.deadline := by
  simp only [State.confirms, HandleEntry.presentStaged, Option.filter_eq_some_iff, decide_eq_true_eq]
  tauto

/-- At the front, a confirm by use of a generation that is not staged any more completes OK (R86). -/
theorem confirmFront_of_none {s : State} {y : Job} (h : s.confirms y = none) (j : JobId) :
    s.confirmFront j y = s.finishUse j .ok [y.gen] := by
  rw [State.confirmFront, show Option.filter _ _ = none from h]

/-- The store, where it is in FAULT, refuses the mark of a confirm by use, and the CHECK completes STORE_FAULT (R87). -/
theorem confirmFront_of_fault {s : State} {j : JobId} {y : Job} {g : StagedGen} (hy : s.job j = some y)
    (h : s.confirms y = some g) (hfault : s.store.fault = true) : s.confirmFront j y =
      (s.setJob j (some (y.toStep .confirmStore))).wake.finishUse j .storeFault [] := by
  have hfault' : (s.setJob j (some (y.toStep .confirmStore))).wake.store.fault = true := by rw [wake_eq]; exact hfault
  rw [State.confirmFront, show Option.filter _ _ = some g from h]
  simp only
  rw [setStep_eq hy, State.askAppend, if_pos hfault']
  rfl

/-- The mark of a confirm by use joins the queue (R86, R132). -/
theorem confirmFront_of_present {s : State} {j : JobId} {y : Job} {g : StagedGen} (hy : s.job j = some y)
    (h : s.confirms y = some g) (hfault : s.store.fault = false) : s.confirmFront j y =
      (s.setJob j (some (y.toStep .confirmStore))).wake.onStore fun t =>
        { t with queue := t.queue ++ [y.confirmAppend j g] } := by
  have hfault' : (s.setJob j (some (y.toStep .confirmStore))).wake.store.fault ≠ true := by
    rw [wake_eq]
    exact ne_true_of_eq_false hfault
  rw [State.confirmFront, show Option.filter _ _ = some g from h]
  simp only
  rw [setStep_eq hy, State.askAppend, if_neg hfault']
  rfl

/-- What an accepted CHECK `y`, the only job in hand of `u`, leaves once its cipher work is done. -/
structure State.CheckEnds (u t : State) (j : JobId) (y : Job) : Prop where
  goesOn : u.CheckGoesOn t j y
  entry : t.entry y.handle = { u.entry y.handle with
    writeList := (t.entry y.handle).writeList, touched := (t.entry y.handle).touched }
  store : ¬u.AsksConfirm y → t.store = u.store
  running : u.cipher.running = none → t.cipher.running = none

/-- What the completion of the CHECK that has joined its write list leaves. -/
theorem confirmJoined_completes {u v : State} {j : JobId} {y z : Job} (hv : v.OnlyJob j z)
    (hz : ∃ step, z = y.toStep step)
    (hsame : ∃ e p, v = { u with engine := e, directory := (u.confirmJoined j y).directory, supply := p }) (st : Status)
    (values : List Nat) :
    ((v.finishUse j st values).port = u.port.jobDone y st values ∧ (∀ i, (v.finishUse j st values).job i = none) ∧
      (v.finishUse j st values).store.queue = u.store.queue) ∧
    (v.finishUse j st values).entry y.handle = { u.entry y.handle with
      writeList := ((v.finishUse j st values).entry y.handle).writeList
      touched := ((v.finishUse j st values).entry y.handle).touched } ∧
    (u.cipher.running = none → (v.finishUse j st values).cipher.running = none) := by
  obtain ⟨-, -, -, -, hstore, -⟩ := finishUse_sameElsewhere hv.1 st values
  have hentry := entry_finishUse hv.1 st values y.handle
  obtain ⟨step, rfl⟩ := hz
  obtain ⟨e, p, hsame⟩ := hsame
  have hjoined : v.entry y.handle = _ :=
    (State.entry_congr (s := u.confirmJoined j y) (by rw [hsame]) _).trans (entry_confirmJoined u j y)
  rw [hjoined] at hentry
  refine ⟨⟨?_, hv.noJobs_finishUse st values, ?_⟩, hentry, fun hidle => ?_⟩
  · rw [finishUse_port hv.1, hsame]
    rfl
  · rw [hstore, hsame]
  · rw [finishUse_cipher hv.1, hsame, Cipher.dropJob, hidle]
    rfl

/-- The CHECK that has joined its write list is at its front exactly if the list was empty or is led by its own entry (R65). -/
theorem atWriteFront_confirmJoined (u : State) (j : JobId) (y : Job) (hkind : y.kind = .check) :
    (u.confirmJoined j y).atWriteFront j (y.toStep .confirmWait) =
      (((u.entry y.handle).writeList ++ [y.confirmWrite j]).head?).any fun w => w.owner == some j := by
  rw [State.atWriteFront, writeHandle_of_check (x := y.toStep .confirmWait) hkind,
    show (y.toStep .confirmWait).handle = y.handle from rfl, entry_confirmJoined]

/-- Of a CHECK at the front of its write list, `CheckGoesOn` says what the judgement there gives (R86, R87). -/
theorem checkGoesOn_at_front {u t : State} {j : JobId} {y : Job} (hask : u.AsksConfirm y)
    (hfront : (u.confirmJoined j y).atWriteFront j (y.toStep .confirmWait) = true) (hkind : y.kind = .check)
    (hgone : u.confirms y = none → t.port = u.port.jobDone y .ok [y.gen] ∧ (∀ i, t.job i = none) ∧
      t.store.queue = u.store.queue ∧ (t.entry y.handle).touched = true)
    (hpresent : ∀ g, u.confirms y = some g →
      (u.store.fault = true → t.port = u.port.jobDone y .storeFault [] ∧ (∀ i, t.job i = none) ∧
        t.store.queue = u.store.queue) ∧
      (u.store.fault = false → t.job j = some (y.toStep .confirmStore) ∧
        (t.entry y.handle).writeList = (u.entry y.handle).writeList ++ [y.confirmWrite j] ∧ t.port = u.port ∧
        t.store.queue = u.store.queue ++ [y.confirmAppend j g])) : u.CheckGoesOn t j y := by
  refine (if_pos hask).mpr ⟨fun hempty => ⟨fun hall => ?_, fun g hg hgen hdue => ?_⟩, fun w rest hw hne => ?_⟩
  · obtain ⟨hport, hjobs, hqueue, htouched⟩ := hgone (Option.eq_none_iff_forall_ne_some.mpr fun g hg => by
      obtain ⟨hstaged, hgen, hdue⟩ := confirms_eq_some_iff.mp hg
      exact absurd hdue (Nat.not_lt.mpr (hall g hstaged hgen)))
    exact ⟨⟨hport, hjobs, hqueue⟩, htouched⟩
  · have hjudged := hpresent g (confirms_eq_some_iff.mpr ⟨hg, hgen, hdue⟩)
    rw [hempty] at hjudged
    exact hjudged
  · rw [atWriteFront_confirmJoined u j y hkind, hw] at hfront
    exact absurd (by simpa using hfront) hne

theorem confirms_confirmJoined {u : State} {j : JobId} {y : Job} :
    (u.confirmJoined j y).confirms (y.toStep .confirmWait) = u.confirms y := by
  rw [State.confirms, show (y.toStep .confirmWait).handle = y.handle from rfl, entry_confirmJoined]
  rfl

section Accepted

variable {u : State} {j : JobId} {y : Job} (honly : u.OnlyJob j y)
include honly

/-- Without a confirm by use to ask for, the job completes OK (R83). -/
theorem checkEnds_of_not_asks (hask : ¬u.AsksConfirm y) : u.CheckEnds (u.checkAccepted j).settle j y := by
  have hjobs := honly.noJobs_finishUse .ok [y.gen]
  obtain ⟨-, -, -, -, hstore, -⟩ := finishUse_sameElsewhere honly.1 .ok [y.gen]
  rw [checkAccepted_of_not_asks honly.1 hask, settle_of_no_jobs hjobs]
  refine ⟨?_, entry_finishUse honly.1 .ok _ _, fun _ => hstore, fun hidle => ?_⟩
  · exact (if_neg hask).mpr ⟨finishUse_port honly.1 .ok _, hjobs, touched_finishUse honly.1 _⟩
  · rw [finishUse_cipher honly.1, Cipher.dropJob, hidle]
    rfl

theorem onlyJob_confirmJoined : (u.confirmJoined j y).OnlyJob j (y.toStep .confirmWait) := honly.setJob _

/-- At the front of its write list, the CHECK is judged at once (R65, R86). -/
theorem settle_confirmJoined_of_front (hfront : (u.confirmJoined j y).atWriteFront j (y.toStep .confirmWait) = true)
    (hafter : ((u.confirmJoined j y).confirmFront j (y.toStep .confirmWait)).internalStep = none) :
    (u.confirmJoined j y).settle = (u.confirmJoined j y).confirmFront j (y.toStep .confirmWait) := by
  have hjoined := onlyJob_confirmJoined honly
  refine settle_of_one (hjoined.internalStep ?_) hafter
  rw [State.writeFront, hjoined.1]
  exact if_pos hfront

section Front

variable (hask : u.AsksConfirm y) (hfront : (u.confirmJoined j y).atWriteFront j (y.toStep .confirmWait) = true)
include hask hfront

/-- A CHECK whose generation is not the present staged one completes OK at the front (R86). -/
theorem checkEnds_of_gone (hkind : y.kind = .check) (hc : u.confirms y = none) :
    u.CheckEnds (u.checkAccepted j).settle j y := by
  have hjoined := onlyJob_confirmJoined honly
  have hdone : (u.confirmJoined j y).confirmFront j (y.toStep .confirmWait) = (u.confirmJoined j y).finishUse j .ok [y.gen] :=
    confirmFront_of_none (confirms_confirmJoined.trans hc) j
  have hsettle := settle_confirmJoined_of_front honly hfront
  rw [hdone] at hsettle
  obtain ⟨⟨hport, hjobs, hqueue⟩, hentry, hrunning⟩ :=
    confirmJoined_completes (u := u) (y := y) hjoined ⟨_, rfl⟩ ⟨_, _, rfl⟩ .ok [y.gen]
  rw [checkAccepted_of_asks honly.1 hask, hsettle (internalStep_of_no_jobs hjobs)]
  have htouched := touched_finishUse hjoined.1 [y.gen]
  refine ⟨checkGoesOn_at_front hask hfront hkind (fun _ => ⟨hport, hjobs, hqueue, htouched⟩) fun g hg => ?_, hentry,
    fun hno => absurd hask hno, hrunning⟩
  cases hc.symm.trans hg

/-- In FAULT the mark is refused at the front (R87). -/
theorem checkEnds_of_fault (hkind : y.kind = .check) {g : StagedGen} (hc : u.confirms y = some g)
    (hfault : u.store.fault = true) : u.CheckEnds (u.checkAccepted j).settle j y := by
  have hjoined := onlyJob_confirmJoined honly
  have hasked : ((u.confirmJoined j y).setJob j (some (y.toStep .confirmStore))).wake.OnlyJob j (y.toStep .confirmStore) := by
    rw [wake_eq]
    exact hjoined.setJob (y.toStep .confirmStore)
  have hdone := confirmFront_of_fault hjoined.1 (confirms_confirmJoined.trans hc) hfault
  have hsettle := settle_confirmJoined_of_front honly hfront
  rw [hdone] at hsettle
  obtain ⟨hcompletes, hentry, hrunning⟩ :=
    confirmJoined_completes (u := u) (y := y) hasked ⟨_, rfl⟩ ⟨_, _, wake_eq _⟩ .storeFault []
  rw [checkAccepted_of_asks honly.1 hask, hsettle (internalStep_of_no_jobs (hasked.noJobs_finishUse _ _))]
  refine ⟨checkGoesOn_at_front hask hfront hkind (fun hno => ?_) fun _ _ => ⟨fun _ => hcompletes, fun hno => ?_⟩, hentry,
    fun hno => absurd hask hno, hrunning⟩
  · cases hc.symm.trans hno
  · cases hfault.symm.trans hno

/-- The mark is asked for at the front (R86). -/
theorem checkEnds_of_present (hkind : y.kind = .check) (hwaiting : u.engine.laneWaiting = []) {g : StagedGen}
    (hc : u.confirms y = some g) (hfault : u.store.fault = false) : u.CheckEnds (u.checkAccepted j).settle j y := by
  have hjoined := onlyJob_confirmJoined honly
  have hstored := hjoined.setJob (y.toStep .confirmStore)
  have hentry := entry_confirmJoined u j y
  have hframe : (u.confirmJoined j y).entry y.handle = { u.entry y.handle with
      writeList := ((u.confirmJoined j y).entry y.handle).writeList
      touched := ((u.confirmJoined j y).entry y.handle).touched } := by rw [hentry]
  have hdone := confirmFront_of_present hjoined.1 (confirms_confirmJoined.trans hc) hfault
  have hsettle := settle_confirmJoined_of_front honly hfront
  rw [wake_eq] at hdone
  rw [hdone] at hsettle
  rw [checkAccepted_of_asks honly.1 hask, hsettle (internalStep_of_still (hstored.still rfl hwaiting))]
  refine ⟨checkGoesOn_at_front hask hfront hkind (fun hno => ?_) fun g' hg => ⟨fun hno => ?_, fun _ =>
    ⟨hstored.1, congrArg HandleEntry.writeList hentry, rfl, ?_⟩⟩, hframe, fun hno => absurd hask hno, id⟩
  · cases hc.symm.trans hno
  · cases hfault.symm.trans hno
  · cases hc.symm.trans hg
    rfl

end Front

/-- A CHECK that joins a write list behind another write waits for it (R65, R85). -/
theorem checkEnds_behind (hkind : y.kind = .check) (hwaiting : u.engine.laneWaiting = []) (hask : u.AsksConfirm y)
    (hbehind : (u.confirmJoined j y).atWriteFront j (y.toStep .confirmWait) = false) :
    u.CheckEnds (u.checkAccepted j).settle j y := by
  have hjoined := onlyJob_confirmJoined honly
  have hentry := entry_confirmJoined u j y
  rw [checkAccepted_of_asks honly.1 hask, hjoined.settle_behind rfl hbehind hwaiting]
  refine ⟨(if_pos hask).mpr ⟨fun hempty => ?_, fun _ _ _ _ =>
    ⟨hjoined.1, congrArg HandleEntry.writeList hentry, rfl, rfl⟩⟩, by rw [hentry], fun hno => absurd hask hno, id⟩
  rw [atWriteFront_confirmJoined u j y hkind, hempty] at hbehind
  simp [Job.confirmWrite] at hbehind

theorem checkAccepted_ends (hkind : y.kind = .check) (hwaiting : u.engine.laneWaiting = []) :
    u.CheckEnds (u.checkAccepted j).settle j y := by
  by_cases hask : u.AsksConfirm y
  · cases hfront : (u.confirmJoined j y).atWriteFront j (y.toStep .confirmWait) with
    | true =>
      cases hc : u.confirms y with
      | none => exact checkEnds_of_gone honly hask hfront hkind hc
      | some g =>
        cases hfault : u.store.fault with
        | true => exact checkEnds_of_fault honly hask hfront hkind hc hfault
        | false => exact checkEnds_of_present honly hask hfront hkind hwaiting hc hfault
    | false => exact checkEnds_behind honly hkind hwaiting hask hfront
  · exact checkEnds_of_not_asks honly hask

end Accepted

/-! ## The decipher -/

/-- A CHECK once its decipher has ended (R72, R83). -/
def Job.deciphered (x : Job) (key : List Byte) (role : Nat) : Job := { x with output := decipheredPayload key role x }

theorem exec_decipherEnd {s : State} {j : JobId} {x : Job} {key : List Byte} (hcore : s.CoreEnds (.decipher j key))
    (hx : s.job j = some x) : exec .decipherEnd s = .next ((s.coreEnded.setJob j
      (some (x.deciphered key (roleCode (s.entry x.handle).role)))).checkAccepted j).settle := by
  have hx' : s.coreEnded.job j = some x := hx
  rw [exec, execDecipherEnd, hcore.1]
  simp only [Bool.false_eq_true, if_false]
  rw [coreIdle_of_coreEnds hcore, State.deciphered, hx']
  simp only
  rw [onJob_eq_setJob hx']
  rfl

/-- A decipher ends with the payload, and the accepted CHECK goes on (R83, R85). -/
theorem decipher_ends {s : State} {j : JobId} {x : Job} {key : List Byte} (hcore : s.CoreEnds (.decipher j key))
    (hjob : s.OnlyJob j x) (hkind : x.kind = .check) (hwaiting : s.engine.laneWaiting = []) :
    ∃ t, exec .decipherEnd s = .next t ∧ t.cipher.running = none ∧
      s.CheckGoesOn t j (x.deciphered key (roleCode (s.entry x.handle).role)) := by
  have honly := State.OnlyJob.setJob (s := s.coreEnded) hjob (x.deciphered key (roleCode (s.entry x.handle).role))
  obtain ⟨hgoes, -, -, hrunning⟩ := checkAccepted_ends honly hkind hwaiting
  exact ⟨_, exec_decipherEnd hcore hjob.1, hrunning rfl, hgoes⟩


/-! ## The write behind a confirm by use -/

/-- The end of a job that may stand in a write list takes its entries from it (R64). -/
theorem writeList_finishJob {s : State} {j : JobId} {x : Job} (hx : s.job j = some x) (hk : x.kind = .check ∨ x.kind = .package)
    (st : Status) (values : List Nat) : ((s.finishJob j st values).entry x.writeHandle).writeList =
      (s.entry x.writeHandle).writeList.filter fun w => w.owner != some j := by
  rw [finishJob_eq hx, State.freeRecord, if_pos hk, State.entry_onEntry_self]
  rfl

theorem writeList_finishUse {s : State} {j : JobId} {x : Job} (hx : s.job j = some x) (hk : x.kind = .check)
    (st : Status) (values : List Nat) : ((s.finishUse j st values).entry x.handle).writeList =
      (s.entry x.handle).writeList.filter fun w => w.owner != some j := by
  have hfiltered := writeList_finishJob hx (.inl hk) st values
  rw [writeHandle_of_check hk] at hfiltered
  rw [finishUse_eq hx, entry_useEnds, ← hfiltered]
  split <;> rfl

/-- A CHECK whose confirm by use has taken effect (R87). -/
def Job.confirmed (x : Job) : Job := { x with notes := x.notes ||| noteConfirmedByUse }

/-- The mark of CHECK `x`'s confirm by use is durable, and `u` is the state in which the write `w'` of job `y` behind it is to be
judged (R65, R87). -/
structure State.ConfirmedFirst (s u : State) (j' : JobId) (x y : Job) (w' : WriteEntry) : Prop where
  only : u.OnlyJob j' y
  port : u.port = ({ s.port with figures := s.figuresAfter } : Port).jobDone x.confirmed .ok [x.gen]
  staged : (u.entry x.handle).staged = none
  writeList : (u.entry x.handle).writeList = [w']

/-- The CHECK whose confirm by use has become durable in time completes OK, and leaves the write behind it (R65, R87, R103). -/
theorem confirm_completes_first {s : State} {j j' : JobId} {x y : Job} {payload : Payload} {loc : Location} {d : RowData}
    {failures g ceiling : Nat} {w' : WriteEntry} {z : StagedGen} (hjobs : s.OnlyJobs j x j' y)
    (hp : s.store.program = some ⟨.confirmByUse (some j), payload, loc, d, failures⟩) (hreclaim : s.store.reclaim = none)
    (hrecord : d.record = .confirm x.handle g 0 ceiling) (hz : (s.entry x.handle).staged = some z) (hg : z.gen = g)
    (htimely : d.stamp < z.deadline) (hkind : x.kind = .check) (hx : x.step ≠ .counterWait) (hy : y.step ≠ .counterWait)
    (hlist : (s.entry x.handle).writeList = [⟨some j, .confirmByUse, g⟩, w']) (howner : w'.owner = some j') :
    ∃ u, exec .appendCompletion s = .next u.settle ∧ s.ConfirmedFirst u j' x y w' := by
  obtain ⟨hne, hjx, hjy, hothers⟩ := id hjobs
  have htook := confirmable_of_timely hz hg htimely
  obtain ⟨a, ha⟩ : ∃ a, (s.rowEnded loc d).applyPackageRecord loc d.stamp d.record = a := ⟨_, rfl⟩
  have happly := applyPackageRecord_confirm (loc := loc) hrecord (s.rowEnded loc d)
  rw [entry_rowEnded, tt_rowEnded, htook, Option.isSome_some, if_pos rfl, ha] at happly
  have hwaiters : ∀ i v, (s.rowEnded loc d).job i = some v → v.step ≠ .counterWait := fun i v hv => by
    rw [job_rowEnded] at hv
    by_cases hi : i = j
    · cases (hi ▸ hv).symm.trans hjx
      exact hx
    · by_cases hi' : i = j'
      · cases (hi' ▸ hv).symm.trans hjy
        exact hy
      · cases (hothers i hi hi').symm.trans hv
  have hchanges := (State.ChangesEntry.onEntry (s.rowEnded loc d) x.handle fun e =>
    e.applyConfirm s.time.tt d.stamp g 0 ceiling).staleCounters hwaiters
  rw [← happly, entry_rowEnded, applyConfirm_of_timely hz hg htimely] at hchanges
  obtain ⟨hengine, hport, -, -, -, -, hentry, -⟩ := hchanges
  have hjob : ∀ i, a.job i = s.job i := fun i => (State.job_congr hengine i).trans (job_rowEnded s loc d i)
  have hdone : a.completeConfirm j false = (a.setJob j (some x.confirmed)).finishUse j .ok [x.gen] := by
    rw [State.completeConfirm, (hjob j).trans hjx]
    exact congrArg (State.finishUse · j .ok [x.gen]) (onJob_eq_setJob ((hjob j).trans hjx) _)
  have heffect : (s.rowEnded loc d).applyDurable (.confirmByUse (some j)) loc d =
      (a.setJob j (some x.confirmed)).finishUse j .ok [x.gen] := by
    have hlate : (s.rowEnded loc d).lateConfirm d = false := by
      rw [lateConfirm_of_confirm hrecord, entry_rowEnded, htook]
      rfl
    rw [← hdone, ← ha, ← hlate]
    rfl
  have hself := State.job_setJob_self a j (some x.confirmed)
  have hentry' : (a.setJob j (some x.confirmed)).entry x.handle = _ := hentry
  obtain ⟨-, hport₀, -⟩ := s.rowEnded_reads loc d
  have hexec := exec_appendCompletion hp hreclaim
  dsimp only at hexec
  rw [heffect] at hexec
  refine ⟨_, hexec, ⟨?_, fun i hi => ?_⟩, ?_, ?_, ?_⟩
  · rw [job_finishUse hself, if_neg hne.symm, State.job_setJob, if_neg hne, hjob, hjy]
  · rw [job_finishUse hself]
    split
    · rfl
    · rw [State.job_setJob, if_neg (Ne.symm ‹_›), hjob]
      exact hothers i ‹_› hi
  · rw [finishUse_port hself]
    exact congrArg (Port.jobDone · x.confirmed .ok [x.gen]) (hport.trans hport₀)
  · rw [entry_finishUse hself, hentry']
  · have hwrites : (((a.setJob j (some x.confirmed)).finishUse j .ok [x.gen]).entry x.handle).writeList = _ :=
      writeList_finishUse hself hkind .ok [x.gen]
    rw [hwrites, show x.confirmed.handle = x.handle from rfl, hentry']
    simp [hlist, howner, hne.symm]

section Behind

variable {s u : State} {j' : JobId} {x y : Job} {w' : WriteEntry} (hu : s.ConfirmedFirst u j' x y w')
  (howner : w'.owner = some j')
include hu howner

/-- The write behind stands at the front of its list (R65). -/
theorem State.ConfirmedFirst.atWriteFront (hhandle : y.writeHandle = x.handle) : u.atWriteFront j' y = true := by
  rw [State.atWriteFront, hhandle, hu.writeList]
  simp [howner]

/-- A CHECK behind that confirms the same generation completes OK without writing: the generation is not staged any more (R86). -/
theorem State.ConfirmedFirst.check (hkind : y.kind = .check) (hhandle : y.handle = x.handle) (hstep : y.step = .confirmWait) :
    u.settle.port = u.port.jobDone y .ok [y.gen] ∧ (∀ i, u.settle.job i = none) ∧
      (u.settle.entry x.handle).writeList = [] := by
  have hjobs := hu.only.noJobs_finishUse .ok [y.gen]
  have hconfirms : u.confirms y = none := by
    rw [State.confirms, HandleEntry.presentStaged, hhandle, hu.staged]
    rfl
  have hmove : u.writeFront j' = some (u.finishUse j' .ok [y.gen]) := by
    rw [State.writeFront, hu.only.1]
    simp only
    rw [if_pos (hu.atWriteFront howner ((writeHandle_of_check hkind).trans hhandle)), hstep, ← confirmFront_of_none hconfirms]
  have hwrites := writeList_finishUse hu.only.1 hkind .ok [y.gen]
  rw [hhandle, hu.writeList] at hwrites
  rw [settle_of_one (hu.only.internalStep hmove) (internalStep_of_no_jobs hjobs)]
  exact ⟨finishUse_port hu.only.1 .ok _, hjobs, hwrites.trans (by simp [howner])⟩

/-- A CONFIRM package behind is NOT_STAGED (R65, R98). -/
theorem State.ConfirmedFirst.package (hkind : y.kind = .package) (hpkg : pkgKind y.input = .confirm)
    (hhandle : pkgHandle y.input = x.handle) (hstep : y.step = .writeWait) :
    u.settle.port = u.port.jobDone y .notStaged [] ∧ (∀ i, u.settle.job i = none) ∧
      (u.settle.entry x.handle).writeList = [] := by
  have hhandle' : y.writeHandle = x.handle := (if_pos hkind).trans hhandle
  have hjobs : ∀ i, (u.finishJob j' .notStaged []).job i = none := fun i => by
    rw [job_finishJob hu.only.1]
    split
    next => rfl
    next hi => exact hu.only.2 i hi
  have hrefused : stateChecks (u.entry (pkgHandle y.input)) u.time.tt y.input = some .notStaged := by
    rw [stateChecks, hpkg, hhandle, HandleEntry.presentStaged, hu.staged]
    rfl
  have hmove : u.writeFront j' = some (u.finishJob j' .notStaged []) := by
    rw [State.writeFront, hu.only.1]
    simp only
    rw [if_pos (hu.atWriteFront howner hhandle'), hstep]
    simp only [State.packageFront, hrefused]
  have hwrites := writeList_finishJob hu.only.1 (.inr hkind) .notStaged []
  rw [hhandle', hu.writeList] at hwrites
  rw [settle_of_one (hu.only.internalStep hmove) (internalStep_of_no_jobs hjobs)]
  exact ⟨finishJob_port hu.only.1 .notStaged _, hjobs, hwrites.trans (by simp [howner])⟩

end Behind

/-- Settles O35: the write behind a confirm by use by its kind, and the end of a decipher. -/
theorem decipherAndConfirmByUseEnd : Obligations.DecipherAndConfirmByUseEnd := by
  unfold Obligations.DecipherAndConfirmByUseEnd
  refine ⟨?_, fun s j x key hcore hjob hkind _ _ hwaiting => ?_⟩
  · intro s j j' x y payload loc d failures g ceiling w' z hjobs hp hreclaim hrecord hz hg htimely hkind hstep hgen _ _ hlist
      howner first ends
    have hbehind : y.step ≠ .counterWait →
        ∃ u, exec .appendCompletion s = .next u.settle ∧ s.ConfirmedFirst u j' x y w' :=
      fun hy => confirm_completes_first hjobs hp hreclaim hrecord hz hg htimely hkind (by rw [hstep]; nofun) hy hlist howner
    have hfirst : ∀ {u}, s.ConfirmedFirst u j' x y w' → u.port = first := fun hu => by rw [hu.port, hgen]; rfl
    refine ⟨fun hykind hyhandle hystep hygen => ?_, fun hykind hypkg hyhandle hystep _ => ?_⟩
    · obtain ⟨u, hexec, hu⟩ := hbehind (by rw [hystep]; nofun)
      obtain ⟨hport, hnone, hwrites⟩ := hu.check howner hykind hyhandle hystep
      rw [hfirst hu, hygen] at hport
      exact ⟨_, hexec, hport, hnone, hwrites⟩
    · obtain ⟨u, hexec, hu⟩ := hbehind (by rw [hystep]; nofun)
      obtain ⟨hport, hnone, hwrites⟩ := hu.package howner hykind hypkg hyhandle hystep
      rw [hfirst hu] at hport
      exact ⟨_, hexec, hport, hnone, hwrites⟩
  · have hends := decipher_ends hcore hjob hkind hwaiting
    rw [roleCode_eq] at hends
    exact hends

end Sys2Proof.Machine

/-!
PROOFS about the end of a CHECK's comparison: the floor check, and what follows by standing, tag and window (R66, R80 to R84).
-/

namespace Sys2Proof.Machine

open Sys2Proof

/-! ## The floor check -/

/-- The floor check asks for a new rx_high where the floor is none or lies 256 or more behind (R84). -/
theorem wantsFloor_of_high {c : CurrentGen} {high : Nat} (h : c.rx.high = some high) :
    c.wantsFloor = if c.rxFloor.all fun f => decide (f + 256 ≤ high) then some high else none := by
  unfold CurrentGen.wantsFloor
  rw [h]
  cases c.rxFloor <;> simp

/-- The part's waking looks at the supply monitor alone. -/
theorem wake_onEntry (s : State) (h : HandleNo) (f : HandleEntry → HandleEntry) :
    (s.onEntry h f).wake = s.wake.onEntry h f := by
  unfold State.wake
  rw [State.onEntry_supply]
  split <;> rfl

/-- Where nobody waits for a counter, an ask for a raise is what `raiseAsked` says, of a part that it may have woken (R66,
R160). -/
theorem askCounter_wakes {s : State} {h : HandleNo} (hno : s.NoCounterWaiter h) (ceiling floor : Option Nat) :
    ∃ p, s.askCounter h ceiling floor = { s with supply := p }.raiseAsked h ceiling floor := by
  cases hp : (s.entry h).counterPending with
  | some w =>
    refine ⟨s.supply, ?_⟩
    simp only [State.askCounter, State.raiseAsked, hp, mergeWant_eq]
  | none =>
    have hwoken : s.askCounter h ceiling floor = s.wake.askCounter h ceiling floor := by
      have hentry : s.wake.entry h = s.entry h := by rw [wake_eq]; rfl
      have hwake : s.wake.wake = s.wake := wake_of_active (wake_active s)
      simp only [State.askCounter, hentry, hp, State.askAppend, wake_onEntry, hwake]
    have hno' : s.wake.NoCounterWaiter h := by rw [wake_eq]; exact hno
    refine ⟨s.wake.supply, ?_⟩
    rw [hwoken, askCounter_eq (wake_active s) fun _ _ => hno', wake_eq]


/-- What an ask for a raise makes of its handle's pending counter write and of the store depends on these two alone (R66). -/
theorem raiseAsked_congr {s u : State} {h : HandleNo} (hpending : (u.entry h).counterPending = (s.entry h).counterPending)
    (hstore : u.store = s.store) (ceiling floor : Option Nat) :
    ((u.raiseAsked h ceiling floor).entry h).counterPending = ((s.raiseAsked h ceiling floor).entry h).counterPending ∧
      (u.raiseAsked h ceiling floor).store = (s.raiseAsked h ceiling floor).store := by
  unfold State.raiseAsked
  rw [hpending, hstore]
  cases hp : (s.entry h).counterPending with
  | some w => simp [hstore]
  | none =>
    cases s.store.fault with
    | true => simp [hpending, hp, hstore]
    | false => simp [hstore, entry_onStore]

/-- An ask for a raise changes the pending counter write of its handle, and no other part of the entry (R66). -/
theorem entry_raiseAsked (s : State) (h : HandleNo) (ceiling floor : Option Nat) : (s.raiseAsked h ceiling floor).entry h =
    { s.entry h with counterPending := ((s.raiseAsked h ceiling floor).entry h).counterPending } := by
  unfold State.raiseAsked
  split
  · rw [State.entry_onEntry_self]
  · split
    · rfl
    · rw [entry_onStore, State.entry_onEntry_self]

theorem State.OnlyJob.noCounterWaiter {s : State} {j : JobId} {x : Job} (h : s.OnlyJob j x) (hstep : x.step ≠ .counterWait)
    (a : HandleNo) : s.NoCounterWaiter a := fun i y hy hwaits => by
  by_cases hi : i = j
  · rw [hi, h.1] at hy
    cases hy
    exact hstep hwaits.1
  · rw [h.2 i hi] at hy
    cases hy

/-- What the floor check leaves: all but its handle's pending counter write, the store's queue, and the part's sleep (R84). -/
structure State.FloorChecked (u v : State) (h : HandleNo) : Prop where
  frame : v = { u with directory := v.directory, store := v.store, supply := v.supply }
  entry : v.entry h = { u.entry h with counterPending := (v.entry h).counterPending }
  asked : ∀ c high, (u.entry h).current = some c → c.rx.high = some high →
    let asked := if c.rxFloor.all fun f => decide (f + 256 ≤ high) then u.raiseAsked h none (some high) else u
    (v.entry h).counterPending = (asked.entry h).counterPending ∧ v.store = asked.store

theorem floorCheck_leaves {u : State} {h : HandleNo} (hno : u.NoCounterWaiter h) : u.FloorChecked (u.floorCheck h) h := by
  unfold State.floorCheck
  cases hw : (u.entry h).current.bind CurrentGen.wantsFloor with
  | none =>
    refine ⟨rfl, rfl, fun c high hc hhigh => ?_⟩
    rw [hc, Option.bind_some, wantsFloor_of_high hhigh] at hw
    split at hw
    · cases hw
    · rw [if_neg ‹_›]
      exact ⟨rfl, rfl⟩
  | some n =>
    obtain ⟨p, hask⟩ := askCounter_wakes hno none (some n)
    simp only
    rw [hask]
    refine ⟨?_, entry_raiseAsked { u with supply := p } h none (some n), fun c high hc hhigh => ?_⟩
    · rw [raiseAsked_frame]
    · rw [hc, Option.bind_some, wantsFloor_of_high hhigh] at hw
      split at hw
      · cases hw
        rw [if_pos ‹_›]
        exact raiseAsked_congr (s := u) (u := { u with supply := p }) rfl rfl none (some n)
      · cases hw

/-! ## The comparison -/

/-- A CHECK with the note of the standing it was compared under (R80). -/
def Job.compared (x : Job) (st : Standing) : Job := { x with notes := x.notes ||| st.note }

/-- What follows the window's judgement of a frame whose tag matches (R81). -/
def State.byVerdict (s : State) (j : JobId) (x : Job) (st : Standing) : WindowVerdict → State
  | .replay => s.finishUse j .replay []
  | .tooOld => s.finishUse j .tooOld []
  | .accepted w => s.acceptCounter j x st w

/-- What follows the comparison of a frame under a live generation (R80, R81). -/
def State.judged (s : State) (j : JobId) (key : List Byte) (x : Job) (st : Standing) : State :=
  let e := s.entry x.handle
  if frameMatches key (roleCode e.role) x then s.byVerdict j x st ((e.windowAt st).judge x.claimedCounter)
  else s.finishUse j .tagBad []

theorem exec_tagComparisonEnd {s : State} {j : JobId} {key : List Byte} (hcore : s.CoreEnds (.check j key)) :
    exec .tagComparisonEnd s = .next (s.coreEnded.compared j key).settle := by
  rw [exec, execTagComparisonEnd, hcore.1]
  simp only [Bool.false_eq_true, if_false]
  rw [coreIdle_of_coreEnds hcore]

theorem frameMatches_iff (key : List Byte) (r : Option Role) (x : Job) : frameMatches key (roleCode r) x = true ↔
    Config.frameTag key ((r.map Role.code).getD 0) x.handle.val x.gen x.claimedCounter x.input = x.claimedTag := by
  rw [frameMatches, roleCode_eq, decide_eq_true_eq]

theorem compared_of_none {s : State} {j : JobId} {x : Job} (key : List Byte) (hx : s.job j = some x)
    (hst : (s.entry x.handle).standing s.time.tt x.gen = none) :
    s.compared j key = (s.wipe (.host x.slotNo)).finishUse j .noKey [] := by
  rw [State.compared, hx]
  simp only [hst]

theorem compared_of_standing {s : State} {j : JobId} {x : Job} {st : Standing} (key : List Byte) (hx : s.job j = some x)
    (hst : (s.entry x.handle).standing s.time.tt x.gen = some st) :
    s.compared j key = (s.setJob j (some (x.compared st))).judged j key x st := by
  have hnoted : s.addNotes j st.note = s.setJob j (some (x.compared st)) := onJob_eq_setJob hx _
  rw [State.compared, hx]
  simp only [hst, hnoted]
  unfold State.judged State.byVerdict
  rfl

theorem Slot.wiped_not_opened (u : Slot) (now : Nat) (a : HandleNo) (b : Nat) (c : Policy) (d : List Byte) :
    (u.wiped now).state ≠ .opened a b c d := by
  unfold Slot.wiped
  split
  next => nofun
  next hno => exact hno a b c d

/-- A slot that is not OPEN keeps its state at the end of a use. -/
theorem Slot.afterUse_of_not_opened {u : Slot} (h : ∀ a b c d, u.state ≠ .opened a b c d) (close : Bool) (now : Nat) :
    (u.afterUse close now).state = u.state := by
  rw [Slot.afterUse_eq]
  dsimp only
  split
  next a b c d e => exact absurd e (h a b c d)
  next => rfl

/-- A CHECK whose generation is no longer live completes NO_KEY, its slot wiped (R46, R80). -/
theorem noKey_ends {s : State} {j : JobId} {x : Job} (key : List Byte) (hjob : s.OnlyJob j x)
    (hst : (s.entry x.handle).standing s.time.tt x.gen = none) :
    (s.coreEnded.compared j key).settle.port = s.port.jobDone x .noKey [] ∧
      ∀ a b c d, ((s.coreEnded.compared j key).settle.slot x.slotNo).state ≠ .opened a b c d := by
  have hwiped : (s.coreEnded.wipe (.host x.slotNo)).OnlyJob j x := by
    rw [wipe_eq]
    exact hjob
  have hclosed : ∀ a b c d, ((s.coreEnded.wipe (.host x.slotNo)).slot x.slotNo).state ≠ .opened a b c d := by
    rw [slot_wipe, if_pos rfl]
    exact Slot.wiped_not_opened _ _
  have hstate : (((s.coreEnded.wipe (.host x.slotNo)).finishUse j .noKey []).slot x.slotNo).state =
      ((s.coreEnded.wipe (.host x.slotNo)).slot x.slotNo).state := by
    rw [slot_finishUse hwiped.1]
    split
    · exact Slot.afterUse_of_not_opened (u := ((s.coreEnded.wipe (.host x.slotNo)).slot x.slotNo).without j) hclosed _ _
    · rfl
  rw [compared_of_none (s := s.coreEnded) key hjob.1 hst, settle_of_no_jobs (hwiped.noJobs_finishUse _ _)]
  refine ⟨?_, by rw [hstate]; exact hclosed⟩
  rw [finishUse_port hwiped.1, wipe_eq]
  rfl

/-- A CHECK that fails the tag or the window completes with its refusal and the note of its standing (R80, R81). -/
theorem refused_ends {s : State} {j : JobId} {x : Job} (hjob : s.OnlyJob j x) (y : Job) {st : Status} (hst : st ≠ .ok) :
    let t := ((s.coreEnded.setJob j (some y)).finishUse j st []).settle
    t.port = s.port.jobDone y st [] ∧ (∀ i, t.job i = none) ∧ t.store = s.store ∧
      ∀ h, t.entry h = { s.entry h with writeList := (t.entry h).writeList } := by
  have honly := State.OnlyJob.setJob (s := s.coreEnded) hjob y
  have hjobs := honly.noJobs_finishUse st []
  obtain ⟨-, -, -, -, hstore, -⟩ := finishUse_sameElsewhere honly.1 st []
  dsimp only
  rw [settle_of_no_jobs hjobs]
  exact ⟨finishUse_port honly.1 st [], hjobs, hstore, entry_finishUse_of_ne_ok honly.1 st [] hst⟩

/-! ## The accepted counter -/

/-- The window at a standing in which a counter was accepted, and the floor check, where it was the current generation's (R81,
R84). -/
def State.windowed (s : State) (h : HandleNo) (st : Standing) (w : RxWindow) : State :=
  let u := s.onEntry h fun e => e.setWindow st w
  if st = .current then u.floorCheck h else u

theorem State.acceptCounter_eq (s : State) (j : JobId) (x : Job) (st : Standing) (w : RxWindow) : s.acceptCounter j x st w =
    if x.option then ((s.windowed x.handle st w).setStep j .decipherWait).requestCore (.use j)
    else (s.windowed x.handle st w).checkAccepted j := rfl

/-- What stands once the counter of `x` is accepted, and the CHECK `y` is to go on (R81, R84). -/
structure State.WindowTook (s u : State) (j : JobId) (y : Job) (st : Standing) (w : RxWindow) : Prop where
  only : u.OnlyJob j y
  frame : u = { s with engine := u.engine, cipher := u.cipher, directory := u.directory, store := u.store, supply := u.supply }
  waiting : u.engine.laneWaiting = s.engine.laneWaiting
  cipher : u.cipher = s.coreEnded.cipher
  entry : u.entry y.handle = { (s.entry y.handle).setWindow st w with counterPending := (u.entry y.handle).counterPending }
  kept : st ≠ .current → u.store = s.store ∧ (u.entry y.handle).counterPending = (s.entry y.handle).counterPending
  asked : ∀ c high, st = .current → (s.entry y.handle).current = some c → w.high = some high →
    let asked := if c.rxFloor.all fun f => decide (f + 256 ≤ high) then s.raiseAsked y.handle none (some high) else s
    (u.entry y.handle).counterPending = (asked.entry y.handle).counterPending ∧ u.store = asked.store

theorem counterPending_setWindow (e : HandleEntry) (st : Standing) (w : RxWindow) :
    (e.setWindow st w).counterPending = e.counterPending := by cases st <;> rfl

theorem windowed_took {s : State} {j : JobId} {x : Job} (hjob : s.OnlyJob j x) (y : Job) (hstep : y.step ≠ .counterWait)
    (st : Standing) (w : RxWindow) :
    s.WindowTook ((s.coreEnded.setJob j (some y)).windowed y.handle st w) j y st w := by
  obtain ⟨v, hv⟩ : ∃ v, (s.coreEnded.setJob j (some y)).onEntry y.handle (fun e => e.setWindow st w) = v := ⟨_, rfl⟩
  have honly : v.OnlyJob j y := hv ▸ State.OnlyJob.setJob (s := s.coreEnded) hjob y
  have hframe : v = { s with engine := v.engine, cipher := v.cipher, directory := v.directory } := by rw [← hv]; rfl
  have hwaiting : v.engine.laneWaiting = s.engine.laneWaiting := by rw [← hv]; rfl
  have hcipher : v.cipher = s.coreEnded.cipher := by rw [← hv]; rfl
  have hentry : v.entry y.handle = (s.entry y.handle).setWindow st w := by
    rw [← hv]
    exact State.entry_onEntry_self (s.coreEnded.setJob j (some y)) y.handle _
  have hpending : (v.entry y.handle).counterPending = (s.entry y.handle).counterPending := by
    rw [hentry, counterPending_setWindow]
  have hstore : v.store = s.store := by rw [hframe]
  rw [State.windowed, hv]
  by_cases hst : st = .current
  · obtain ⟨hchecked, hrest, hasked⟩ := floorCheck_leaves (honly.noCounterWaiter hstep y.handle)
    rw [if_pos hst]
    refine ⟨by rw [hchecked]; exact honly, ?_, by rw [hchecked]; exact hwaiting, by rw [hchecked]; exact hcipher, ?_,
      fun h => absurd hst h, fun c high _ hc hhigh => ?_⟩
    · rw [hchecked, hframe]
    · rw [hrest, hentry]
    · have hcurrent : (v.entry y.handle).current = some { c with rx := w } := by
        rw [hentry, hst]
        exact congrArg (Option.map fun c : CurrentGen => { c with rx := w }) hc
      have hask := hasked _ high hcurrent hhigh
      dsimp only at hask ⊢
      split at hask
      · rw [if_pos ‹_›]
        obtain ⟨hp, hs⟩ := raiseAsked_congr hpending hstore none (some high)
        exact ⟨hask.1.trans hp, hask.2.trans hs⟩
      · rw [if_neg ‹_›]
        exact ⟨hask.1.trans hpending, hask.2.trans hstore⟩
  · rw [if_neg hst]
    refine ⟨honly, by rw [hframe], hwaiting, hcipher, ?_, fun _ => ⟨hstore, hpending⟩, fun _ _ h => absurd h hst⟩
    rw [hentry]

theorem asksConfirm_congr {s u : State} {y : Job} (hslots : u.slots = s.slots) : u.AsksConfirm y ↔ s.AsksConfirm y := by
  rw [State.AsksConfirm, State.AsksConfirm, State.slot, State.slot, hslots]

/-- How a CHECK goes on reads of a staged generation its number, deadline, authority and limit (R85 to R87). -/
theorem State.CheckGoesOn.transport {s u t : State} {j : JobId} {y : Job} (h : u.CheckGoesOn t j y) (hport : u.port = s.port)
    (hslots : u.slots = s.slots) (hrest : s.AsksConfirm y → u.store = s.store ∧ u.time = s.time ∧
      (u.entry y.handle).writeList = (s.entry y.handle).writeList ∧
      ∃ w : StagedGen → RxWindow, (u.entry y.handle).staged = (s.entry y.handle).staged.map fun g => { g with rx := w g }) :
    s.CheckGoesOn t j y := by
  by_cases hask : s.AsksConfirm y
  · obtain ⟨hstore, htime, hlist, w, hstaged⟩ := hrest hask
    obtain ⟨hfront, hbehind⟩ := (if_pos ((asksConfirm_congr hslots).mpr hask)).mp h
    dsimp only at hfront hbehind
    rw [hport, hstore, hlist] at hfront hbehind
    rw [htime] at hfront
    refine (if_pos hask).mpr ⟨fun hempty => ?_, hbehind⟩
    obtain ⟨hgone, hpresent⟩ := hfront hempty
    refine ⟨fun hall => hgone fun g hg hgen => ?_, fun g hg => hpresent { g with rx := w g } ?_⟩
    · rw [hstaged, Option.map_eq_some_iff] at hg
      obtain ⟨g, hg, rfl⟩ := hg
      exact hall g hg hgen
    · rw [hstaged, hg]
      rfl
  · have h' := (if_neg (mt (asksConfirm_congr hslots).mp hask)).mp h
    rw [hport] at h'
    exact (if_neg hask).mpr h'

theorem windowAt_setWindow {e : HandleEntry} {tt g : Nat} {st : Standing} (h : e.standing tt g = some st) (w : RxWindow) :
    (e.setWindow st w).windowAt st = w := by
  unfold HandleEntry.standing at h
  split at h
  next hlive =>
    cases h
    obtain ⟨c, hc, -⟩ := (Option.any_eq_true _ _).mp hlive
    simp [HandleEntry.setWindow, HandleEntry.windowAt, hc]
  next =>
    split at h
    next hlive =>
      cases h
      obtain ⟨c, hc, -⟩ := (Option.any_eq_true _ _).mp hlive
      obtain ⟨hc, -⟩ := Option.filter_eq_some_iff.mp hc
      simp [HandleEntry.setWindow, HandleEntry.windowAt, hc]
    next =>
      split at h
      next hlive =>
        cases h
        obtain ⟨c, hc, -⟩ := (Option.any_eq_true _ _).mp hlive
        obtain ⟨hc, -⟩ := Option.filter_eq_some_iff.mp hc
        simp [HandleEntry.setWindow, HandleEntry.windowAt, hc]
      next => cases h

theorem staged_setWindow (e : HandleEntry) (st : Standing) (w : RxWindow) : ∃ f : StagedGen → RxWindow,
    (e.setWindow st w).staged = e.staged.map fun g => { g with rx := f g } := by
  cases st with
  | staged => exact ⟨fun _ => w, rfl⟩
  | current | retiring => exact ⟨StagedGen.rx, Option.map_id'.symm ▸ rfl⟩

/-- In an idle core the decipher of an accepted CHECK begins with its slot's key (R32, R72, R83). -/
theorem decipher_begins {u : State} {j : JobId} {y : Job} (honly : u.OnlyJob j y) (hwaiting : u.engine.laneWaiting = [])
    (hidle : u.cipher.running = none) : ((u.setStep j .decipherWait).requestCore (.use j)).settle =
      (u.setJob j (some (y.toStep .decipherRun))).onCipher fun c =>
        { c with running := some ⟨.decipher j (u.keyIn (.host y.slotNo)), false⟩, lastGroup := y.group } := by
  have hy := State.job_setJob_self u j (some (y.toStep .decipherWait))
  have hop : (u.setJob j (some (y.toStep .decipherWait))).granted (.use j) = some (.decipher j (u.keyIn (.host y.slotNo))) := by
    rw [State.granted, hy]
    rfl
  have hbegun : (u.setStep j .decipherWait).requestCore (.use j) = (u.setJob j (some (y.toStep .decipherRun))).onCipher fun c =>
      { c with running := some ⟨.decipher j (u.keyIn (.host y.slotNo)), false⟩, lastGroup := y.group } := by
    have hrun : (u.setJob j (some (y.toStep .decipherWait))).cipher.running = none := hidle
    have hcore : u.cipher.useAsked j y.group (.decipher j (u.keyIn (.host y.slotNo))) =
        { u.cipher with running := some ⟨.decipher j (u.keyIn (.host y.slotNo)), false⟩, lastGroup := y.group } := by
      rw [Cipher.useAsked, hidle]
      rfl
    rw [setStep_eq honly.1, requestCore_use hy hop, onJob_setJob, hrun]
    exact congrArg (fun c => { u.setJob j (some (y.toStep .decipherRun)) with cipher := c }) hcore
  rw [hbegun]
  exact settle_of_still ((honly.setJob (y.toStep .decipherRun)).still rfl hwaiting)

section Took

variable {s u t : State} {j : JobId} {y : Job} {st : Standing} {w : RxWindow} (hu : s.WindowTook u j y st w)
include hu

/-- The window and the floor check stand as the acceptance left them, however the CHECK goes on (R81, R84). -/
theorem State.WindowTook.stands {tt g : Nat} (hst : (s.entry y.handle).standing tt g = some st)
    (hentry : t.entry y.handle = { u.entry y.handle with
      writeList := (t.entry y.handle).writeList, touched := (t.entry y.handle).touched })
    (hstore : st = .current → t.store = u.store) :
    (t.entry y.handle).windowAt st = w ∧
      (st ≠ .current → (t.entry y.handle).counterPending = (s.entry y.handle).counterPending) ∧
      ∀ c high, st = .current → (s.entry y.handle).current = some c → w.high = some high →
        let asked := if c.rxFloor.all fun f => decide (f + 256 ≤ high) then s.raiseAsked y.handle none (some high) else s
        (t.entry y.handle).counterPending = (asked.entry y.handle).counterPending ∧ t.store = asked.store := by
  have hpending : (t.entry y.handle).counterPending = (u.entry y.handle).counterPending := by rw [hentry]
  refine ⟨?_, fun hne => hpending.trans (hu.kept hne).2, fun c high hcurrent hc hhigh => ?_⟩
  · have hwindow := windowAt_setWindow hst w
    rw [hentry, hu.entry]
    cases st <;> exact hwindow
  · rw [hpending, hstore hcurrent]
    exact hu.asked c high hcurrent hc hhigh

/-- Under DECIPHER the decipher begins (R72, R83). -/
theorem State.WindowTook.deciphers (hwaiting : s.engine.laneWaiting = []) (hcore : s.cipher.waiting = []) :
    let t := ((u.setStep j .decipherWait).requestCore (.use j)).settle
    t.port = s.port ∧ t.job j = some (y.toStep .decipherRun) ∧
      t.cipher = ⟨some ⟨.decipher j (s.keyIn (.host y.slotNo)), false⟩, [], y.group⟩ ∧
      t.entry y.handle = u.entry y.handle ∧ t.store = u.store := by
  have hslots : u.slots = s.slots := by rw [hu.frame]
  have hkey : u.keyIn (.host y.slotNo) = s.keyIn (.host y.slotNo) := by
    rw [State.keyIn, State.slotState, State.slot, hslots]
    rfl
  have hbegins := decipher_begins hu.only (hu.waiting.trans hwaiting) (by rw [hu.cipher]; rfl)
  dsimp only
  rw [hbegins]
  refine ⟨?_, State.job_setJob_self u j _, ?_, rfl, rfl⟩
  · rw [hu.frame]
    rfl
  · change ({ u.cipher with running := _, lastGroup := _ } : Cipher) = _
    rw [hu.cipher, hkey]
    exact congrArg (Cipher.mk _ · _) hcore

/-- Without DECIPHER the accepted CHECK goes on (R83, R85). -/
theorem State.WindowTook.goesOn (hwaiting : s.engine.laneWaiting = []) (hkind : y.kind = .check)
    (hnote : st = .current → y.notes = 0) :
    let t := (u.checkAccepted j).settle
    s.CheckGoesOn t j y ∧ t.entry y.handle = { u.entry y.handle with
      writeList := (t.entry y.handle).writeList, touched := (t.entry y.handle).touched } ∧
      (st = .current → t.store = u.store) := by
  obtain ⟨hgoes, hentry, hstore, -⟩ := checkAccepted_ends hu.only hkind (hu.waiting.trans hwaiting)
  have hslots : u.slots = s.slots := by rw [hu.frame]
  have hcurrent : ∀ {v : State}, v.AsksConfirm y → st ≠ .current := fun hask hst => by
    have hnone := hask.1
    rw [hnote hst] at hnone
    exact hnone (BitVec.zero_and)
  refine ⟨hgoes.transport (by rw [hu.frame]) hslots fun hask => ?_, hentry, fun hst => hstore fun hask => hcurrent hask hst⟩
  obtain ⟨f, hstaged⟩ := staged_setWindow (s.entry y.handle) st w
  refine ⟨(hu.kept (hcurrent hask)).1, by rw [hu.frame], ?_, f, ?_⟩
  · rw [hu.entry]
    cases st <;> rfl
  · rw [hu.entry]
    exact hstaged

end Took

/-- A CHECK's notes are those of its standing alone, where it had none before (R80). -/
theorem compared_eq {x : Job} (hnotes : x.notes = 0) (st : Standing) : x.compared st = { x with notes := st.note } := by
  rw [Job.compared, hnotes]
  exact congrArg (fun n => { x with notes := n }) BitVec.zero_or

/-- Settles O33: by the standing of the generation, the tag, the window, and DECIPHER. -/
theorem tagComparisonEnds : Obligations.TagComparisonEnds := by
  unfold Obligations.TagComparisonEnds
  intro s j x key hcore hjob hkind hstep _ hnotes hwaiting e role
  refine ⟨_, exec_tagComparisonEnd hcore, ?_⟩
  split
  next hst => exact noKey_ends key hjob hst
  next st hst =>
    rw [compared_of_standing (s := s.coreEnded) key hjob.1 hst]
    intro y refused
    have hy : x.compared st = y := (compared_eq hnotes st).trans (by cases st <;> rfl)
    have hrefused : ∀ status, status ≠ .ok → (s.coreEnded.setJob j (some (x.compared st))).judged j key x st =
        (s.coreEnded.setJob j (some (x.compared st))).finishUse j status [] → refused status := fun status hne hdone => by
      obtain ⟨hport, hjobs, hstore, hentry⟩ := refused_ends hjob (x.compared st) hne
      rw [← hdone] at hport hjobs hstore hentry
      exact ⟨hport.trans (congrArg (s.port.jobDone · status []) hy), hjobs, hstore, hentry x.handle⟩
    split
    next htag =>
      have hdone : (s.coreEnded.setJob j (some (x.compared st))).judged j key x st =
          (s.coreEnded.setJob j (some (x.compared st))).byVerdict j x st ((e.windowAt st).judge x.claimedCounter) :=
        if_pos ((frameMatches_iff key e.role x).mpr htag)
      split
      next hv => exact hrefused .replay nofun (by rw [hdone, hv]; rfl)
      next hv => exact hrefused .tooOld nofun (by rw [hdone, hv]; rfl)
      next w hv =>
        have htook := windowed_took hjob (x.compared st) (show x.step ≠ .counterWait by rw [hstep]; nofun) st w
        rw [hdone, hv, State.byVerdict, State.acceptCounter_eq]
        cases hoption : x.option with
        | true =>
          obtain ⟨hport, hjob', hcipher, hentry, hstore⟩ := htook.deciphers hwaiting hcore.2
          obtain ⟨hwindow, hkept, hasked⟩ := htook.stands hst (by rw [hentry]) fun _ => hstore
          have hrun := hjob'.trans (congrArg (fun y : Job => some (y.toStep .decipherRun)) hy)
          exact ⟨hwindow, hkept, hasked, fun _ => ⟨hport, hrun, hcipher⟩, nofun⟩
        | false =>
          obtain ⟨hgoes, hentry, hstore⟩ := htook.goesOn hwaiting hkind fun hcurrent => by
            rw [compared_eq hnotes, hcurrent]
            rfl
          obtain ⟨hwindow, hkept, hasked⟩ := htook.stands hst hentry hstore
          exact ⟨hwindow, hkept, hasked, nofun, fun _ => hy ▸ hgoes⟩
    next htag => exact hrefused .tagBad nofun (if_neg (mt (frameMatches_iff key e.role x).mp htag))

end Sys2Proof.Machine

/-!
PROOFS about the checks of renewal packages: the state checks at the front of a write list (R57, R98), the format check (R89), and the
authority, counter and rights steps of the lane (R92, R93, R96, R97, R121); and the rows that packages write (R100 to R102, R126).
-/

namespace Sys2Proof.Machine

open Sys2Proof

/-! ## Presence -/

theorem presentStaged_eq_some_iff {e : HandleEntry} {tt : Nat} {g : StagedGen} :
    e.presentStaged tt = some g ↔ e.staged = some g ∧ tt < g.deadline := by
  simp [HandleEntry.presentStaged, Option.filter_eq_some_iff]

theorem presentRetiring_eq_some_iff {e : HandleEntry} {tt : Nat} {g : RetiringGen} :
    e.presentRetiring tt = some g ↔ e.retiring = some g ∧ tt < g.graceEnd := by
  simp [HandleEntry.presentRetiring, Option.filter_eq_some_iff]

theorem presentStaged_isSome_iff (e : HandleEntry) (tt : Nat) :
    (e.presentStaged tt).isSome = true ↔ ∃ g, e.staged = some g ∧ tt < g.deadline := by
  simp only [Option.isSome_iff_exists, presentStaged_eq_some_iff]

theorem presentRetiring_isSome_iff (e : HandleEntry) (tt : Nat) :
    (e.presentRetiring tt).isSome = true ↔ ∃ g, e.retiring = some g ∧ tt < g.graceEnd := by
  simp only [Option.isSome_iff_exists, presentRetiring_eq_some_iff]

/-- Some generation of the handle is present (R57). -/
theorem anyPresent_iff (e : HandleEntry) (tt : Nat) : e.anyPresent tt = true ↔ e.current.isSome = true ∨
    (∃ g, e.staged = some g ∧ tt < g.deadline) ∨ ∃ g, e.retiring = some g ∧ tt < g.graceEnd := by
  rw [HandleEntry.anyPresent, Bool.or_eq_true, Bool.or_eq_true, presentStaged_isSome_iff, presentRetiring_isSome_iff, or_assoc]

/-! ## The state checks -/

/-- A check with a single refusal passes exactly under its condition, and otherwise refuses. -/
theorem check_iff {c : Prop} [Decidable c] {st : Status} {verdict : Option Status} {q : Prop} (hv : verdict = if c then none else some st)
    (hc : c ↔ q) : (verdict = none ↔ q) ∧ (verdict = none ∨ verdict = some st) := by
  subst hv
  by_cases h : c
  · simp [h, ← hc]
  · simp [h, ← hc]

/-- The order of the state checks of a STAGE (R98). -/
theorem stateChecks_stage_order {e : HandleEntry} {tt : Nat} {p : List Byte} {near staged retiring present : Prop}
    (hkind : pkgKind p = .stage) (hnear : (e.highestGen < pkgGen p ∧ pkgGen p ≤ e.highestGen + 16) ↔ near)
    (hstaged : (e.presentStaged tt).isSome = true ↔ staged) (hretiring : (e.presentRetiring tt).isSome = true ↔ retiring)
    (hpresent : e.anyPresent tt = true ↔ present) :
    let verdict := stateChecks e tt p
    let spent := 65535 ≤ e.highestGen
    (verdict = some .genSpent ↔ spent) ∧ (verdict = some .genBad ↔ ¬spent ∧ ¬near) ∧
    (verdict = some .stageOpen ↔ ¬spent ∧ near ∧ staged) ∧
    (verdict = some .graceOpen ↔ ¬spent ∧ near ∧ ¬staged ∧ retiring) ∧
    (verdict = some .roleDenied ↔ ¬spent ∧ near ∧ ¬staged ∧ ¬retiring ∧ present ∧ e.role ≠ some (pkgRole p)) ∧
    (verdict = none ↔ ¬spent ∧ near ∧ ¬staged ∧ ¬retiring ∧ (present → e.role = some (pkgRole p))) := by
  obtain rfl := propext hstaged
  obtain rfl := propext hretiring
  obtain rfl := propext hpresent
  have hbad : (pkgGen p ≤ e.highestGen ∨ e.highestGen + 16 < pkgGen p) ↔ ¬near := by rw [← hnear]; omega
  generalize hv : stateChecks e tt p = verdict
  simp only
  rw [stateChecks, hkind] at hv
  dsimp only at hv
  by_cases h1 : 65535 ≤ e.highestGen
  · simp [← hv, h1]
  rw [if_neg h1] at hv
  by_cases h2 : near
  · rw [if_neg (mt hbad.mp (not_not.mpr h2))] at hv
    by_cases h3 : (e.presentStaged tt).isSome = true
    · simp [← hv, h1, h2, h3]
    rw [if_neg h3] at hv
    by_cases h4 : (e.presentRetiring tt).isSome = true
    · simp [← hv, h1, h2, h3, h4]
    rw [if_neg h4] at hv
    by_cases h5 : e.anyPresent tt = true ∧ e.role ≠ some (pkgRole p)
    · simp [← hv, h1, h2, h3, h4, h5]
    · rw [if_neg h5] at hv
      simpa [← hv, h1, h2, h3, h4, h5] using not_and_not_right.mp h5
  · rw [if_pos (hbad.mpr h2)] at hv
    simp [← hv, h1, h2]

theorem any_presentStaged_iff {e : HandleEntry} {tt g : Nat} : (e.presentStaged tt).any (fun y => y.gen == g) = true ↔
    ∃ y, e.staged = some y ∧ tt < y.deadline ∧ y.gen = g := by
  simp [Option.any_eq_true, presentStaged_eq_some_iff, and_assoc]

theorem any_presentRetiring_iff {e : HandleEntry} {tt g : Nat} :
    (e.presentRetiring tt).any (fun y => g == 0 || y.gen == g) = true ↔
      ∃ y, e.retiring = some y ∧ tt < y.graceEnd ∧ (g = 0 ∨ y.gen = g) := by
  simp [Option.any_eq_true, presentRetiring_eq_some_iff, and_assoc]

theorem any_gen_iff {o : Option CurrentGen} {g : Nat} : o.any (fun c => c.gen == g) = true ↔ ∃ c, o = some c ∧ c.gen = g := by
  simp [Option.any_eq_true]

/-- Settles O43: the order of a STAGE's checks, and the one refusal of each other kind. -/
theorem stateChecksComeInOrder : Obligations.StateChecksComeInOrder := by
  unfold Obligations.StateChecksComeInOrder
  intro e tt p verdict g staged retiring present spent near
  refine ⟨fun hkind => stateChecks_stage_order hkind Iff.rfl (presentStaged_isSome_iff e tt) (presentRetiring_isSome_iff e tt)
    (anyPresent_iff e tt), fun hkind => ?_, fun hkind => ?_, fun hkind => ?_⟩
  · refine check_iff (c := (e.presentStaged tt).any (fun y => y.gen == g) = true) ?_ any_presentStaged_iff
    change stateChecks e tt p = _
    rcases hkind with hkind | hkind <;> rw [stateChecks, hkind]
  · refine check_iff (c := e.anyPresent tt = true ∧ (g = 0 ∨ e.current.any (fun c => c.gen == g) = true)) ?_
      (and_congr (anyPresent_iff e tt) (or_congr_right any_gen_iff))
    change stateChecks e tt p = _
    rw [stateChecks, hkind]
  · refine check_iff (c := (e.presentRetiring tt).any (fun r => g == 0 || r.gen == g) = true) ?_ any_presentRetiring_iff
    change stateChecks e tt p = _
    rw [stateChecks, hkind]

/-! ## The format check -/

/-- The code of a package kind (section 1.9, "Renewal package"). -/
def PackageKind.code : PackageKind → Nat
  | .stage => 0x01
  | .confirm => 0x02
  | .cancel => 0x03
  | .revoke => 0x04
  | .release => 0x05
  | .timeset => 0x10
  | .unlock => 0x11
  | .authority => 0x20
  | .custody => 0x21
  | .setup => 0x22
  | .finalize => 0x23

theorem packageKindOf_eq_some_iff : ∀ (b : Byte) (k : PackageKind), packageKindOf b = some k ↔ b.toNat = k.code := by
  intro b k
  revert b
  cases k <;> decide +kernel

theorem packageKindOf_eq_none_iff : ∀ b : Byte, packageKindOf b = none ↔
    b.toNat ∉ [0x01, 0x02, 0x03, 0x04, 0x05, 0x10, 0x11, 0x20, 0x21, 0x22, 0x23] := by
  decide +kernel

theorem getLsbD_zero_eq_false_iff : ∀ b : Byte, b.toNat < 2 → (b.getLsbD 0 = false ↔ b.toNat = 0) := by
  decide +kernel

theorem internal_roleOfCode_iff (c : Nat) : ((roleOfCode c).getD .wanFrame).internal = true ↔
    roleOfCode c = some .authCmd ∨ roleOfCode c = some .authTransport := by
  rcases roleOfCode c with _ | r
  · decide
  · cases r <;> decide

theorem stageFormatOk_iff (p : List Byte) : stageFormatOk p = true ↔
    1 ≤ (byteAt p 12).toNat ∧ (byteAt p 12).toNat ≤ 5 ∧ (byteAt p 13).toNat < 32 ∧ (byteAt p 14).toNat < 4 ∧
      (roleOfCode (byteAt p 12).toNat = some .authCmd ∨ roleOfCode (byteAt p 12).toNat = some .authTransport →
        bitAt p 14 0 = false) ∧
      u16At p 16 ≤ 16383 ∧ 1 ≤ u32At p 18 ∧ 1 ≤ u16At p 22 := by
  have hlock : (!(bitAt p 14 0 && (pkgRole p).internal)) = true ↔ ((pkgRole p).internal = true → bitAt p 14 0 = false) := by
    cases bitAt p 14 0 <;> simp
  simp only [stageFormatOk, Bool.and_eq_true, decide_eq_true_eq, hlock, and_assoc]
  rw [pkgRole, internal_roleOfCode_iff]
  rfl

theorem custodyFormatOk_iff (p : List Byte) (i : Nat) : custodyFormatOk p i = true ↔
    (byteAt p (12 + 5 * i)).toNat ≤ (byteAt p (13 + 5 * i)).toNat ∧ (byteAt p (13 + 5 * i)).toNat ≤ 47 ∧
      (byteAt p (14 + 5 * i)).toNat < 64 ∧ (byteAt p (15 + 5 * i)).toNat < 32 ∧ (byteAt p (16 + 5 * i)).toNat ≤ 5 := by
  simp [custodyFormatOk, and_assoc]

/-- What the format check asks of the bytes that a kind gives a meaning (R89). -/
def PackageKind.BodyOk (k : PackageKind) (p : List Byte) : Prop :=
  let b := fun i : Nat => (byteAt p i).toNat
  match k with
  | .stage => b 8 ≤ 47 ∧ stageFormatOk p = true
  | .confirm | .cancel | .revoke | .release => b 9 = 0 ∧ b 8 ≤ 47
  | .timeset | .finalize => b 9 = 0
  | .unlock => b 9 = 0 ∧ 1 ≤ b 12 ∧ b 12 < 4
  | .authority => b 9 = 0 ∧ b 12 ≤ 5 ∧ b 13 ≤ 1 ∧ b 14 ≤ 47 ∧ b 15 ≤ 47 ∧ b 16 < 4
  | .custody => b 9 = 0 ∧ ∀ i < 8, custodyFormatOk p i = true
  | .setup => b 9 = 0 ∧ b 12 ≤ 1 ∧ b 13 ≤ 1 ∧ 1 ≤ b 14 ∧ b 15 ≤ 1 ∧ b 16 ≤ 1 ∧ 1 ≤ b 17

/-- The format check of a package of kind `k` (R89). -/
theorem formatOk_iff_of_kind {p : List Byte} {k : PackageKind} (hk : packageKindOf (byteAt p 2) = some k) : formatOk p = true ↔
    u16At p 0 = 0x5A31 ∧ (byteAt p 3).toNat ≤ 5 ∧ (byteAt p 9).toNat < 2 ∧ k.BodyOk p := by
  have himmediate : (byteAt p 9).toNat < 2 → (pkgImmediate p = false ↔ (byteAt p 9).toNat = 0) :=
    getLsbD_zero_eq_false_iff (byteAt p 9)
  simp only [formatOk, hk, Bool.and_eq_true, decide_eq_true_eq, and_assoc]
  refine and_congr_right fun _ => and_congr Iff.rfl (and_congr_right fun hlt => ?_)
  specialize himmediate hlt
  cases k <;>
    simp [PackageKind.BodyOk, pkgHandleByte, himmediate, setupFormatOk, Nat.lt_succ_iff, and_assoc]

/-- The format check, kind by kind (R89). -/
theorem formatOk_iff (p : List Byte) :
    let b := fun i : Nat => (byteAt p i).toNat
    let internal := roleOfCode (b 12) = some .authCmd ∨ roleOfCode (b 12) = some .authTransport
    formatOk p = true ↔
      u16At p 0 = 0x5A31 ∧ b 2 ∈ [0x01, 0x02, 0x03, 0x04, 0x05, 0x10, 0x11, 0x20, 0x21, 0x22, 0x23] ∧ b 3 ≤ 5 ∧ b 9 < 2 ∧
      (b 2 ≠ 0x01 → b 9 = 0) ∧ (b 2 ≤ 0x05 → b 8 ≤ 47) ∧
      (b 2 = 0x01 → 1 ≤ b 12 ∧ b 12 ≤ 5 ∧ b 13 < 32 ∧ b 14 < 4 ∧ (internal → bitAt p 14 0 = false) ∧ u16At p 16 ≤ 16383 ∧
        1 ≤ u32At p 18 ∧ 1 ≤ u16At p 22) ∧
      (b 2 = 0x11 → 1 ≤ b 12 ∧ b 12 < 4) ∧
      (b 2 = 0x20 → b 12 ≤ 5 ∧ b 13 ≤ 1 ∧ b 14 ≤ 47 ∧ b 15 ≤ 47 ∧ b 16 < 4) ∧
      (b 2 = 0x21 → ∀ i < 8, b (12 + 5 * i) ≤ b (13 + 5 * i) ∧ b (13 + 5 * i) ≤ 47 ∧ b (14 + 5 * i) < 64 ∧
        b (15 + 5 * i) < 32 ∧ b (16 + 5 * i) ≤ 5) ∧
      (b 2 = 0x22 → b 12 ≤ 1 ∧ b 13 ≤ 1 ∧ 1 ≤ b 14 ∧ b 15 ≤ 1 ∧ b 16 ≤ 1 ∧ 1 ≤ b 17) := by
  simp only [← stageFormatOk_iff, ← custodyFormatOk_iff]
  cases hk : packageKindOf (byteAt p 2) with
  | none =>
    have hcode := (packageKindOf_eq_none_iff _).mp hk
    have hrefused : formatOk p = false := by simp [formatOk, hk]
    simp only [hrefused, Bool.false_eq_true, false_iff]
    exact fun h => hcode h.2.1
  | some k =>
    rw [formatOk_iff_of_kind hk, (packageKindOf_eq_some_iff _ k).mp hk]
    refine and_congr_right fun _ => ?_
    cases k <;> simp [PackageKind.code, PackageKind.BodyOk]

/-! ## Steps 1, 2 and 4 of the lane -/

/-- The order of steps 1 and 2 (R92, R93). -/
theorem laneJudge_order (a : Authority) (tt : Nat) (p : List Byte) :
    let verdict := laneJudge a tt p
    let c := pkgCounter p
    let unlocked := a.defined = true ∧ a.lockUntil ≤ tt
    let judged := unlocked ∧ a.accepted ≠ 0xFFFFFFFF
    let repeated := c = a.accepted ∧ a.lastTag = some (pkgTag p)
    (verdict = some .authUnknown ↔ a.defined = false) ∧
    (verdict = some .authLocked ↔ a.defined = true ∧ tt < a.lockUntil) ∧
    (verdict = some .authSpent ↔ unlocked ∧ a.accepted = 0xFFFFFFFF) ∧
    (verdict = some .alreadyApplied ↔ judged ∧ repeated) ∧
    (verdict = some .counterOld ↔ judged ∧ ¬repeated ∧ c ≤ a.accepted) ∧
    (verdict = some .counterJump ↔ judged ∧ a.accepted + 16777216 < c) ∧
    (verdict = none ↔ judged ∧ a.accepted < c ∧ c ≤ a.accepted + 16777216) := by
  intro verdict c unlocked judged repeated
  have hunlocked : a.lockUntil ≤ tt ↔ ¬tt < a.lockUntil := Nat.not_lt.symm
  cases hdefined : a.defined with
  | false =>
    have hv : verdict = some .authUnknown := by simp [verdict, laneJudge, hdefined]
    simp [hv, judged, unlocked, hdefined]
  | true =>
    by_cases hlocked : tt < a.lockUntil
    · have hv : verdict = some .authLocked := by simp [verdict, laneJudge, hdefined, hlocked]
      simp [hv, judged, unlocked, hdefined, hunlocked, hlocked]
    by_cases hspent : a.accepted = 0xFFFFFFFF
    · have hv : verdict = some .authSpent := by simp [verdict, laneJudge, hdefined, hlocked, hspent]
      simp [hv, judged, unlocked, hdefined, hunlocked, hlocked, hspent]
    have hjudged : judged := ⟨⟨hdefined, hunlocked.mpr hlocked⟩, hspent⟩
    by_cases hrepeated : repeated
    · have hv : verdict = some .alreadyApplied := by
        simp only [verdict, laneJudge, hdefined, hlocked, hspent]
        exact if_pos hrepeated
      have hsame : c = a.accepted := hrepeated.1
      simp [hv, hjudged, unlocked, hdefined, hunlocked, hlocked, hspent, hrepeated, hsame]
    have hchecks : verdict = if c ≤ a.accepted then some .counterOld
        else if counterReach < c - a.accepted then some .counterJump else none := by
      simp only [verdict, laneJudge, hdefined, hlocked, hspent]
      exact if_neg hrepeated
    by_cases hold : c ≤ a.accepted
    · have hjump : ¬a.accepted + 16777216 < c := by omega
      simp [hchecks, hjudged, unlocked, hdefined, hunlocked, hlocked, hspent, hrepeated, hold, hjump]
    · have hreach : counterReach < c - a.accepted ↔ a.accepted + 16777216 < c := by
        rw [counterReach]
        omega
      by_cases hjump : a.accepted + 16777216 < c
      · simp [hchecks, hjudged, unlocked, hdefined, hunlocked, hlocked, hspent, hrepeated, hold, hreach, hjump]
      · simp [hchecks, hjudged, unlocked, hdefined, hunlocked, hlocked, hspent, hrepeated, hold, hreach, hjump, Nat.not_le.mp hold,
          Nat.not_lt.mp hjump]

/-- Step 4 of a kind on a handle is the custody lookup, and for a STAGE the required role (R96). -/
theorem rightsStep_onHandle {custody : Custody} {a : Authority} {p : List Byte} (hkind : (pkgKind p).onHandle = true) :
    rightsStep custody a p = match custodyLookup custody.map (pkgHandle p) (pkgAuth p) (rightsNeeded p) with
      | .error st => some st
      | .ok none => none
      | .ok (some r) => if pkgKind p = .stage ∧ pkgRole p ≠ r then some .roleDenied else none := by
  rw [rightsStep]
  exact if_pos hkind

theorem PackageKind.onHandle_of_provisioning {k : PackageKind} : k.provisioning = true → k.onHandle = false := by
  cases k <;> decide

/-- Step 4 of a kind on provisioning (R97, R121). -/
theorem rightsStep_provisioning {custody : Custody} {a : Authority} {p : List Byte} (hkind : (pkgKind p).provisioning = true) :
    let verdict := rightsStep custody a p
    let selfBad := pkgKind p = .authority ∧ ((pkgSubject p = 0 ∧ pkgDefined p = false) ∨
      (pkgDefined p = true ∧ pkgCommandHandle p = pkgTransportHandle p))
    (verdict = some .provisioningClosed ↔ custody.final = true) ∧
    (verdict = some .rightDenied ↔ custody.final = false ∧ (pkgAuth p ≠ 0 ∨ selfBad)) ∧
    (verdict = none ↔ custody.final = false ∧ pkgAuth p = 0 ∧ ¬selfBad) := by
  intro verdict selfBad
  have hhandle := PackageKind.onHandle_of_provisioning hkind
  have hchecks : verdict = if custody.final then some .provisioningClosed
      else if pkgAuth p ≠ 0 ∨ selfBad then some .rightDenied else none := by
    simp only [verdict, selfBad, rightsStep, hhandle, hkind, Bool.false_eq_true, if_false, if_true]
    refine ite_congr rfl (fun _ => rfl) fun _ => ?_
    by_cases hauth : pkgAuth p ≠ 0
    · simp [hauth]
    by_cases hself : pkgKind p = .authority ∧ pkgSubject p = 0 ∧ pkgDefined p = false
    · simp [hself]
    · simp only [hauth, hself, if_false]
      refine ite_congr (propext ?_) (fun _ => rfl) fun _ => rfl
      tauto
  cases hfinal : custody.final with
  | true => simp [hchecks, hfinal]
  | false =>
    by_cases hdenied : pkgAuth p ≠ 0 ∨ selfBad
    · have hnot : ¬(pkgAuth p = 0 ∧ ¬selfBad) := by tauto
      simp [hchecks, hfinal, hdenied, hnot]
    · have hself : pkgAuth p = 0 ∧ ¬selfBad := by tauto
      simp [hchecks, hfinal, hself]

/-- Settles O39: the format check kind by kind, the order of steps 1 and 2, and step 4 by the kind's family. -/
theorem packageChecksComeInOrder : Obligations.PackageChecksComeInOrder := by
  unfold Obligations.PackageChecksComeInOrder
  refine ⟨formatOk_iff, laneJudge_order, ?_⟩
  intro custody a p verdict kind lookup selfBad
  refine ⟨fun hkind => ?_, fun hkind => rightsStep_provisioning ?_, fun hkind => ?_, fun hkind => ?_⟩
  · have hhandle : kind.onHandle = true := by
      simp only [List.mem_cons, List.not_mem_nil, or_false] at hkind
      rcases hkind with h | h | h | h | h <;> rw [h] <;> rfl
    have hv : verdict = match lookup with
        | .error st => some st
        | .ok none => none
        | .ok (some r) => if kind = .stage ∧ pkgRole p ≠ r then some .roleDenied else none := rightsStep_onHandle hhandle
    refine ⟨fun st h => by rw [hv, h], fun h => by rw [hv, h], fun r h => ?_⟩
    rw [hv, h]
    by_cases hrole : kind = .stage ∧ pkgRole p ≠ r
    · simp [hrole]
    · simpa [hrole] using not_and_not_right.mp hrole
  · simp only [List.mem_cons, List.not_mem_nil, or_false] at hkind
    rcases hkind with h | h | h | h <;> rw [show pkgKind p = _ from h] <;> rfl
  · change rightsStep custody a p = _
    rw [rightsStep, show pkgKind p = .timeset from hkind]
    rfl
  · change rightsStep custody a p = _
    rw [rightsStep, show pkgKind p = .unlock from hkind]
    rfl

/-! ## The rows of packages -/

theorem pkgKind_of_code {p : List Byte} {k : PackageKind} (h : (byteAt p 2).toNat = k.code) : pkgKind p = k := by
  rw [pkgKind, (packageKindOf_eq_some_iff _ k).mpr h, Option.getD_some]

theorem ofNat_of_eq_val {n : Nat} [NeZero n] {a : Nat} {i : Fin n} (h : a = i.val) : Fin.ofNat n a = i := by
  rw [h, Fin.ofNat_val_eq_self]

theorem pkgCustodyMap_getElem (p : List Byte) (i : Fin 8) : (pkgCustodyMap p)[i] = pkgCustodyEntry p i.val := by
  fin_cases i <;> rfl

/-- Settles O48: the payload of each kind, and the row that it gives. -/
theorem packageRowsCarryThePackage : Obligations.PackageRowsCarryThePackage := by
  unfold Obligations.PackageRowsCarryThePackage
  intro s p m seq stamp k h hauth hhandle kind e counter gen tag row holds tamper
  have hk : pkgAuth p = k := ofNat_of_eq_val hauth
  have hh : pkgHandle p = h := ofNat_of_eq_val hhandle
  have hrow : ∀ {q : PackageKind} {r : Record}, kind = q.code →
      (pkgKind p = q → s.packagePayload p m = .plain (pkgHeader p) r) → holds r := fun hq hpayload => by
    change (s.packagePayload p m).row seq stamp = _
    rw [hpayload (pkgKind_of_code hq), pkgHeader, hk]
    rfl
  refine ⟨fun r hq hrole => ?_, fun y hq hy => ?_, fun hq => ?_, fun hq => ?_, fun hq => ?_, fun hq => ?_,
    fun hq => ?_, fun n c t hq hn hc ht => ?_, fun hq => ?_, fun hq => ?_, fun hq => ?_⟩
  · intro policy expiry limit
    have hr : pkgRole p = r := by rw [pkgRole, pkgRoleByte, hrole, Option.getD_some]
    change (s.packagePayload p m).row seq stamp = _
    rw [State.packagePayload, pkgKind_of_code (k := .stage) hq]
    simp only [pkgHeader, hk, hh, hr]
    rfl
  · refine hrow (q := .confirm) hq fun hkind => ?_
    simp only [State.packagePayload, hkind, hh, show (s.entry h).staged = some y from hy]
    rfl
  · exact hrow (q := .cancel) hq fun hkind => by simp only [State.packagePayload, hkind, hh]; rfl
  · exact hrow (q := .revoke) hq fun hkind => by simp only [State.packagePayload, hkind, hh]; rfl
  · exact hrow (q := .release) hq fun hkind => by simp only [State.packagePayload, hkind, hh]; rfl
  · exact hrow (q := .timeset) hq fun hkind => by simp only [State.packagePayload, hkind]; rfl
  · exact hrow (q := .unlock) hq fun hkind => by simp only [State.packagePayload, hkind]; rfl
  · have hsubject : pkgSubject p = n := ofNat_of_eq_val hn
    have hcommand : pkgCommandHandle p = c := ofNat_of_eq_val hc
    have htransport : pkgTransportHandle p = t := ofNat_of_eq_val ht
    refine hrow (q := .authority) hq fun hkind => ?_
    simp only [State.packagePayload, hkind, definitionRecord, hsubject, hcommand, htransport]
    rfl
  · exact ⟨pkgCustodyMap p, hrow (q := .custody) hq fun hkind => by simp only [State.packagePayload, hkind],
      pkgCustodyMap_getElem p⟩
  · exact hrow (q := .setup) hq fun hkind => by simp only [State.packagePayload, hkind]; rfl
  · exact hrow (q := .finalize) hq fun hkind => by simp only [State.packagePayload, hkind]

end Sys2Proof.Machine

/-!
PROOFS about the durable records of device and provisioning packages (R106, R107, R113, R121 to R124, R140, R146, R154, R155).
-/

namespace Sys2Proof.Machine

open Sys2Proof

/-- Only the mark of a CONFIRM can be late (R103). -/
theorem lateConfirm_of_no_handle {d : RowData} (h : d.record.handle? = none) (s : State) : s.lateConfirm d = false := by
  unfold State.lateConfirm
  split
  next hrecord => rw [hrecord] at h; cases h
  next => rfl

/-- The event of a device or provisioning package's record, whose effect `a` leaves the jobs, the port and the directory. -/
theorem State.RecordEnds.device_lands {s a : State} {owner : Option (JobId × Job)} {loc : Location} {d : RowData} {k : AuthNo}
    {c : Nat} {tag : Tag} (hends : s.RecordEnds owner loc d) (hheader : d.header = ⟨some k, some (c, tag)⟩)
    (hhandle : d.record.handle? = none) (happly : (s.rowEnded loc d).applyPackageRecord loc d.stamp d.record = a)
    (hengine : a.engine = (s.rowEnded loc d).engine) (hport : a.port = (s.rowEnded loc d).port)
    (hdirectory : a.directory = (s.rowEnded loc d).directory) :
    ∃ t, exec .appendCompletion s = .next t ∧ t.time = a.time ∧ t.tamper = a.tamper ∧ t.custody = a.custody ∧
      (∀ k', t.authority k' = if k' = k then { a.authority k' with accepted := c, lastTag := some tag } else a.authority k') ∧
      (∀ j x, owner = some (j, x) →
        t.port = ({ s.port with figures := s.figuresAfter } : Port).jobDone x .ok (pkgResults x.input)) ∧
      (owner = none → t.port = { s.port with figures := s.figuresAfter }) ∧ (∀ j, t.job j = none) ∧
      ∀ h, t.entry h = { s.entry h with writeList := (t.entry h).writeList } := by
  obtain ⟨hreclaim, -, -, ⟨payload, failures, hprogram⟩, howner⟩ := hends
  obtain ⟨hengine₀, hport₀, -, hdirectory₀, -⟩ := s.rowEnded_reads loc d
  rw [hengine₀] at hengine
  rw [hport₀] at hport
  rw [hdirectory₀] at hdirectory
  obtain ⟨b, hb⟩ : ∃ b, a.acceptPackage d.header = b := ⟨_, rfl⟩
  have haccept := acceptPackage_eq hheader a
  rw [hb] at haccept
  have hjob : ∀ i, b.job i = s.job i := fun i => by rw [haccept]; exact State.job_congr hengine i
  have hauthority : ∀ k', b.authority k' =
      if k' = k then { a.authority k' with accepted := c, lastTag := some tag } else a.authority k' := fun k' => by
    rw [haccept, State.authority_onAuthority]
    by_cases hk : k = k'
    · rw [if_pos hk, if_pos hk.symm, hk]
    · rw [if_neg hk, if_neg (Ne.symm hk)]
  have hentry : ∀ h, b.entry h = s.entry h := fun h => by rw [haccept]; exact State.entry_congr hdirectory h
  have hport' : b.port = { s.port with figures := s.figuresAfter } := by rw [haccept]; exact hport
  have hdurable := applyDurable_package (owner := owner) happly fun j x ho => by
    subst ho
    obtain ⟨⟨hx, -⟩, -⟩ := howner
    exact (State.job_congr hengine j).trans hx
  have hexec := exec_appendCompletion hprogram hreclaim
  dsimp only at hexec
  rw [hdurable, lateConfirm_of_no_handle hhandle] at hexec
  cases owner with
  | none =>
    obtain ⟨hnone, -⟩ := howner
    have hjobs : ∀ i, b.job i = none := fun i => (hjob i).trans (hnone i)
    simp only [State.packageDone, hb, hhandle, State.dropOrphan, settle_of_no_jobs hjobs] at hexec
    exact ⟨b, hexec, by rw [haccept]; rfl, by rw [haccept]; rfl, by rw [haccept]; rfl, hauthority, nofun, fun _ => hport', hjobs,
      fun h => by rw [hentry]⟩
  | some o =>
    obtain ⟨j, x⟩ := o
    obtain ⟨⟨hx, hothers⟩, -⟩ := howner
    have hx' : b.job j = some x := (hjob j).trans hx
    have hjobs : ∀ i, (b.finishJob j .ok (pkgResults x.input)).job i = none := fun i => by
      rw [job_finishJob hx']
      split
      next => rfl
      next hi => exact (hjob i).trans (hothers i hi)
    simp only [State.packageDone, hb, Bool.false_eq_true, if_false, settle_of_no_jobs hjobs] at hexec
    obtain ⟨-, -, hauthorities, hcustody, -, htime, htamper, -⟩ := finishJob_sameElsewhere hx' .ok (pkgResults x.input)
    refine ⟨_, hexec, by rw [htime, haccept]; rfl, by rw [htamper, haccept]; rfl, by rw [hcustody, haccept]; rfl, fun k' => ?_,
      fun _ _ e => ?_, nofun, hjobs, fun h => ?_⟩
    · rw [State.authority, hauthorities]
      exact hauthority k'
    · cases e
      rw [finishJob_port hx', hport']
    · rw [entry_finishJob hx', hentry]

/-- Settles O51: the effect of each record, and the completion of its job where a warm reset has not aborted it. -/
theorem packageRecordsChangeTheDevice : Obligations.PackageRecordsChangeTheDevice := by
  unfold Obligations.PackageRecordsChangeTheDevice
  intro s owner loc d k c tag hends hheader stamped unlocked shown accepts after
  refine ⟨fun offered hrecord => ?_, fun a b hrecord => ?_, fun m y hrecord => ?_, fun map hrecord => ?_, fun a b hrecord => ?_,
    fun a b hrecord => ?_⟩
  all_goals
    have hhandle : d.record.handle? = none := by rw [hrecord]; rfl
    have hlands := fun a => hends.device_lands (a := a) hheader hhandle
    rw [hrecord] at hlands
  · exact hlands _ rfl rfl rfl rfl
  · exact hlands _ rfl rfl rfl rfl
  · obtain ⟨t, hexec, htime, htamper, hcustody, hauthority, hrest⟩ := hlands _ rfl rfl rfl rfl
    have hredefined : ∀ k', ((s.rowEnded loc d).applyPackageRecord loc d.stamp (.authority m y)).authority k' =
        if k' = m then (s.authority m).redefine y else s.authority k' := fun k' =>
      (State.authority_onAuthority _ m k' _).trans (ite_congr (propext eq_comm) (fun _ => rfl) fun _ => rfl)
    refine ⟨t, hexec, htime, htamper, hcustody, fun k' => (hauthority k').trans ?_, hrest⟩
    rw [hredefined]
    rfl
  · exact hlands _ rfl rfl rfl rfl
  · exact hlands _ rfl rfl rfl rfl
  · exact hlands _ rfl rfl rfl rfl

end Sys2Proof.Machine

/-!
PROOFS about the moves of the package lane: the key that it asks P for, the end of its operations in the core, and what follows the
release of P (R48, R52, R94, R95, R99, R114, R115).
-/

namespace Sys2Proof.Machine

open Sys2Proof

/-! ## P and the append queue -/

/-- P asks for the row read of a KEY row (R43, R52). -/
theorem startOpening_package (s : State) (h : HandleNo) (g : Nat) :
    s.startOpening .package h g = s.setSlotState .package (.reading h g (s.readAsked h g)) := by
  have hread : ∀ v, (s.setSlotState .package v).slotState .package = v := fun v => rfl
  rw [State.startOpening, State.startRead, hread, State.readAsked]
  change (match (s.entry h).locationOf g with
    | none => s.setSlotState .package (.reading h g none)
    | some l => if s.store.bankBusy l.bank then s.setSlotState .package (.reading h g none)
      else s.setSlotState .package (.reading h g (some l))) = _
  cases (s.entry h).locationOf g with
  | none => rfl
  | some l =>
    rw [Option.filter_some]
    by_cases hbusy : s.store.bankBusy l.bank = true
    · simp only [hbusy, if_true]
      rfl
    · simp only [hbusy]
      rfl

/-- The wipe of P begins (R48, R52). -/
theorem wipe_package {s : State} {h : HandleNo} {g : Nat} {p : Policy} {k : List Byte} (hp : s.slots.package = .opened h g p k) :
    s.wipe .package = s.setSlotState .package (.closing s.time.milli) := by
  rw [State.wipe, show s.slotState .package = .opened h g p k from hp]

/-- The wipe of P completes with the milli-tick after the one at which it began (R48). -/
theorem exec_wipeCompletion_package {s : State} {since : Nat} (hp : s.slots.package = .closing since)
    (hdue : since < s.time.milli) : exec (.wipeCompletion .package) s = .next (s.setSlotState .package .empty).settle := by
  rw [exec, execWipeCompletion, show s.slotState .package = .closing since from hp]
  exact congrArg Host.Outcome.next (if_pos hdue)

/-- An append of an ACTIVE part whose store is not in FAULT joins the tail of the queue (R132). -/
theorem askAppend_owned {s : State} (hfault : s.store.fault = false) (hactive : s.supply.activity = .active) (r : Requester)
    (p : Payload) : s.askAppend (.owned r p) = s.onStore fun t => { t with queue := t.queue ++ [.owned r p] } := by
  rw [State.askAppend, wake_of_active hactive, if_neg (ne_true_of_eq_false hfault)]
  rfl

/-- A read is asked for at the location that the directory gives, whatever stands in the write lists. -/
theorem readAsked_congr {s t : State} {h : HandleNo} {l : List WriteEntry} (hentry : t.entry h = { s.entry h with writeList := l })
    (hstore : t.store = s.store) (g : Nat) : t.readAsked h g = s.readAsked h g := by
  rw [State.readAsked, State.readAsked, hentry, hstore]
  rfl

theorem onEntry_congr {s : State} {h : HandleNo} {f g : HandleEntry → HandleEntry} (hfg : f (s.entry h) = g (s.entry h)) :
    s.onEntry h f = s.onEntry h g := by
  rw [State.entry, Fin.getElem_fin] at hfg
  simp only [State.onEntry, Fin.getElem_fin, hfg]

/-! ## One move after another -/

/-- Three moves, after which none is open. -/
theorem settle_of_three {s t u v : State} (h : s.internalStep = some t) (ht : t.internalStep = some u)
    (hu : u.internalStep = some v) (hv : v.internalStep = none) : s.settle = v := by
  rw [State.settle, State.settleFor, h]
  simp only
  rw [State.settleFor, ht]
  simp only
  rw [State.settleFor, hu]
  simp only
  rw [State.settleFor, hv]

/-- The lane moves where no front of a write list is to be judged. -/
theorem internalStep_of_laneStep {s t : State} (hwrites : ∀ j, s.writeFront j = none) (h : s.laneStep = some t) :
    s.internalStep = some t := by
  rw [State.internalStep, List.findSome?_eq_none_iff.mpr fun j _ => hwrites j, h]
  rfl

/-- A job at this step waits for the turn of no write list and of no slot. -/
def JobStep.inLane : JobStep → Bool
  | .slotQueue | .writeWait | .confirmWait => false
  | _ => true

/-- No front of a write list is judged where no job waits for one (R65). -/
theorem writeFront_of_inLane {s : State} (h : ∀ j x, s.job j = some x → x.step.inLane = true) (j : JobId) : s.writeFront j = none :=
  writeFront_eq_none fun x hx hs => by
    have hin := h j x hx
    rcases hs with e | e
    · rw [e] at hin
      cases hin
    · rw [e] at hin
      cases hin

/-- With P busy, a part whose jobs wait for no write list and no slot waits for an event from outside. -/
theorem still_of_package_busy {s : State} (hjobs : ∀ j x, s.job j = some x → x.step.inLane = true)
    (hp : s.slots.package ≠ .empty) (hwaiting : s.engine.laneWaiting = []) : s.Still := by
  have hno : ∀ {j x}, s.job j = some x → ∀ u, u.inLane = false → x.step ≠ u := fun hx u hu e => by
    have hin := hjobs _ _ hx
    rw [e, hu] at hin
    cases hin
  refine ⟨fun j x hx hs => ?_, .inl hwaiting, fun _ _ _ _ he => absurd he hp, fun _ j x _ hx hs => absurd hs (hno hx _ rfl)⟩
  rcases hs with e | e
  · exact absurd e (hno hx _ rfl)
  · exact absurd e (hno hx _ rfl)

/-- What holds of the only job in hand holds of every job. -/
theorem State.OnlyJob.forall {s : State} {j : JobId} {x : Job} (h : s.OnlyJob j x) {P : Job → Prop} (hx : P x) (i : JobId) (y : Job)
    (hy : s.job i = some y) : P y := by
  by_cases hi : i = j
  · rw [hi, h.1] at hy
    cases hy
    exact hx
  · rw [h.2 i hi] at hy
    cases hy

/-- After its release the lane job goes on (R52, R94, R99). -/
theorem laneStep_of_releasing {s : State} {j : JobId} {x : Job} {next : AfterRelease} (hlane : s.engine.lane = some j)
    (hx : s.job j = some x) (hstep : x.step = .releasing next) (hp : s.slots.package = .empty) :
    s.laneStep = some (s.afterRelease j x next) := by
  rw [State.laneStep, hlane]
  simp only [hx, hp, hstep]

/-- The lane job that needs a key asks an EMPTY P for it (R52, R94, R99). -/
theorem laneStep_of_keyWait {s : State} {j : JobId} {x : Job} {asked : LaneKey} {g : Nat} (hlane : s.engine.lane = some j)
    (hx : s.job j = some x) (hstep : x.step = .keyWait asked g) (hp : s.slots.package = .empty) :
    s.laneStep = some (s.setSlotState .package
      (.reading (s.laneKeyHandle x.input asked) g (s.readAsked (s.laneKeyHandle x.input asked) g))) := by
  rw [State.laneStep, hlane]
  simp only [hx, hp, hstep]
  exact congrArg some (startOpening_package s _ g)

/-! ## The end of an operation of the lane -/

theorem packageMatches_iff (key p : List Byte) :
    packageMatches key p = true ↔ Config.packageTag key 1 (bytesAt p 0 112) = pkgTag p := by
  rw [packageMatches, decide_eq_true_eq]
  rfl

/-- P's release has begun, and the only job in hand waits for it. -/
theorem State.OnlyJob.settle_releasing {s : State} {j : JobId} {y : Job} {next : AfterRelease} (h : s.OnlyJob j y)
    (hstep : y.step = .releasing next) (hp : s.slots.package = .closing s.time.milli) (hwaiting : s.engine.laneWaiting = []) :
    s.settle = s :=
  settle_of_still (still_of_package_busy
    (h.forall (P := fun z => z.step.inLane = true) (by rw [hstep]; rfl))
    (by rw [hp]; nofun) hwaiting)

/-- A package's tag comparison (R94, R114). -/
theorem packageCompared_eq {s : State} {j : JobId} {x : Job} {second : Bool} {h : HandleNo} {g : Nat} {p : Policy} {k : List Byte}
    (hx : s.job j = some x) (hstep : x.step = .tagRun second) (hp : s.slots.package = .opened h g p k) (key : List Byte) :
    s.packageCompared j key =
      if Config.packageTag key 1 (bytesAt x.input 0 112) = pkgTag x.input then
        ((s.setSlotState .package (.closing s.time.milli)).onAuthority (pkgAuth x.input) fun a => { a with failCount := 0 }).setJob j
          (some { x with
            step := .releasing .tagMatched, notes := if second then x.notes ||| noteGraceUsed else x.notes })
      else (s.setSlotState .package (.closing s.time.milli)).setJob j
        (some { x with step := .releasing (.tagMismatched second) }) := by
  rw [State.packageCompared, hx]
  simp only [hstep]
  by_cases hmatch : Config.packageTag key 1 (bytesAt x.input 0 112) = pkgTag x.input
  · rw [if_pos ((packageMatches_iff key x.input).mpr hmatch), if_pos hmatch]
    obtain ⟨u, hu⟩ : ∃ u, (s.onAuthority (pkgAuth x.input) fun a => { a with failCount := 0 }) = u := ⟨_, rfl⟩
    have hxu : u.job j = some x := hu ▸ hx
    have hnoted : (if second = true then u.addNotes j noteGraceUsed else u).setStep j (.releasing .tagMatched) =
        u.setJob j (some { x with
          step := .releasing .tagMatched, notes := if second then x.notes ||| noteGraceUsed else x.notes }) := by
      cases second with
      | false => exact onJob_eq_setJob hxu _
      | true => exact (congrArg (State.setStep · j _) (onJob_eq_setJob hxu _)).trans (onJob_setJob _ _ _ _)
    rw [hu, hnoted, wipe_package (h := h) (g := g) (p := p) (k := k) (by rw [← hu]; exact hp), ← hu]
    rfl
  · rw [if_neg (mt (packageMatches_iff key x.input).mp hmatch), if_neg hmatch, State.setStep, onJob_eq_setJob hx]
    exact wipe_package hp

/-- The unwrap of a STAGE key (R99). -/
theorem stageUnwrapped_eq {s : State} {j : JobId} {x : Job} {h : HandleNo} {g : Nat} {p : Policy} {k : List Byte}
    (hx : s.job j = some x) (hp : s.slots.package = .opened h g p k) (key : List Byte) : s.stageUnwrapped j key =
      match Config.rewrapStageKey key (pkgWrappedKey x.input) (pkgWrapCheck x.input) with
      | none => (s.setSlotState .package (.closing s.time.milli)).setJob j (some { x with step := .releasing .wrapBad })
      | some m => (s.setSlotState .package (.closing s.time.milli)).setJob j
          (some { x with step := .releasing .keyUnwrapped, material := m }) := by
  rw [State.stageUnwrapped, hx]
  dsimp only
  cases Config.rewrapStageKey key (pkgWrappedKey x.input) (pkgWrapCheck x.input) with
  | none =>
    rw [State.setStep, onJob_eq_setJob hx]
    exact wipe_package hp
  | some m =>
    dsimp only
    rw [onJob_eq_setJob hx]
    exact wipe_package hp

/-- Settles O40: the verdict of the tag, and the unwrapped key. -/
theorem laneOperationsReleaseP : Obligations.LaneOperationsReleaseP := by
  unfold Obligations.LaneOperationsReleaseP
  intro s j x key h g p k hjob hp hwaiting done
  have hx : s.coreEnded.job j = some x := hjob.1
  have hreleases : ∀ {u : State} {y : Job} {next : AfterRelease}, u.engine = s.engine → u.slots.package = .closing u.time.milli →
      y.step = .releasing next → (u.setJob j (some y)).settle = u.setJob j (some y) := by
    intro u y next hengine hclosing hstep
    have honly : u.OnlyJob j x :=
      ⟨(State.job_congr hengine j).trans hjob.1, fun i hi => (State.job_congr hengine i).trans (hjob.2 i hi)⟩
    exact (honly.setJob y).settle_releasing hstep hclosing (show u.engine.laneWaiting = [] by rw [hengine, hwaiting])
  refine ⟨fun second hcore hstep => ?_, fun hcore => ?_⟩
  · rw [exec, execPackageTagCheckEnd, hcore.1]
    simp only [Bool.false_eq_true, if_false]
    rw [coreIdle_of_coreEnds hcore, packageCompared_eq hx hstep hp]
    split
    · exact congrArg Host.Outcome.next (hreleases rfl rfl rfl)
    · exact congrArg Host.Outcome.next (hreleases rfl rfl rfl)
  · rw [exec, execStageUnwrapEnd, hcore.1]
    simp only [Bool.false_eq_true, if_false]
    rw [coreIdle_of_coreEnds hcore, stageUnwrapped_eq hx hp]
    cases Config.rewrapStageKey key (pkgWrappedKey x.input) (pkgWrapCheck x.input) with
    | none => exact congrArg Host.Outcome.next (hreleases rfl rfl rfl)
    | some m => exact congrArg Host.Outcome.next (hreleases rfl rfl rfl)

/-! ## The release of P -/

/-- The only job in hand stands in the lane, P is EMPTY, and no job waits behind it. -/
structure State.LaneGoesOn (s : State) (j : JobId) (x : Job) : Prop where
  only : s.OnlyJob j x
  lane : s.engine.lane = some j
  waiting : s.engine.laneWaiting = []
  package : s.slots.package = .empty

theorem State.ReleaseEnds.goesOn {s : State} {j : JobId} {x : Job} {next : AfterRelease} (h : s.ReleaseEnds j x next) :
    exec (.wipeCompletion .package) s = .next (s.setSlotState .package .empty).settle ∧
      (s.setSlotState .package .empty).LaneGoesOn j x := by
  obtain ⟨honly, -, -, hlane, hwaiting, -, since, hp, hdue⟩ := h
  exact ⟨exec_wipeCompletion_package hp hdue, ⟨honly, hlane, hwaiting, rfl⟩⟩

section GoesOn

variable {s : State} {j : JobId} {x : Job} (h : s.LaneGoesOn j x)
include h

theorem State.LaneGoesOn.setJob (y : Job) : (s.setJob j (some y)).LaneGoesOn j y :=
  ⟨h.only.setJob y, h.lane, h.waiting, h.package⟩

theorem State.LaneGoesOn.setStep (u : JobStep) : s.setStep j u = s.setJob j (some (x.toStep u)) := setStep_eq h.only.1 u

/-- The lane job goes on after the release. -/
theorem State.LaneGoesOn.releases {next : AfterRelease} (hstep : x.step = .releasing next) :
    s.internalStep = some (s.afterRelease j x next) :=
  internalStep_of_laneStep
    (writeFront_of_inLane (h.only.forall (P := fun y => y.step.inLane = true) (by rw [hstep]; rfl)))
    (laneStep_of_releasing h.lane h.only.1 hstep h.package)

/-- The lane job asks P for a key. -/
theorem State.LaneGoesOn.asks {asked : LaneKey} {g : Nat} (hstep : x.step = .keyWait asked g) :
    s.internalStep = some (s.setSlotState .package
      (.reading (s.laneKeyHandle x.input asked) g (s.readAsked (s.laneKeyHandle x.input asked) g))) :=
  internalStep_of_laneStep
    (writeFront_of_inLane (h.only.forall (P := fun y => y.step.inLane = true) (by rw [hstep]; rfl)))
    (laneStep_of_keyWait h.lane h.only.1 hstep h.package)

/-- Once P reads a KEY row, the lane job waits for it. -/
theorem State.LaneGoesOn.reads {asked : LaneKey} {g : Nat} (hstep : x.step = .keyWait asked g) (a : HandleNo) (g' : Nat)
    (l : Option Location) : (s.setSlotState .package (.reading a g' l)).internalStep = none :=
  internalStep_of_still (still_of_package_busy
    (State.OnlyJob.forall (s := s.setSlotState .package _) h.only
      (P := fun y => y.step.inLane = true) (by rw [hstep]; rfl))
    nofun h.waiting)

/-- The lane job waits for the store. -/
theorem State.LaneGoesOn.waits {t : State} (hengine : t.engine = s.engine) (hstep : x.step.goesOnAlone = false) :
    t.internalStep = none := by
  have honly : t.OnlyJob j x :=
    ⟨(State.job_congr hengine j).trans h.only.1, fun i hi => (State.job_congr hengine i).trans (h.only.2 i hi)⟩
  exact internalStep_of_still (honly.still hstep (by rw [hengine, h.waiting]))

/-- The lane job completes, and no move is open. -/
theorem State.LaneGoesOn.finishes (st : Status) (values : List Nat) (i : JobId) : (s.finishJob j st values).job i = none := by
  rw [job_finishJob h.only.1]
  split
  next => rfl
  next hi => exact h.only.2 i hi

end GoesOn

/-! ## Tag failures -/

theorem afterRelease_of_retiring {s : State} {x : Job} {r : RetiringGen}
    (hr : (s.entry (s.authority (pkgAuth x.input)).commandHandle).retiring = some r) (hpresent : s.time.tt < r.graceEnd) (j : JobId) :
    s.afterRelease j x (.tagMismatched false) = s.setStep j (.keyWait .commandRetiring r.gen) := by
  have hp : (s.entry (s.laneKeyHandle x.input .commandRetiring)).presentRetiring s.time.tt = some r :=
    presentRetiring_eq_some_iff.mpr ⟨hr, hpresent⟩
  rw [State.afterRelease]
  simp only [hp]

theorem afterRelease_of_tried {s : State} {x : Job} {second : Bool}
    (htried : second = true ∨ ∀ r, (s.entry (s.authority (pkgAuth x.input)).commandHandle).retiring = some r → r.graceEnd ≤ s.time.tt)
    (j : JobId) : s.afterRelease j x (.tagMismatched second) = s.tagFailure j x := by
  unfold State.afterRelease
  dsimp only
  rcases htried with rfl | hlapsed
  · cases (s.entry (s.laneKeyHandle x.input .commandRetiring)).presentRetiring s.time.tt <;> rfl
  · have hp : (s.entry (s.laneKeyHandle x.input .commandRetiring)).presentRetiring s.time.tt = none :=
      Option.eq_none_iff_forall_ne_some.mpr fun r hr => by
        obtain ⟨hretiring, hpresent⟩ := presentRetiring_eq_some_iff.mp hr
        exact absurd hpresent (Nat.not_lt.mpr (hlapsed r hretiring))
    rw [hp]
    cases second <;> rfl

theorem onAuthority_onAuthority (s : State) (k : AuthNo) (f g : Authority → Authority) :
    (s.onAuthority k f).onAuthority k g = s.onAuthority k (g ∘ f) := by
  simp only [State.onAuthority, Fin.getElem_fin, Vector.getElem_set_self, Vector.set_set, Function.comp]

/-- A tag failure that leaves the count below the bound (R95, R114). -/
theorem tagFailure_of_below {s : State} {x : Job}
    (hbelow : min ((s.authority (pkgAuth x.input)).failCount + 1) 255 < 8) (j : JobId) : s.tagFailure j x =
      (s.onAuthority (pkgAuth x.input) fun a => { a with failCount := min (a.failCount + 1) 255 }).finishJob j .tagBad [] := by
  rw [State.tagFailure]
  exact if_neg (Nat.not_le.mpr hbelow)

/-- A tag failure at the bound locks the authority and asks for its record (R95, R115). -/
theorem tagFailure_of_full {s : State} {j : JobId} {x : Job} (hx : s.job j = some x)
    (hfull : 8 ≤ min ((s.authority (pkgAuth x.input)).failCount + 1) 255) (hfault : s.store.fault = false)
    (hactive : s.supply.activity = .active) :
    let a := s.authority (pkgAuth x.input)
    let locked : Authority := { a with failCount := min (a.failCount + 1) 255, lockUntil := min (s.time.tt + 3600) 0xFFFFFFFF }
    s.tagFailure j x = ((s.setJob j (some (x.toStep .lockStore))).onAuthority (pkgAuth x.input) fun _ => locked).onStore fun t =>
      { t with queue := t.queue ++
        [.owned (.lock (some j)) (.plain ⟨some (pkgAuth x.input), none⟩ (.authority (pkgAuth x.input) locked.record))] } := by
  intro a locked
  have hxl : (s.onAuthority (pkgAuth x.input) fun _ => locked).job j = some x := hx
  rw [State.tagFailure]
  refine (if_pos hfull).trans ?_
  dsimp only
  rw [onAuthority_onAuthority]
  change ((s.onAuthority (pkgAuth x.input) fun _ => locked).setStep j .lockStore).askAppend (.owned (.lock (some j))
    (.plain ⟨some (pkgAuth x.input), none⟩ (.authority (pkgAuth x.input)
      ((s.onAuthority (pkgAuth x.input) fun _ => locked).authority (pkgAuth x.input)).record))) = _
  rw [State.authority_onAuthority_self, setStep_eq hxl]
  exact askAppend_owned (s := (s.onAuthority (pkgAuth x.input) fun _ => locked).setJob j _) hfault hactive _ _

/-- Settles O41: the second key, and the failure below the bound and at it. -/
theorem tagFailuresCountAndLock : Obligations.TagFailuresCountAndLock := by
  unfold Obligations.TagFailuresCountAndLock
  intro s j x second hends k a keys count tried go released
  obtain ⟨hexec, hgoes⟩ := hends.goesOn
  obtain ⟨-, -, hstep, -⟩ := hends
  have hmove := hgoes.releases hstep
  refine ⟨fun r hfirst hr hpresent => ?_, fun htried hbelow => ?_, fun htried hfull hfault hactive => ?_⟩
  · subst hfirst
    rw [afterRelease_of_retiring (s := s.setSlotState .package .empty) hr hpresent, hgoes.setStep] at hmove
    have hnext := hgoes.setJob (x.toStep (.keyWait .commandRetiring r.gen))
    exact hexec.trans (congrArg Host.Outcome.next (settle_of_two hmove (hnext.asks rfl) (hnext.reads rfl _ _ _)))
  · rw [afterRelease_of_tried (s := s.setSlotState .package .empty) htried,
      tagFailure_of_below (s := s.setSlotState .package .empty) hbelow] at hmove
    have hcounted : ((s.setSlotState .package .empty).onAuthority k fun a =>
        { a with failCount := min (a.failCount + 1) 255 }).LaneGoesOn j x := ⟨hgoes.only, hgoes.lane, hgoes.waiting, rfl⟩
    have hjobs := hcounted.finishes .tagBad []
    obtain ⟨-, -, hauthorities, -, hstore, -⟩ := finishJob_sameElsewhere hcounted.only.1 .tagBad []
    refine ⟨_, hexec.trans (congrArg Host.Outcome.next (settle_of_one hmove (internalStep_of_no_jobs hjobs))),
      finishJob_port hcounted.only.1 .tagBad [], hjobs, slotState_finishJob hcounted.only.1 .tagBad [] .package, hstore, fun k' => ?_⟩
    rw [State.authority, hauthorities]
    exact (State.authority_onAuthority _ k k' _).trans (ite_congr (propext eq_comm) (fun _ => rfl) fun _ => rfl)
  · rw [afterRelease_of_tried (s := s.setSlotState .package .empty) htried,
      tagFailure_of_full (s := s.setSlotState .package .empty) hgoes.only.1 hfull hfault hactive] at hmove
    have hnext := hgoes.setJob (x.toStep .lockStore)
    exact hexec.trans (congrArg Host.Outcome.next (settle_of_one hmove (hnext.waits rfl rfl)))

end Sys2Proof.Machine

/-!
PROOFS about a package on its way to its record: the rights step, the write list, the state checks, the transport key of a STAGE and the
append (R64, R65, R85, R86, R96 to R100).
-/

namespace Sys2Proof.Machine

open Sys2Proof

/-! ## The record of a package -/

/-- A state that differs from another in no directory entry but for the write lists. -/
def State.SameButWrites (s t : State) : Prop := ∀ a, t.entry a = { s.entry a with writeList := (t.entry a).writeList }

/-- The write lists do not enter a package's payload (R100). -/
theorem packagePayload_congr {s t : State} (hentry : s.SameButWrites t) (hauthorities : t.authorities = s.authorities)
    (htamper : t.tamper = s.tamper) (p m : List Byte) : t.packagePayload p m = s.packagePayload p m := by
  have hauthority : ∀ k, t.authority k = s.authority k := fun k => by rw [State.authority, hauthorities]; rfl
  have hhighest : (t.entry (pkgHandle p)).highestGen = (s.entry (pkgHandle p)).highestGen := by rw [hentry]
  have hstaged : (t.entry (pkgHandle p)).staged = (s.entry (pkgHandle p)).staged := by rw [hentry]
  have hrole : (t.entry (pkgHandle p)).role = (s.entry (pkgHandle p)).role := by rw [hentry]
  unfold State.packagePayload
  dsimp only
  rw [hhighest, hstaged, hrole, hauthority, htamper]

/-- The lane job asks for its record, in an ACTIVE part whose store is not in FAULT (R100, R132). -/
theorem askPackage_eq {s : State} {j : JobId} {y : Job} (hy : s.job j = some y) (hfault : s.store.fault = false)
    (hactive : s.supply.activity = .active) (x : Job) : s.askPackage j x =
      (s.setJob j (some (y.toStep .recordStore))).onStore fun t =>
        { t with queue := t.queue ++ [.owned (.package (some j)) (s.packagePayload x.input x.material)] } := by
  rw [State.askPackage, setStep_eq hy]
  exact askAppend_owned (s := s.setJob j _) hfault hactive _ _

/-! ## The write list -/

/-- The write that a package of a handle kind joins its write list with (R64). -/
def Job.packageWrite (x : Job) (j : JobId) : WriteEntry := ⟨some j, (pkgKind x.input).writeKind, pkgGen x.input⟩

/-- The state in which package `x` has joined the write list of its handle (R64). -/
def State.packageJoined (s : State) (j : JobId) (x : Job) : State :=
  (s.setJob j (some (x.toStep .writeWait))).joinWriteList (pkgHandle x.input) (x.packageWrite j)

theorem entry_packageJoined (s : State) (j : JobId) (x : Job) (a : HandleNo) : (s.packageJoined j x).entry a =
    if pkgHandle x.input = a then { s.entry a with writeList := (s.entry a).writeList ++ [x.packageWrite j] } else s.entry a := by
  rw [State.packageJoined, State.joinWriteList, State.entry_onEntry]
  split
  next h => subst h; rfl
  next => rfl

theorem sameButWrites_packageJoined (s : State) (j : JobId) (x : Job) : s.SameButWrites (s.packageJoined j x) := fun a => by
  rw [entry_packageJoined]
  split <;> rfl

/-- Step 4 refuses the job (R96, R97). -/
theorem laneRights_of_refused {s : State} {x : Job} {st : Status}
    (hrights : rightsStep s.custody (s.authority (pkgAuth x.input)) x.input = some st) (j : JobId) :
    s.laneRights j x = s.finishJob j st [] := by
  rw [State.laneRights]
  simp only [hrights]

/-- Step 4 passes a device or provisioning kind, which asks for its record (R97, R100). -/
theorem laneRights_of_device {s : State} {x : Job}
    (hrights : rightsStep s.custody (s.authority (pkgAuth x.input)) x.input = none) (hkind : (pkgKind x.input).onHandle = false)
    (j : JobId) : s.laneRights j x = s.askPackage j x := by
  rw [State.laneRights]
  simp only [hrights, hkind]
  rfl

/-- Step 4 passes a handle kind, which joins its write list (R64, R96). -/
theorem laneRights_of_handle {s : State} {j : JobId} {x : Job} (hx : s.job j = some x)
    (hrights : rightsStep s.custody (s.authority (pkgAuth x.input)) x.input = none) (hkind : (pkgKind x.input).onHandle = true) :
    s.laneRights j x = s.packageJoined j x := by
  rw [State.laneRights]
  simp only [hrights, hkind, if_true, setStep_eq hx]
  rfl

/-- The state checks do not read the write list (R98). -/
theorem stateChecks_congr {e e' : HandleEntry} {l : List WriteEntry} (h : e' = { e with writeList := l }) (tt : Nat)
    (p : List Byte) : stateChecks e' tt p = stateChecks e tt p := by
  subst h
  rfl

/-- The state checks refuse the package at the front (R98). -/
theorem packageFront_of_refused {s : State} {x : Job} {st : Status}
    (hchecks : stateChecks (s.entry (pkgHandle x.input)) s.time.tt x.input = some st) (j : JobId) :
    s.packageFront j x = s.finishJob j st [] := by
  rw [State.packageFront]
  simp only [hchecks]

/-- A package that is no STAGE asks for its record at the front (R98, R100). -/
theorem packageFront_of_mark {s : State} {x : Job}
    (hchecks : stateChecks (s.entry (pkgHandle x.input)) s.time.tt x.input = none) (hkind : pkgKind x.input ≠ .stage) (j : JobId) :
    s.packageFront j x = s.askPackage j x := by
  rw [State.packageFront]
  simp only [hchecks, hkind, if_false]

/-- A STAGE asks P for the transport key (R99). -/
theorem packageFront_of_stage {s : State} {x : Job} {c : CurrentGen}
    (hchecks : stateChecks (s.entry (pkgHandle x.input)) s.time.tt x.input = none) (hkind : pkgKind x.input = .stage)
    (hrole : (s.entry (s.authority (pkgAuth x.input)).transportHandle).role = some .authTransport)
    (hcurrent : (s.entry (s.authority (pkgAuth x.input)).transportHandle).current = some c) (j : JobId) :
    s.packageFront j x = s.setStep j (.keyWait .transport c.gen) := by
  rw [State.packageFront]
  simp only [hchecks, hkind, if_true, State.laneKeyHandle, hrole, hcurrent]

/-- A STAGE whose transport key is not there completes WRAP_BAD (R99). -/
theorem packageFront_of_no_transport {s : State} {x : Job}
    (hchecks : stateChecks (s.entry (pkgHandle x.input)) s.time.tt x.input = none) (hkind : pkgKind x.input = .stage)
    (hnone : ¬((s.entry (s.authority (pkgAuth x.input)).transportHandle).role = some .authTransport ∧
      (s.entry (s.authority (pkgAuth x.input)).transportHandle).current.isSome = true)) (j : JobId) :
    s.packageFront j x = s.finishJob j .wrapBad [] := by
  rw [State.packageFront]
  simp only [hchecks, hkind, if_true, State.laneKeyHandle]
  split
  next hrole hcurrent => exact absurd ⟨hrole, by rw [hcurrent]; rfl⟩ hnone
  next => rfl

/-! ## A package alone in hand -/

/-- Package `x`, the only job in hand, completes with a refusal: P is EMPTY, and the records and the directory stand. -/
def State.PackageRefused (s t : State) (x : Job) (st : Status) : Prop :=
  t.port = s.port.jobDone x st [] ∧ (∀ j, t.job j = none) ∧ t.slots.package = .empty ∧ t.store = s.store ∧
    t.authorities = s.authorities ∧ t.custody = s.custody ∧ s.SameButWrites t

theorem State.SameButWrites.trans {s t u : State} (h : s.SameButWrites t) (k : t.SameButWrites u) : s.SameButWrites u :=
  fun a => by
    have ha := k a
    rw [h a] at ha
    exact ha

theorem State.LaneGoesOn.refused {s : State} {j : JobId} {x : Job} (h : s.LaneGoesOn j x) (st : Status) :
    (s.finishJob j st []).internalStep = none ∧ s.PackageRefused (s.finishJob j st []) x st := by
  have hjobs := h.finishes st []
  obtain ⟨-, -, hauthorities, hcustody, hstore, -⟩ := finishJob_sameElsewhere h.only.1 st []
  exact ⟨internalStep_of_no_jobs hjobs, finishJob_port h.only.1 st [], hjobs,
    (slotState_finishJob h.only.1 st [] .package).trans h.package, hstore, hauthorities, hcustody, entry_finishJob h.only.1 st []⟩

theorem State.LaneGoesOn.packageJoined {s : State} {j : JobId} {x : Job} (h : s.LaneGoesOn j x) :
    (s.packageJoined j x).LaneGoesOn j (x.toStep .writeWait) :=
  ⟨h.only.setJob (x.toStep .writeWait), h.lane, h.waiting, h.package⟩

theorem State.PackageRefused.of_joined {s t : State} {j : JobId} {x : Job} {st : Status}
    (h : (s.packageJoined j x).PackageRefused t (x.toStep .writeWait) st) : s.PackageRefused t x st := by
  obtain ⟨hport, hjobs, hpackage, hstore, hauthorities, hcustody, hwrites⟩ := h
  exact ⟨hport, hjobs, hpackage, hstore, hauthorities, hcustody, (sameButWrites_packageJoined s j x).trans hwrites⟩

/-- A job that has joined an empty write list stands at its front, and is judged there (R65). -/
theorem State.LaneGoesOn.front {s : State} {j : JobId} {x : Job} (h : s.LaneGoesOn j x) (hkind : x.kind = .package)
    (hlist : (s.entry (pkgHandle x.input)).writeList = []) :
    (s.packageJoined j x).internalStep = some ((s.packageJoined j x).packageFront j (x.toStep .writeWait)) := by
  have hhandle : (x.toStep .writeWait).writeHandle = pkgHandle x.input := if_pos hkind
  have hfront : (s.packageJoined j x).atWriteFront j (x.toStep .writeWait) = true := by
    rw [State.atWriteFront, hhandle, entry_packageJoined, if_pos rfl, hlist]
    simp [Job.packageWrite]
  refine h.packageJoined.only.internalStep ?_
  rw [State.writeFront, h.packageJoined.only.1]
  exact if_pos hfront

/-- The job that has joined an empty write list, at a later step of its course. -/
theorem setJob_packageJoined {s : State} {x : Job} (hlist : (s.entry (pkgHandle x.input)).writeList = []) (j : JobId) (y : Job) :
    (s.packageJoined j x).setJob j (some y) =
      (s.onEntry (pkgHandle x.input) fun e => { e with writeList := [x.packageWrite j] }).setJob j (some y) := by
  have hentry : (s.onEntry (pkgHandle x.input) fun e => { e with writeList := e.writeList ++ [x.packageWrite j] }) =
      s.onEntry (pkgHandle x.input) fun e => { e with writeList := [x.packageWrite j] } :=
    onEntry_congr (by rw [hlist]; rfl)
  rw [← hentry]
  exact setJob_setJob (s.onEntry (pkgHandle x.input) fun e => { e with writeList := e.writeList ++ [x.packageWrite j] }) j _ _

section Alone

variable {s : State} {j : JobId} {x : Job}

/-- The lane job asks for its record, and waits for the store (R100). -/
theorem State.LaneGoesOn.asksRecord (h : s.LaneGoesOn j x) (hfault : s.store.fault = false) (hactive : s.supply.activity = .active)
    (y : Job) : (s.askPackage j y).internalStep = none := by
  rw [askPackage_eq h.only.1 hfault hactive]
  exact (h.setJob (x.toStep .recordStore)).waits rfl rfl

/-- What follows a match, for the only job in hand (R96 to R100). -/
theorem State.ReleaseEnds.matched (hends : s.ReleaseEnds j x .tagMatched) :
    let p := x.input
    let verdict := rightsStep s.custody (s.authority (pkgAuth p)) p
    let released := s.setSlotState .package .empty
    exec (.wipeCompletion .package) s = .next released.settle ∧ released.LaneGoesOn j x ∧
      released.internalStep = some (released.laneRights j x) ∧
      ∀ st, verdict = some st → ∃ t, exec (.wipeCompletion .package) s = .next t ∧ s.PackageRefused t x st := by
  intro p verdict released
  obtain ⟨hexec, hgoes⟩ := hends.goesOn
  obtain ⟨-, -, hstep, -⟩ := hends
  have hmove : released.internalStep = some (released.laneRights j x) := hgoes.releases hstep
  refine ⟨hexec, hgoes, hmove, fun st hrefused => ?_⟩
  obtain ⟨hnone, hdone⟩ := hgoes.refused st
  rw [laneRights_of_refused (s := released) hrefused] at hmove
  exact ⟨_, hexec.trans (congrArg Host.Outcome.next (settle_of_one hmove hnone)), hdone⟩

/-- A handle kind that passes step 4 and finds its write list empty is judged by its state checks (R65, R96, R98). -/
theorem State.ReleaseEnds.atFront (hends : s.ReleaseEnds j x .tagMatched)
    (hrights : rightsStep s.custody (s.authority (pkgAuth x.input)) x.input = none) (hkind : (pkgKind x.input).onHandle = true)
    (hlist : (s.entry (pkgHandle x.input)).writeList = []) :
    let released := s.setSlotState .package .empty
    let joined := released.packageJoined j x
    joined.LaneGoesOn j (x.toStep .writeWait) ∧
      stateChecks (joined.entry (pkgHandle x.input)) joined.time.tt x.input =
        stateChecks (s.entry (pkgHandle x.input)) s.time.tt x.input ∧
      released.internalStep = some joined ∧ joined.internalStep = some (joined.packageFront j (x.toStep .writeWait)) ∧
      ∀ st, joined.packageFront j (x.toStep .writeWait) = joined.finishJob j st [] →
        ∃ t, exec (.wipeCompletion .package) s = .next t ∧ s.PackageRefused t x st := by
  intro released joined
  obtain ⟨hexec, hgoes, hmove, -⟩ := hends.matched
  obtain ⟨-, hpackage, -⟩ := hends
  have hjoined := hgoes.packageJoined
  have hfront := hgoes.front hpackage hlist
  rw [laneRights_of_handle (s := s.setSlotState .package .empty) hgoes.only.1 hrights hkind] at hmove
  refine ⟨hjoined, stateChecks_congr (sameButWrites_packageJoined released j x _) _ _, hmove, hfront, fun st hrefused => ?_⟩
  obtain ⟨hnone, hdone⟩ := hjoined.refused st
  exact ⟨_, hexec.trans (congrArg Host.Outcome.next (settle_of_two hmove (hfront.trans (congrArg some hrefused)) hnone)),
    hdone.of_joined⟩

/-- A CONFIRM, a CANCEL, a REVOKE or a RELEASE that passes its state checks asks for its record (R98, R100). -/
theorem State.ReleaseEnds.markAsked (hends : s.ReleaseEnds j x .tagMatched)
    (hrights : rightsStep s.custody (s.authority (pkgAuth x.input)) x.input = none) (hkind : (pkgKind x.input).onHandle = true)
    (hlist : (s.entry (pkgHandle x.input)).writeList = [])
    (hchecks : stateChecks (s.entry (pkgHandle x.input)) s.time.tt x.input = none) (hstage : pkgKind x.input ≠ .stage)
    (hfault : s.store.fault = false) (hactive : s.supply.activity = .active) :
    exec (.wipeCompletion .package) s = .next (((((s.setSlotState .package .empty).onEntry (pkgHandle x.input) fun e =>
      { e with writeList := [x.packageWrite j] }).setJob j (some (x.toStep .recordStore)))).onStore fun t =>
        { t with queue := t.queue ++ [.owned (.package (some j)) (s.packagePayload x.input x.material)] }) := by
  obtain ⟨hjoined, hsame, hmove, hfront, -⟩ := hends.atFront hrights hkind hlist
  rw [packageFront_of_mark (x := x.toStep .writeWait) (hsame.trans hchecks) hstage] at hfront
  have hasked := hjoined.asksRecord hfault hactive (x.toStep .writeWait)
  rw [hends.goesOn.1, settle_of_two hmove hfront hasked, askPackage_eq hjoined.only.1 hfault hactive,
    setJob_packageJoined (s := s.setSlotState .package .empty) hlist,
    packagePayload_congr (s := s) (sameButWrites_packageJoined (s.setSlotState .package .empty) j x) rfl rfl]
  rfl

/-- A STAGE that passes its state checks asks P for the transport key (R98, R99). -/
theorem State.ReleaseEnds.transportAsked (hends : s.ReleaseEnds j x .tagMatched)
    (hrights : rightsStep s.custody (s.authority (pkgAuth x.input)) x.input = none)
    (hlist : (s.entry (pkgHandle x.input)).writeList = [])
    (hchecks : stateChecks (s.entry (pkgHandle x.input)) s.time.tt x.input = none) (hstage : pkgKind x.input = .stage)
    {c : CurrentGen} (hrole : (s.entry (s.authority (pkgAuth x.input)).transportHandle).role = some .authTransport)
    (hcurrent : (s.entry (s.authority (pkgAuth x.input)).transportHandle).current = some c) :
    let transport := (s.authority (pkgAuth x.input)).transportHandle
    exec (.wipeCompletion .package) s = .next ((((s.setSlotState .package .empty).onEntry (pkgHandle x.input) fun e =>
      { e with writeList := [x.packageWrite j] }).setJob j (some (x.toStep (.keyWait .transport c.gen)))).setSlotState .package
        (.reading transport c.gen (s.readAsked transport c.gen))) := by
  intro transport
  obtain ⟨hjoined, hsame, hmove, hfront, -⟩ := hends.atFront hrights (by rw [hstage]; rfl) hlist
  have hwrites := sameButWrites_packageJoined (s.setSlotState .package .empty) j x
  rw [packageFront_of_stage (x := x.toStep .writeWait) (c := c) (hsame.trans hchecks) hstage
    (by rw [hwrites]; exact hrole) (by rw [hwrites]; exact hcurrent), hjoined.setStep] at hfront
  have hwaits := hjoined.setJob ((x.toStep .writeWait).toStep (.keyWait .transport c.gen))
  rw [hends.goesOn.1, settle_of_three hmove hfront (hwaits.asks rfl) (hwaits.reads rfl _ _ _)]
  have hread : ((s.setSlotState .package .empty).packageJoined j x).readAsked transport c.gen = s.readAsked transport c.gen :=
    readAsked_congr (hwrites transport) rfl c.gen
  change Host.Outcome.next (State.setSlotState (State.setJob _ j _) .package
    (.reading transport c.gen (State.readAsked ((s.setSlotState .package .empty).packageJoined j x) transport c.gen))) = _
  rw [hread, setJob_packageJoined (s := s.setSlotState .package .empty) hlist]
  rfl

end Alone

/-! ## A package behind another write -/

/-- With P just released, a part that waits for an event from outside judges no front of a write list (R65). -/
theorem State.Still.writeFront_eq_none {s : State} (h : s.Still) (j : JobId) :
    (s.setSlotState .package .empty).writeFront j = none :=
  Machine.writeFront_eq_none fun x hx hs => by
    obtain ⟨hwrites, -⟩ := h
    unfold State.atWriteFront
    cases hw : (s.entry x.writeHandle).writeList.head? with
    | none =>
      change Option.any _ (s.entry x.writeHandle).writeList.head? = false
      rw [hw]
      rfl
    | some w =>
      change Option.any _ (s.entry x.writeHandle).writeList.head? = false
      rw [hw]
      simpa using hwrites j x hx hs w hw

/-- The package that has joined its write list behind another job's write waits for its turn, and the others wait on (R65). -/
theorem State.Still.packageJoined {s : State} {j : JobId} {x : Job} {w : WriteEntry} {rest : List WriteEntry} (h : s.Still)
    (hlane : s.engine.lane = some j) (hlist : (s.entry (pkgHandle x.input)).writeList = w :: rest)
    (hkind : x.kind = .package) (howner : w.owner ≠ some j) : ((s.setSlotState .package .empty).packageJoined j x).Still := by
  obtain ⟨hwrites, -, -, hfronts⟩ := h
  have hjob : ∀ i, ((s.setSlotState .package .empty).packageJoined j x).job i = if j = i then some (x.toStep .writeWait) else s.job i :=
    fun i => State.job_setJob _ j i _
  refine ⟨fun i y hy hs w' hw' => ?_, .inr (.inl (by change s.engine.lane ≠ none; rw [hlane]; nofun)), fun i y hi hy _ => ?_,
    fun i i' y hi hy hs => ?_⟩
  · have hhead : ∀ a, (((s.setSlotState .package .empty).packageJoined j x).entry a).writeList.head? = some w' →
        (s.entry a).writeList.head? = some w' := fun a ha => by
      rw [entry_packageJoined] at ha
      split at ha
      next he =>
        subst he
        change ((s.entry _).writeList ++ _).head? = _ at ha
        rw [hlist] at ha ⊢
        exact ha
      next => exact ha
    have hold := hhead _ hw'
    rw [hjob] at hy
    split at hy
    next hij =>
      cases hy
      rw [show (x.toStep .writeWait).writeHandle = pkgHandle x.input from if_pos hkind, hlist] at hold
      cases hold
      exact hij ▸ howner
    next => exact hwrites i y hy hs w' hold
  · have hij : j = i := Option.some.inj (hlane.symm.trans hi)
    rw [hjob, if_pos hij] at hy
    cases hy
    exact ⟨nofun, nofun⟩
  · rw [hjob] at hy
    split at hy
    next => cases hy; cases hs
    next => exact hfronts i i' y hi hy hs

/-! ## The write behind a STAGE whose key does not unwrap -/

/-- Package `x` has completed WRAP_BAD, and left the CHECK `y` of record `j'` alone in hand, with its write first in the list. -/
structure State.WrapFailed (s v : State) (j' : JobId) (x y : Job) : Prop where
  settles : ∀ t, v.internalStep = some t → t.internalStep = none → exec (.wipeCompletion .package) s = .next t
  only : v.OnlyJob j' y
  port : v.port = s.port.jobDone x .wrapBad []
  waiting : v.engine.laneWaiting = []
  entry : v.entry y.handle = { s.entry y.handle with writeList := [y.confirmWrite j'] }
  store : v.store = s.store
  time : v.time = s.time

theorem wrapFailed_of_releasing {s : State} {j j' : JobId} {x y : Job} {since : Nat} {w : WriteEntry} (hjobs : s.OnlyJobs j x j' y)
    (hkind : x.kind = .package) (hstep : x.step = .releasing .wrapBad) (hlane : s.engine.lane = some j)
    (hwaiting : s.engine.laneWaiting = []) (hp : s.slots.package = .closing since) (hdue : since < s.time.milli)
    (hykind : y.kind = .check) (hhandle : y.handle = pkgHandle x.input) (howner : w.owner = some j)
    (hlist : (s.entry y.handle).writeList = [w, y.confirmWrite j']) : ∃ v, s.WrapFailed v j' x y := by
  obtain ⟨hne, hjx, hjy, hothers⟩ := hjobs
  have hwrites : ∀ i, (s.setSlotState .package .empty).writeFront i = none := fun i => writeFront_eq_none fun z hz hs => by
    change s.job i = some z at hz
    by_cases hi : i = j
    · cases (hi ▸ hz).symm.trans hjx
      exact absurd hs (by simp [hstep])
    · by_cases hi' : i = j'
      · cases (hi' ▸ hz).symm.trans hjy
        change Option.any _ (s.entry y.writeHandle).writeList.head? = false
        rw [writeHandle_of_check hykind, hlist]
        simpa [howner, hi'] using hne
      · cases (hothers i hi hi').symm.trans hz
  have hx : (s.setSlotState .package .empty).job j = some x := hjx
  have hmove : (s.setSlotState .package .empty).internalStep = some ((s.setSlotState .package .empty).finishJob j .wrapBad []) :=
    internalStep_of_laneStep hwrites (laneStep_of_releasing (s := s.setSlotState .package .empty) hlane hx hstep rfl)
  obtain ⟨-, -, -, -, hstore, htime, -⟩ := finishJob_sameElsewhere hx .wrapBad []
  refine ⟨_, fun t ht hnone => (exec_wipeCompletion_package hp hdue).trans (congrArg _ (settle_of_two hmove ht hnone)), ⟨?_, fun i hi => ?_⟩,
    finishJob_port hx .wrapBad [], ?_, ?_, hstore, htime⟩
  · rw [job_finishJob hx, if_neg (Ne.symm hne)]
    exact hjy
  · rw [job_finishJob hx]
    split
    next => rfl
    next hij => exact hothers i hij hi
  · rw [finishJob_engine hx]
    change s.engine.laneWaiting.filter _ = []
    rw [hwaiting]
    rfl
  · have hleft := writeList_finishJob hx (.inr hkind) .wrapBad []
    rw [show x.writeHandle = y.handle from (if_pos hkind).trans hhandle.symm] at hleft
    have hkept : (s.entry y.handle).writeList.filter (fun w => w.owner != some j) = [y.confirmWrite j'] := by
      rw [hlist]
      simp [howner, Job.confirmWrite, Ne.symm hne]
    rw [entry_finishJob hx, hleft]
    exact congrArg (fun l => { s.entry y.handle with writeList := l }) hkept

section Behind

variable {s v : State} {j' : JobId} {x y : Job} (hv : s.WrapFailed v j' x y)
include hv

theorem State.WrapFailed.confirms : v.confirms y = s.confirms y := by
  rw [State.confirms, State.confirms, hv.entry, hv.time]
  rfl

/-- The CHECK stands at the front of the write list (R65). -/
theorem State.WrapFailed.judges (hkind : y.kind = .check) (hstep : y.step = .confirmWait) :
    v.internalStep = some (v.confirmFront j' y) := by
  have hfront : v.atWriteFront j' y = true := by
    rw [State.atWriteFront, writeHandle_of_check hkind, hv.entry]
    simp [Job.confirmWrite]
  refine hv.only.internalStep ?_
  rw [State.writeFront, hv.only.1]
  simp only
  rw [if_pos hfront, hstep]

/-- The generation that it was to confirm is not the present staged one: the CHECK completes OK (R86). -/
theorem State.WrapFailed.gone (hkind : y.kind = .check) (hstep : y.step = .confirmWait) (hgone : s.confirms y = none) :
    ∃ t, exec (.wipeCompletion .package) s = .next t ∧ t.port = (s.port.jobDone x .wrapBad []).jobDone y .ok [y.gen] ∧
      (∀ i, t.job i = none) ∧ (t.entry y.handle).writeList = [] := by
  have hmove := hv.judges hkind hstep
  rw [confirmFront_of_none (hv.confirms.trans hgone)] at hmove
  have hjobs := hv.only.noJobs_finishUse .ok [y.gen]
  have hleft := writeList_finishUse hv.only.1 hkind .ok [y.gen]
  rw [hv.entry] at hleft
  exact ⟨_, hv.settles _ hmove (internalStep_of_no_jobs hjobs), by rw [finishUse_port hv.only.1, hv.port], hjobs,
    hleft.trans (by simp [Job.confirmWrite])⟩

/-- The generation that it is to confirm is present: its mark is asked for (R86). -/
theorem State.WrapFailed.present (hkind : y.kind = .check) (hstep : y.step = .confirmWait) {g : StagedGen}
    (hg : s.confirms y = some g) (hfault : s.store.fault = false) :
    ∃ t, exec (.wipeCompletion .package) s = .next t ∧ t.port = s.port.jobDone x .wrapBad [] ∧
      (t.entry y.handle).writeList = [y.confirmWrite j'] ∧
      (∀ i, t.job i = if i = j' then some (y.toStep .confirmStore) else none) ∧
      t.store.queue = s.store.queue ++ [y.confirmAppend j' g] := by
  have hmove := hv.judges hkind hstep
  rw [confirmFront_of_present hv.only.1 (hv.confirms.trans hg) (hv.store ▸ hfault), wake_eq] at hmove
  have honly := hv.only.setJob (y.toStep .confirmStore)
  refine ⟨_, hv.settles _ hmove (internalStep_of_still ?_), hv.port, ?_, fun i => ?_, ?_⟩
  · exact State.OnlyJob.still (x := y.toStep .confirmStore) honly rfl hv.waiting
  · exact congrArg HandleEntry.writeList hv.entry
  · split
    next hi => exact hi ▸ honly.1
    next hi => exact honly.2 i hi
  · exact congrArg (fun t : Store => t.queue ++ [y.confirmAppend j' g]) hv.store

end Behind

/-- Settles O42: a package behind a write, a write behind a package, and a package alone in hand. -/
theorem packageReachesItsRecord : Obligations.PackageReachesItsRecord := by
  unfold Obligations.PackageReachesItsRecord
  refine ⟨?_, ?_, ?_⟩
  · intro s j x since w rest hstill hx hkind hstep hlane hp hdue hrights hhandle hlist howner
    have hx' : (s.setSlotState .package .empty).job j = some x := hx
    have hmove := internalStep_of_laneStep hstill.writeFront_eq_none (laneStep_of_releasing (s := s.setSlotState .package .empty)
      hlane hx' hstep rfl)
    rw [State.afterRelease, laneRights_of_handle hx' hrights hhandle] at hmove
    exact (exec_wipeCompletion_package hp hdue).trans (congrArg Host.Outcome.next
      (settle_of_one hmove (internalStep_of_still (hstill.packageJoined hlane hlist hkind howner))))
  · intro s j j' x y since w hjobs hkind hstep hlane hwaiting hp hdue hykind hystep hhandle _ howner e behind hlist first
    obtain ⟨v, hv⟩ := wrapFailed_of_releasing hjobs hkind hstep hlane hwaiting hp hdue hykind hhandle howner hlist
    refine ⟨fun hgone => hv.gone hykind hystep ?_, fun g hg hgen hpresent hfault =>
      hv.present hykind hystep (confirms_eq_some_iff.mpr ⟨hg, hgen, hpresent⟩) hfault⟩
    refine Option.eq_none_iff_forall_ne_some.mpr fun g hg => ?_
    obtain ⟨hstaged, hgen, hpresent⟩ := confirms_eq_some_iff.mp hg
    exact absurd hpresent (Nat.not_lt.mpr (hgone g hstaged hgen))
  · intro s j x p h verdict checks transport go released joined completes asks storeTakes
    refine ⟨fun hends => ⟨fun st hrefused => ?_, fun hrights hdevice htakes => ?_, fun hrights hhandle hlist =>
      ⟨fun st hrefused => ?_, fun hpassed hstage htakes => ?_, fun hpassed hstage => ⟨fun c hrole hcurrent => ?_, fun hnone => ?_⟩⟩⟩,
      fun hends htakes => ?_, fun hends => ?_⟩
    · obtain ⟨-, -, -, hrefuses⟩ := hends.matched
      exact hrefuses st hrefused
    · obtain ⟨hfault, hactive⟩ := htakes
      obtain ⟨hexec, hgoes, hmove, -⟩ := hends.matched
      rw [laneRights_of_device (s := s.setSlotState .package .empty) hrights hdevice] at hmove
      refine hexec.trans (congrArg Host.Outcome.next ((settle_of_one hmove (hgoes.asksRecord hfault hactive x)).trans ?_))
      exact askPackage_eq hgoes.only.1 hfault hactive x
    · obtain ⟨-, hsame, -, -, hrefuses⟩ := hends.atFront hrights hhandle hlist
      exact hrefuses st (packageFront_of_refused (x := x.toStep .writeWait) (hsame.trans hrefused) j)
    · obtain ⟨hfault, hactive⟩ := htakes
      exact hends.markAsked hrights hhandle hlist hpassed hstage hfault hactive
    · exact hends.transportAsked hrights hlist hpassed hstage hrole hcurrent
    · obtain ⟨-, hsame, -, -, hrefuses⟩ := hends.atFront hrights hhandle hlist
      have hwrites := sameButWrites_packageJoined (s.setSlotState .package .empty) j x
      exact hrefuses .wrapBad (packageFront_of_no_transport (x := x.toStep .writeWait) (hsame.trans hpassed) hstage
        (by rw [hwrites]; exact hnone) j)
    · obtain ⟨hfault, hactive⟩ := htakes
      obtain ⟨hexec, hgoes⟩ := hends.goesOn
      obtain ⟨-, -, hstep, -⟩ := hends
      refine hexec.trans (congrArg Host.Outcome.next
        ((settle_of_one (hgoes.releases hstep) (hgoes.asksRecord hfault hactive x)).trans ?_))
      exact askPackage_eq hgoes.only.1 hfault hactive x
    · obtain ⟨hexec, hgoes⟩ := hends.goesOn
      obtain ⟨-, -, hstep, -⟩ := hends
      obtain ⟨hnone, hdone⟩ := hgoes.refused .wrapBad
      exact ⟨_, hexec.trans (congrArg Host.Outcome.next (settle_of_one (hgoes.releases hstep) hnone)), hdone⟩

end Sys2Proof.Machine

/-!
PROOFS about a package that waits behind the record of an aborted one: where TT stands beyond the bound of R143, a TIMESET record takes it
back below the end of a lock (R90, R92, R143, R146).
-/

namespace Sys2Proof.Machine

open Sys2Proof

/-- A PACKAGE of authority A0 with counter 0 and tag 0 that waits for the lane. -/
def Job.waitingPackage : Job where
  card := 0
  kind := .package
  header := []
  body := []
  input := []
  step := .laneWait
  notes := 0
  matched := false
  gen := 0
  counter := 0
  material := []
  output := []

/-- The record of a TIMESET of authority A0 with counter 0 and tag 0, which offers a time beyond 32 bits. -/
def RowData.timesetBeyond : RowData := ⟨0, 0, ⟨some 0, some (0, 0)⟩, .time (some 0x100000000)⟩

/-- The record of an aborted TIMESET is in program, and the same authority's package waits behind it. TT stands at 0FFFFFFFFh, one above
the bound of R143, where the authority's lock ends. -/
def State.behindTimeset : State :=
  { State.cold .powerOn RowArray.factory [] 0 with
    engine := ⟨(Vector.replicate 6 none).set 0 (some Job.waitingPackage), none, [0]⟩
    authorities := (Vector.replicate 6 Authority.undefined).set 0 ⟨true, 0, 0, true, false, 0, none, 0, 0xFFFFFFFF⟩
    time := ⟨0, 0, 0, 0xFFFFFFFF, 0, 0, 0, 900, 0, .none⟩
    store := { Store.cold RowArray.factory with
      program := some ⟨.package none, .copy RowData.timesetBeyond, ⟨0, 0⟩, RowData.timesetBeyond, 0⟩ } }

/-- The TIMESET brings TT back to 0FFFFFFFEh, so that the waiting package finds its authority locked, and is refused. -/
theorem behindTimeset_refuses {t : State} (h : exec .appendCompletion State.behindTimeset = .next t) :
    t.port.figures.jobsOkM = 0 := by
  rw [exec_appendCompletion (p := ⟨.package none, .copy RowData.timesetBeyond, ⟨0, 0⟩, RowData.timesetBeyond, 0⟩) rfl rfl] at h
  rw [← Host.Outcome.next.inj h]
  decide +kernel

/-- Refutes O38. Its third part puts no bound on TT, so that a TIMESET record in hand may lower TT, and the authority be locked again
when the waiting job enters: it is answered AUTH_LOCKED, not ALREADY_APPLIED. -/
theorem not_packagesEnterTheLaneInTurn : ¬Obligations.PackagesEnterTheLaneInTurn := by
  unfold Obligations.PackagesEnterTheLaneInTurn
  rintro ⟨-, -, haborted, -⟩
  obtain ⟨t, hexec, -, -, -, hport⟩ := haborted State.behindTimeset 0 Job.waitingPackage (.copy RowData.timesetBeyond) ⟨0, 0⟩
    RowData.timesetBeyond 0 0 0 0 rfl rfl rfl rfl nofun rfl rfl (by unfold State.OnlyJob; decide) rfl rfl (by decide) rfl rfl rfl
    (by decide) rfl (by decide)
  have hok := behindTimeset_refuses hexec
  rw [hport] at hok
  exact absurd hok (by decide +kernel)

end Sys2Proof.Machine
